-- ==== Sys2Proof/Word.lean ====
section
/-! DEFINITION. The word types and the index types of the device (00_scope.md Table 1, R183). -/

namespace Sys2Proof

/-- One byte of a line, a body or the pool. -/
abbrev Byte := BitVec 8

/-- A two-byte field of a message (R183). -/
abbrev Half := BitVec 16

/-- A four-byte field of a message, or a word of the pool (R55, R183). -/
abbrev Word := BitVec 32

/-- A port, P0 to P3. -/
abbrev Port := Fin 4

/-- A tag, 0 to 7 (R184). -/
abbrev Tag := Fin 8

/-- A page number, 0 to 2047 (R1). -/
abbrev PageNo := Fin 2048

/-- A word of the pool, 0 to 2097151: its first byte is at four times its number (R55). -/
abbrev WordNo := Fin 2097152

/-- A bank, B0 to B3. -/
abbrev BankNo := Fin 4

/-- A frame of a window, 0 to 63 (R29). -/
abbrev FrameNo := Fin 64

end Sys2Proof
end

