-- ==== Sys2Proof/Syntax.lean ====
section
/-! DEFINITION. The commands of the block: one constructor of Instr per row of spec/opcode_table.json. -/

namespace Sys2Proof

/-- The three straps of one port (R206): true is high. -/
structure Straps where
  lineType : Bool
  rateHigh : Bool
  rateLow  : Bool
deriving DecidableEq, Repr

/-- Unconnected straps: single-ended at 1 Mbit/s (Table 11-3 note 1). -/
def Straps.low : Straps := { lineType := false, rateHigh := false, rateLow := false }

/-- How a store operation that reads ends: every word could be delivered, or one could not be repaired (R66). -/
inductive StoreOutcome where
  | good
  | uncorrectable
deriving DecidableEq, Repr

/-- The commands. A request names its port, its tag and the fields of its body at the widths of R183 (a coded field is
the byte the body carries, with a meaning or not). The other commands are the events of the spec's table. -/
inductive Instr where
  /- session (R151 to R153) and role (R194, R195) -/
  | openPort (p : Port) (t : Tag)
  | closePort (p : Port) (t : Tag)
  | info (p : Port) (t : Tag)
  | claim (p : Port) (t : Tag)
  | handover (p : Port) (t : Tag) (target : Byte)
  /- pool (R13 to R23) -/
  | alloc (p : Port) (t : Tag) (count : Byte)
  | free (p : Port) (t : Tag) (page : Half)
  | grant (p : Port) (t : Tag) (page : Half) (target right : Byte)
  | pageQuery (p : Port) (t : Tag) (page : Half)
  /- maps (R34 to R45) -/
  | map (p : Port) (t : Tag) (set frame : Byte) (page : Half) (access : Byte)
  | unmap (p : Port) (t : Tag) (set frame : Byte)
  | selectSet (p : Port) (t : Tag) (set : Byte)
  | mapQuery (p : Port) (t : Tag) (set first count : Byte)
  /- accesses (R48 to R62) -/
  | read (p : Port) (t : Tag) (frame : Byte) (offset : Half) (length : Byte)
  | write (p : Port) (t : Tag) (frame : Byte) (offset : Half) (data : List Byte)
  | swap (p : Port) (t : Tag) (frame : Byte) (offset : Half) (value : Word)
  | cas (p : Port) (t : Tag) (frame : Byte) (offset : Half) (expected new : Word)
  | add (p : Port) (t : Tag) (frame : Byte) (offset : Half) (delta : Word)
  | testclr (p : Port) (t : Tag) (frame : Byte) (offset : Half) (bit : Byte)
  | dectest (p : Port) (t : Tag) (frame : Byte) (offset : Half)
  /- locks (R81 to R90) -/
  | acquire (p : Port) (t : Tag) (frame mode : Byte) (lease wait : Half)
  | release (p : Port) (t : Tag) (page : Half)
  | renew (p : Port) (t : Tag) (page lease : Half)
  /- copy engine (R102 to R118) -/
  | copy (p : Port) (t : Tag) (srcSet srcFrame : Byte) (srcOffset : Half) (dstSet dstFrame : Byte) (dstOffset : Half)
      (length : Word)
  | fill (p : Port) (t : Tag) (dstSet dstFrame : Byte) (dstOffset : Half) (length pattern : Word)
  | cancel (p : Port) (t : Tag) (id : Byte)
  | jobQuery (p : Port) (t : Tag) (id : Byte)
  /- supervisor (R198 to R201, R124, R127) -/
  | configure (p : Port) (t : Tag) (mask gap : Byte) (lease : Half) (limit : Byte) (quota0 quota1 quota2 quota3 : Half)
  | drain (p : Port) (t : Tag) (bank : Byte)
  | restore (p : Port) (t : Tag) (bank : Byte)
  | eject (p : Port) (t : Tag) (target : Byte)
  | poolQuery (p : Port) (t : Tag)
  /- line events (R163 to R179) -/
  | byteReceived (p : Port) (b : Byte)
  | characterError (p : Port)
  | breakBegins (p : Port)
  | breakEnds (p : Port)
  | gapTimerRunsOut (p : Port)
  | resyncEnd (p : Port)
  | lastByteSent (p : Port)
  /- timers (R86 to R88) and the grant step (R80) -/
  | tick
  | leaseExpiry (page : PageNo) (p : Port)
  | waitTimeout (page : PageNo) (p : Port)
  | grantStep (page : PageNo)
  /- store completions (R68, R69), the switch (R43), the bank-offline check (R125) -/
  | accessCompletionGood (b : BankNo)
  | accessCompletionUncorrectable (b : BankNo)
  | switch (p : Port)
  | bankOffline (b : BankNo)
  /- copy engine steps (R107, R109, R113) -/
  | jobChoice
  | copyReadComplete (b : BankNo)
  | copyReadUncorrectable (b : BankNo)
  | copyWriteComplete (b : BankNo)
  /- sessions and the device (R155, R203 to R206, R72) -/
  | closedReached (p : Port)
  | powerOn
  | supplyFails
  | resetAsserted
  | resetReleased
  | runningEntry (straps0 straps1 straps2 straps3 : Straps)
  | operationCarriedToEnd (b : BankNo) (outcome : StoreOutcome)
deriving DecidableEq, Repr

end Sys2Proof
end

