-- ==== Sys2Proof/Decode.lean ====
section
/-! DEFINITION. Reading a command from a table word. spec/opcode_table.json gives none of its rows any bits: its rows are
requests and events, not words. So no word spells a command. (The bodies of requests are read in Machine/Operands.lean.) -/

namespace Sys2Proof

/-- The command an nbits-bit table word spells: none, since no row of the table has bits. -/
def decodeTableWord (_nbits _w : Nat) : Option Instr := none

end Sys2Proof
end

