-- ==== Sys2Proof/Config.lean ====
section
/-! DEFINITION. The fixed figures of the device (00_scope.md Table 1, R152, R197, Table 8-1, Table 11-3). What
the spec leaves open is the sender's choice or plain data in State (log entries 3, 8, 9, 11). -/

namespace Sys2Proof.Config

/-- The pool: 8 MiB. -/
abbrev poolBytes : Nat := 8388608
/-- The bytes of one page, and of one frame of a window. -/
abbrev pageBytes : Nat := 4096
/-- The bytes of a station's window. -/
abbrev windowBytes : Nat := 262144
/-- The pages of one bank. -/
abbrev bankPages : Nat := 512
/-- The places of the lock table (R73). -/
abbrev lockPlaces : Nat := 32
/-- The jobs the copy queue holds, in all and of one port (R99). -/
abbrev jobPlaces : Nat := 8
abbrev jobsPerPort : Nat := 3
/-- The largest segment of a job (R108). -/
abbrev segmentBytes : Nat := 64
/-- The request slots of a port (R147). -/
abbrev slotPlaces : Nat := 4
/-- The outbound queue's places, and the occupancy below which an event is admitted (R175, R177). -/
abbrev queuePlaces : Nat := 16
abbrev eventPlaces : Nat := 12
/-- The most data bytes a READ or a WRITE moves (R49). -/
abbrev accessBytes : Nat := 240
/-- The most pairs of one MAP-CHANGED event (R21). -/
abbrev pairPlaces : Nat := 64
/-- The largest lost count (R175). -/
abbrev lostMax : Nat := 255
/-- The start marker of a frame (Table 8-1). -/
abbrev marker : Byte := 0xC3
/-- The revision INFO and READY carry (R152, R204). -/
abbrev revision : Byte := 1
/-- The defaults of the configuration record (R197). -/
abbrev gapTime : Nat := 10
abbrev defaultLease : Nat := 1000
abbrev retireLimit : Nat := 8
abbrev quota : Nat := 512
/-- The wait limit that asks to wait without limit (R75). -/
abbrev noWaitLimit : Nat := 65535
/-- The vendor text, MORPELL and one byte 0, and the part text, TFK-4820 (R187 note 1). -/
def vendorText : List Byte := [0x4D, 0x4F, 0x52, 0x50, 0x45, 0x4C, 0x4C, 0x00]
def partText : List Byte := [0x54, 0x46, 0x4B, 0x2D, 0x34, 0x38, 0x32, 0x30]

end Sys2Proof.Config
end

