-- ==== Sys2Proof/Machine/State.lean ====
section
/-! DEFINITION. The state of the device, block by block (00_scope.md Table 2), and its value after power-on. -/

namespace Sys2Proof.Machine

/-! ## Coded values -/

/-- The map sets of a port (R29). -/
inductive MapSet where
  | a | b
deriving DecidableEq, Repr

/-- The set a COPY or FILL names: A, B or the set then present (R186). -/
inductive SetCode where
  | named (set : MapSet)
  | present
deriving DecidableEq, Repr

/-- The access a frame entry records (R29). -/
inductive Access where
  | readOnly | readWrite
deriving DecidableEq, Repr

/-- The right a page's owner grants (R1, R4). -/
inductive Right where
  | none | read | readWrite
deriving DecidableEq, Repr

/-- The modes of a lock (R74). -/
inductive LockMode where
  | shared | exclusive
deriving DecidableEq, Repr

/-- The states of a page (R2). -/
inductive PageState where
  | free | allocated | orphaned | withheld | retired
deriving DecidableEq, Repr

/-- The states of a bank (R123). -/
inductive BankState where
  | online | draining | offline
deriving DecidableEq, Repr

/-- The causes BANK-STATE carries (R129). -/
inductive BankCause where
  | drain | retireLimit | drained | restore
deriving DecidableEq, Repr

/-- The states of a port's session (R138). -/
inductive Session where
  | closed | opened | closing
deriving DecidableEq, Repr

/-- Why a port entered CLOSING (R138). -/
inductive CloseReason where
  | closed | linkLost | ejected
deriving DecidableEq, Repr

/-- The reasons of REJECTED (R174). -/
inductive RejectReason where
  | length | check | gap | line | kind
deriving DecidableEq, Repr

/-- The two kinds of start (R204). -/
inductive ResetKind where
  | powerOn | resetLine
deriving DecidableEq, Repr

/-- The change a pair of MAP-CHANGED tells (R19, R20). -/
inductive MapChange where
  | readOnly | removed
deriving DecidableEq, Repr

/-- The outcomes of DECTEST (R62). -/
inductive DecOutcome where
  | reachedZero | nonzero | wasZero
deriving DecidableEq, Repr

/-- The outcomes of a job (R119). -/
inductive JobOutcome where
  | done | cancelled | mediaError | locked
deriving DecidableEq, Repr

/-- The statuses of a reply (Table 9-3). -/
inductive Status where
  | ok | badForm | unknownCode | notOpen | badState | tagInUse | slotsFull | notSupervisor | bounds | unmapped | denied
  | locked | noSpace | quota | inUse | notFound | tableFull | alreadyHeld | contended | timeout | mediaError | overlap
  | queueFull
deriving DecidableEq, Repr

/-! ## Requests -/

/-- The five word-atomic operations with their operands (R58 to R62). -/
inductive AtomicOp where
  | swap (value : Word)
  | cas (expected new : Word)
  | add (delta : Word)
  | testclr (bit : Nat)
  | dectest
deriving DecidableEq, Repr

/-- What a store operation does to its bytes (R63): read length bytes, write the data, or read one word and write it. -/
inductive StoreKind where
  | read (length : Nat)
  | write (data : List Byte)
  | readThenWrite (op : AtomicOp)
deriving DecidableEq, Repr

/-- The fields a CONFIGURE names: those its presence mask leaves out are absent (R190). -/
structure ConfigFields where
  gap    : Option Byte
  lease  : Option Half
  limit  : Option Byte
  quotas : Vector (Option Half) 4
deriving DecidableEq, Repr

/-- A request as received, with its fields, once its coded fields have a meaning (R142, R147). The seven accesses are one
alternative: they differ in their store operation alone (Table 3-1). -/
inductive Request where
  | openSession
  | closeSession
  | info
  | claim
  | handover (target : Byte)
  | alloc (count : Byte)
  | free (page : Half)
  | grant (page : Half) (target : Byte) (right : Right)
  | pageQuery (page : Half)
  | map (set : MapSet) (frame : Byte) (page : Half) (access : Access)
  | unmap (set : MapSet) (frame : Byte)
  | selectSet (set : MapSet)
  | mapQuery (set : MapSet) (first count : Byte)
  | access (frame : Byte) (offset : Half) (kind : StoreKind)
  | acquire (frame : Byte) (mode : LockMode) (lease wait : Half)
  | release (page : Half)
  | renew (page lease : Half)
  | copy (srcSet : SetCode) (srcFrame : Byte) (srcOffset : Half) (dstSet : SetCode) (dstFrame : Byte)
      (dstOffset : Half) (length : Word)
  | fill (dstSet : SetCode) (dstFrame : Byte) (dstOffset : Half) (length pattern : Word)
  | cancel (id : Byte)
  | jobQuery (id : Byte)
  | configure (fields : ConfigFields)
  | drain (bank : Byte)
  | restore (bank : Byte)
  | eject (target : Byte)
  | poolQuery
deriving DecidableEq, Repr

/-! ## The records the blocks hold -/

/-- A page record (Table 1-3). -/
structure PageRec where
  state    : PageState
  owner    : Option Port
  grants   : Vector Right 4
  mapCount : Nat
  pinCount : Nat
  poisoned : Bool
deriving DecidableEq, Repr

/-- A bank record (R122). -/
structure BankRec where
  state     : BankState
  free      : Nat
  allocated : Nat
  orphaned  : Nat
  withheld  : Nat
  retired   : Nat
deriving DecidableEq, Repr

/-- What an enabled frame entry names (Table 2-2). -/
structure Entry where
  page   : PageNo
  access : Access
deriving DecidableEq, Repr

/-- A frame entry: none when disabled (Table 2-2). -/
abbrev FrameEntry := Option Entry

/-- The Frame Map Unit's share of one port: its two sets, present and pending set, and in-flight accesses (R29, R30, R40). -/
structure PortMaps where
  setA       : Vector FrameEntry 64
  setB       : Vector FrameEntry 64
  present    : MapSet
  pendingSet : Option MapSet
  inFlight   : Nat
deriving DecidableEq, Repr

/-- An in-flight access record (R54). -/
structure AccessRec where
  port   : Port
  tag    : Tag
  kind   : StoreKind
  page   : PageNo
  offset : Nat
deriving DecidableEq, Repr

/-- Who placed a store operation (R63). -/
inductive Origin where
  | access (p : Port) (t : Tag)
  | copy (id : Byte)
deriving DecidableEq, Repr

/-- A word of the pool whose stored value differs from its check code, with what a read delivers for it: the repaired value,
or none where the code cannot repair it (R66). -/
structure DamagedWord where
  word     : WordNo
  repaired : Option Word
deriving DecidableEq, Repr

/-- The pool: its stored bytes, and the words whose check code does not agree with them (R66), each list in one order. A
word in no record of damage reads as stored. -/
structure Pool where
  cells  : List Host.Cell
  damage : List DamagedWord
deriving DecidableEq, Repr

/-- A fault that arises in the medium: the value then stored in a word, and whether the word's check code can repair it
(R66). -/
structure WordFault where
  word       : WordNo
  stored     : Word
  repairable : Bool
deriving DecidableEq, Repr

/-- A store operation record (R63). -/
structure StoreOp where
  origin : Origin
  kind   : StoreKind
  page   : PageNo
  offset : Nat
deriving DecidableEq, Repr

/-- A holder record (R74). A lease remaining of 0 has run out and its expiry is still to be taken (log entry 9). -/
structure Holder where
  port      : Port
  mode      : LockMode
  remaining : Nat
deriving DecidableEq, Repr

/-- A waiter record (R75); a wait remaining of none never runs out. -/
structure Waiter where
  port      : Port
  mode      : LockMode
  tag       : Tag
  lease     : Half
  remaining : Option Nat
deriving DecidableEq, Repr

/-- A lock entry (R73). -/
structure LockEntry where
  page    : PageNo
  holders : List Holder
  waiters : List Waiter
deriving DecidableEq, Repr

/-- What a job does, with the fields its kind alone has (R100). -/
inductive JobKind where
  | copy (srcSet : MapSet) (srcPages : List PageNo) (srcStart : Nat)
  | fill (pattern : Word)
deriving DecidableEq, Repr

/-- The states of a job (R100). -/
inductive JobState where
  | queued | active
deriving DecidableEq, Repr

/-- A job record (Table 5-2). -/
structure Job where
  id        : Byte
  port      : Port
  kind      : JobKind
  dstSet    : MapSet
  dstPages  : List PageNo
  dstStart  : Nat
  length    : Nat
  bytesDone : Nat
  state     : JobState
  cancel    : Bool
deriving DecidableEq, Repr

/-- The configuration record (R197). -/
structure ConfigRec where
  gapTime      : Nat
  defaultLease : Nat
  retireLimit  : Nat
  quota        : Vector Nat 4
deriving DecidableEq, Repr

/-! ## Messages -/

/-- A pair of MAP-CHANGED (R21). -/
structure ChangedEntry where
  set    : MapSet
  frame  : FrameNo
  change : MapChange
deriving DecidableEq, Repr

/-- The fields of an OK reply (R187 to R190). -/
inductive Payload where
  | none
  | session (p : Port) (roleHeld : Bool) (quota owned : Nat)
  | info
  | pages (pages : List PageNo)
  | pageRecord (page : PageNo) (r : PageRec)
  | previous (page : Option PageNo)
  | selection (present : MapSet) (pendingSet : Option MapSet) (set : MapSet) (first : Nat) (entries : List FrameEntry)
  | bytes (data : List Byte)
  | old (word : Word)
  | oldSwapped (word : Word) (swapped : Bool)
  | priorBit (bit : Bool)
  | countdown (result : Word) (outcome : DecOutcome)
  | lease (page : PageNo) (ms : Nat)
  | jobId (id : Byte)
  | job (position : Nat) (j : Job)
  | config (c : ConfigRec)
  | pool (free : Nat) (banks : Vector BankRec 4) (role : Option Port) (sessions : Vector Session 4)
deriving DecidableEq, Repr

/-- The events the device sends (R191). -/
inductive Event where
  | ready (kind : ResetKind)
  | rejected (reason : RejectReason)
  | overflow (lost : Nat)
  | mapChanged (page : PageNo) (pairs : List ChangedEntry)
  | leaseLost (page : PageNo)
  | jobEnd (id : Byte) (outcome : JobOutcome) (moved : Nat)
  | bankState (bank : BankNo) (state : BankState) (cause : BankCause)
  | roleGained
  | portDown (p : Port) (reason : CloseReason)
  | sessionEnd (reason : CloseReason)
deriving DecidableEq, Repr

/-- A message of an outbound queue: a reply or an event with all its fields (R175). -/
inductive Message where
  | reply (t : Tag) (code : Byte) (status : Status) (payload : Payload)
  | event (e : Event)
deriving DecidableEq, Repr

/-! ## The Port Controller -/

/-- The states of an occupied slot (R147). -/
inductive SlotState where
  | held | inFlight | waiting
deriving DecidableEq, Repr

/-- A slot record (R147). -/
structure Slot where
  tag     : Tag
  request : Request
  state   : SlotState
deriving DecidableEq, Repr

/-- The receiver's state with the fields present in it (R164). -/
inductive RxState where
  | hunt
  | length (check : BitVec 16)
  | body (len : Nat) (soFar : List Byte) (check : BitVec 16)
  | check (len : Nat) (soFar : List Byte) (check : BitVec 16) (first : Option Byte)
  | resync
deriving DecidableEq, Repr

/-- The transmitter's states (R179). -/
inductive TxState where
  | idle | sending | stopped
deriving DecidableEq, Repr

/-- A Port Controller: session record (R138), slots (R147), receiver record (R164), outbound queue and lost count (R175),
transmitter (R179). A gap timer of none is stopped; of 0 has run out and its run-out is still to be taken (log entry 9). -/
structure PortCtl where
  session      : Session
  closeReason  : Option CloseReason
  inFlight     : Nat
  activeJob    : Bool
  slots        : List Slot
  rx           : RxState
  gap          : Option Nat
  breakInForce : Bool
  outbound     : List Message
  lost         : Nat
  tx           : TxState
deriving DecidableEq, Repr

/-! ## The device -/

/-- The phases of the device (Table 11-1). -/
inductive Phase where
  | reset | clearing | running
deriving DecidableEq, Repr

/-- The state of the device. schedule and faults are the model's own (log entries 8 and 11); pending is the queue of
commands waiting. -/
structure State where
  /- the device (R203 to R206) -/
  phase         : Phase
  supplyGood    : Bool
  resetAsserted : Bool
  nextStart     : ResetKind
  straps        : Vector Straps 4
  /- Port Controllers -/
  ports         : Vector PortCtl 4
  /- Page Directory -/
  pages         : Vector PageRec 2048
  freeList      : List PageNo
  owned         : Vector Nat 4
  banks         : Vector BankRec 4
  /- Frame Map Unit -/
  maps          : Vector PortMaps 4
  /- Access Unit, Bank Controllers and the pool -/
  accesses      : List AccessRec
  queues        : Vector (List StoreOp) 4
  pool          : Pool
  /- Lock Unit -/
  locks         : List LockEntry
  /- Copy Engine -/
  jobs          : List Job
  lastServed    : Port
  nextJobId     : Byte
  segment       : List Byte
  /- Supervisor Unit -/
  role          : Option Port
  config        : ConfigRec
  /- the model's own -/
  schedule      : List Nat
  faults        : List (List WordFault)
  pending       : List Instr
deriving DecidableEq, Repr

/-- The faults of the machine: none. The block has no processor's fault, and no command of it stops the machine (safe:
nothing is hidden behind a fault). -/
inductive Fault where
deriving DecidableEq, Repr

/-- The refusals of the machine. -/
inductive Refusal where
  /-- Raised by an arm of exec whose command has no meaning yet, and by nothing else (safe). -/
  | notModelled (mnemonic : String)
deriving DecidableEq, Repr

/-! ## Values after power-on -/

/-- No grant to any port (R1). -/
def noGrants : Vector Right 4 := Vector.replicate 4 .none

/-- A FREE page's record (R27). -/
def PageRec.free : PageRec :=
  { state := .free, owner := none, grants := noGrants, mapCount := 0, pinCount := 0, poisoned := false }

/-- An ONLINE bank whose every page is FREE (R136). -/
def BankRec.initial : BankRec :=
  { state := .online, free := Config.bankPages, allocated := 0, orphaned := 0, withheld := 0, retired := 0 }

/-- A port's empty map sets (R47). -/
def PortMaps.initial : PortMaps :=
  { setA := Vector.replicate 64 none, setB := Vector.replicate 64 none, present := .a, pendingSet := none, inFlight := 0 }

/-- The configuration record's defaults (R197). -/
def ConfigRec.initial : ConfigRec :=
  { gapTime := Config.gapTime, defaultLease := Config.defaultLease, retireLimit := Config.retireLimit,
    quota := Vector.replicate 4 Config.quota }

/-- A CLOSED port with nothing queued, whose line reports a break or none (R162, R182). -/
def PortCtl.initial (breakInForce : Bool) : PortCtl :=
  { session := .closed, closeReason := none, inFlight := 0, activeJob := false, slots := [],
    rx := if breakInForce then .resync else .hunt, gap := none, breakInForce := breakInForce, outbound := [], lost := 0,
    tx := if breakInForce then .stopped else .idle }

/-- The device at its entry to RUNNING after a power-on: every table as R27, R47, R72, R98, R121, R136, R162, R182, R192
and R197 give it for power-on, and READY admitted to every port's queue and being sent (R182, R204). Log entry 5. -/
def State.reset : State where
  phase := .running
  supplyGood := true
  resetAsserted := false
  nextStart := .powerOn
  straps := Vector.replicate 4 Straps.low
  ports := Vector.replicate 4
    { PortCtl.initial false with outbound := [.event (.ready .powerOn)], tx := .sending }
  pages := Vector.replicate 2048 .free
  freeList := List.finRange 2048
  owned := Vector.replicate 4 0
  banks := Vector.replicate 4 .initial
  maps := Vector.replicate 4 .initial
  accesses := []
  queues := Vector.replicate 4 []
  pool := { cells := [], damage := [] }
  locks := []
  jobs := []
  lastServed := 3
  nextJobId := 0
  segment := []
  role := none
  config := .initial
  schedule := []
  faults := []
  pending := []

end Sys2Proof.Machine
end

