-- ==== Sys2Proof/Machine/Ops.lean ====
section
/-! DEFINITION. The named operations over the registers and the pool that every block's rules are written from: one home
for each record, the pool's bytes and words, the bytes of numbers, admission to the outbound queues, and slots. -/

namespace Sys2Proof.Machine

/-! ## Numbers and bytes (R55, R183): least significant byte first -/

/-- The two bytes of a two-byte field. -/
def halfBytes (h : Half) : List Byte := [h.setWidth 8, (h >>> 8).setWidth 8]

/-- The four bytes of a four-byte field, or of a pool word. -/
def wordBytes (w : Word) : List Byte :=
  [w.setWidth 8, (w >>> 8).setWidth 8, (w >>> 16).setWidth 8, (w >>> 24).setWidth 8]

/-- The two-byte field whose low byte is b0. -/
def halfOf (b0 b1 : Byte) : Half := b1 ++ b0

/-- The word whose bytes are b0 to b3, b0 the least significant. -/
def wordOf (b0 b1 b2 b3 : Byte) : Word := (b3 ++ b2 : Half) ++ (b1 ++ b0 : Half)

/-- A number below n, or none. -/
def below (n x : Nat) : Option (Fin n) := if h : x < n then some ⟨x, h⟩ else none

/-! ## Traversals: each record of a file with its index, by recursion on the list, so that the kernel can evaluate them -/

/-- A list with each element changed by a function of its index. -/
def mapFrom {α β : Type} (f : Nat → α → β) : Nat → List α → List β
  | _, [] => []
  | i, x :: xs => f i x :: mapFrom f (i + 1) xs

theorem length_mapFrom {α β : Type} (f : Nat → α → β) (i : Nat) (xs : List α) : (mapFrom f i xs).length = xs.length := by
  induction xs generalizing i with
  | nil => rfl
  | cons x xs ih => simp [mapFrom, ih]

/-- A register file with each register changed by a function of its index. -/
def mapEach {α β : Type} {n : Nat} (v : Vector α n) (f : Nat → α → β) : Vector β n :=
  ⟨⟨mapFrom f 0 v.toList⟩, by simp [length_mapFrom]⟩

/-- The indexes, from one on, of the elements that pass a test, in ascending order. -/
def indexesFrom {α : Type} (n : Nat) (f : Nat → α → Bool) : Nat → List α → List (Fin n)
  | _, [] => []
  | i, x :: xs =>
    if h : i < n then
      if f i x then ⟨i, h⟩ :: indexesFrom n f (i + 1) xs else indexesFrom n f (i + 1) xs
    else []

/-- The indexes of the registers of a file that pass a test, in ascending order. -/
def indexesWhere {α : Type} {n : Nat} (v : Vector α n) (f : Nat → α → Bool) : List (Fin n) := indexesFrom n f 0 v.toList

/-! ## The pool (00_scope.md; an unlisted byte is zero, R27) -/

/-- What an unlisted address of the pool reads as: the bytes are zero after power-on until written (R14, R27). -/
def poolUnlisted : Byte := 0

/-- The byte of the pool at an address. -/
def readByte : List Host.Cell → Nat → Byte
  | [], _ => poolUnlisted
  | (k, v) :: m, a => if k = a then v else readByte m a

/-- The cell list with one byte stored, its form kept: addresses rising, no cell that says what an unlisted one says. -/
def writeByte : List Host.Cell → Nat → Byte → List Host.Cell
  | [], a, b => if b = poolUnlisted then [] else [(a, b)]
  | (k, v) :: m, a, b =>
    if a < k then (if b = poolUnlisted then (k, v) :: m else (a, b) :: (k, v) :: m)
    else if a = k then (if b = poolUnlisted then m else (a, b) :: m)
    else (k, v) :: writeByte m a b

/-- The bytes stored from an address up. -/
def writeBytes : List Host.Cell → Nat → List Byte → List Host.Cell
  | m, _, [] => m
  | m, a, b :: bs => writeBytes (writeByte m a b) (a + 1) bs

/-- The word whose first byte is at the address (R55). -/
def readWord (m : List Host.Cell) (a : Nat) : Word :=
  wordOf (readByte m a) (readByte m (a + 1)) (readByte m (a + 2)) (readByte m (a + 3))

/-- The canonical form of the pool's cell list: rising addresses, no cell holding the unlisted value. -/
def Memory.wf (m : List Host.Cell) : Bool :=
  (m.map Prod.fst).Pairwise (· < ·) ∧ ∀ c ∈ m, c.2 ≠ poolUnlisted

/-! ## Check codes (R66) -/

/-- The record of a word's damage. -/
def Pool.damageOf (m : Pool) (w : Nat) : Option DamagedWord := m.damage.find? (·.word.val == w)

/-- What a read delivers for a word: the stored value, the repaired value of a word its code can repair, or none. -/
def Pool.delivers (m : Pool) (w : Nat) : Option Word :=
  match m.damageOf w with
  | none => some (readWord m.cells (4 * w))
  | some d => d.repaired

/-- The byte a read delivers at an address, where its word can be delivered. -/
def Pool.byte (m : Pool) (a : Nat) : Byte :=
  match (m.damageOf (a / 4)).bind (·.repaired) with
  | none => readByte m.cells a
  | some w => (w >>> (8 * (a % 4))).setWidth 8

/-- The n bytes a read delivers from an address up. -/
def Pool.bytes (m : Pool) (a n : Nat) : List Byte := (List.range n).map fun i => m.byte (a + i)

/-- The word a read delivers at an address (R55). -/
def Pool.wordAt (m : Pool) (a : Nat) : Word := wordOf (m.byte a) (m.byte (a + 1)) (m.byte (a + 2)) (m.byte (a + 3))

/-- Whether every word that a read of n bytes touches can be delivered: otherwise the read is uncorrectable (R66). -/
def Pool.readable (m : Pool) (a n : Nat) : Bool := (List.range n).all fun i => (m.delivers ((a + i) / 4)).isSome

/-- The pool after a write: the bytes stored, and the check code of every word they touch renewed over what is then stored
in it, the bytes not written included (R66). -/
def Pool.write (m : Pool) (a : Nat) (bs : List Byte) : Pool :=
  { cells := writeBytes m.cells a bs,
    damage := m.damage.filter fun d => !(List.range bs.length).any fun i => (a + i) / 4 == d.word.val }

/-- A record of damage among others, by rising word, in place of any of the same word. -/
def insertDamage (d : DamagedWord) : List DamagedWord → List DamagedWord
  | [] => [d]
  | x :: xs =>
    if d.word < x.word then d :: x :: xs else if d.word = x.word then d :: xs else x :: insertDamage d xs

/-- The pool after a fault in a word: the value then stored, and what its code makes of it; a value that agrees with the code
is no damage. -/
def Pool.strike (m : Pool) (f : WordFault) : Pool :=
  let repaired := if f.repairable then m.delivers f.word else none
  { cells := writeBytes m.cells (4 * f.word) (wordBytes f.stored),
    damage := if repaired = some f.stored then m.damage.filter (·.word ≠ f.word)
      else insertDamage { word := f.word, repaired := repaired } m.damage }

/-- The pool with one word beyond repair, its stored value as it was. -/
def Pool.spoil (m : Pool) (w : WordNo) : Pool := { m with damage := insertDamage { word := w, repaired := none } m.damage }

/-- The canonical form of the pool: that of its cells, damaged words rising, and no record of a word that reads as stored. -/
def Pool.wf (m : Pool) : Bool :=
  Memory.wf m.cells ∧ (m.damage.map (·.word)).Pairwise (· < ·) ∧
    ∀ d ∈ m.damage, d.repaired ≠ some (readWord m.cells (4 * d.word))

/-- The pool address of an offset in a page. -/
def poolAddr (q : PageNo) (offset : Nat) : Nat := q.val * Config.pageBytes + offset

/-! ## One home for each record -/

/-- The Port Controller of a port. -/
def State.port (s : State) (p : Port) : PortCtl := s.ports[p]
/-- The state with one Port Controller changed. -/
def State.modPort (s : State) (p : Port) (f : PortCtl → PortCtl) : State := { s with ports := s.ports.set p (f (s.port p)) }
/-- The record of a page. -/
def State.page (s : State) (q : PageNo) : PageRec := s.pages[q]
/-- The state with one page record changed. -/
def State.modPage (s : State) (q : PageNo) (f : PageRec → PageRec) : State := { s with pages := s.pages.set q (f (s.page q)) }
/-- The record of a bank. -/
def State.bank (s : State) (b : BankNo) : BankRec := s.banks[b]
/-- The state with one bank record changed. -/
def State.modBank (s : State) (b : BankNo) (f : BankRec → BankRec) : State := { s with banks := s.banks.set b (f (s.bank b)) }
/-- The Frame Map Unit's share of a port. -/
def State.map (s : State) (p : Port) : PortMaps := s.maps[p]
/-- The state with one port's map record changed. -/
def State.modMap (s : State) (p : Port) (f : PortMaps → PortMaps) : State := { s with maps := s.maps.set p (f (s.map p)) }
/-- The store operations of a bank, oldest first. -/
def State.queue (s : State) (b : BankNo) : List StoreOp := s.queues[b]
/-- The state with one bank's queue changed. -/
def State.modQueue (s : State) (b : BankNo) (f : List StoreOp → List StoreOp) : State :=
  { s with queues := s.queues.set b (f (s.queue b)) }
/-- The owned count of a port (R5). -/
def State.ownedBy (s : State) (p : Port) : Nat := s.owned[p]
/-- The state with one owned count changed. -/
def State.modOwned (s : State) (p : Port) (f : Nat → Nat) : State := { s with owned := s.owned.set p (f (s.ownedBy p)) }

/-- The bank of a page: its number divided by 512, rounded down (R1). -/
def bankOf (q : PageNo) : BankNo := ⟨q.val / 512, by omega⟩

/-- The pages whose records pass a test, in ascending page order. -/
def State.pagesWhere (s : State) (f : Nat → PageRec → Bool) : List PageNo := indexesWhere s.pages f

/-- Whether a page number lies in a bank. -/
def inBank (b : BankNo) (q : Nat) : Bool := q / Config.bankPages == b.val

/-- Whether a port is OPEN. -/
def State.isOpen (s : State) (p : Port) : Bool := (s.port p).session == .opened

/-- Whether the device is RUNNING: in the other phases no request is taken and no timer runs (R203, R205). -/
def State.isRunning (s : State) : Bool := s.phase == .running

/-! ## Resolution (R31) -/

/-- The entry of one frame of one set. -/
def PortMaps.entry (m : PortMaps) (set : MapSet) (f : FrameNo) : FrameEntry :=
  match set with
  | .a => m.setA[f]
  | .b => m.setB[f]

/-- The record with one entry replaced. -/
def PortMaps.setEntry (m : PortMaps) (set : MapSet) (f : FrameNo) (e : FrameEntry) : PortMaps :=
  match set with
  | .a => { m with setA := m.setA.set f e }
  | .b => { m with setB := m.setB.set f e }

/-- Resolution of a frame through a set of a port: the entry, none when disabled. -/
def State.resolve (s : State) (p : Port) (set : MapSet) (f : FrameNo) : FrameEntry := (s.map p).entry set f

/-- Resolution through the port's present set. -/
def State.resolvePresent (s : State) (p : Port) (f : FrameNo) : FrameEntry := s.resolve p (s.map p).present f

/-! ## Codes of requests (Table 9-1) -/

/-- The request code. -/
def Request.code : Request → Byte
  | .openSession => 0x01
  | .closeSession => 0x02
  | .info => 0x03
  | .claim => 0x04
  | .handover _ => 0x05
  | .alloc _ => 0x10
  | .free _ => 0x11
  | .grant _ _ _ => 0x12
  | .pageQuery _ => 0x13
  | .map _ _ _ _ => 0x20
  | .unmap _ _ => 0x21
  | .selectSet _ => 0x22
  | .mapQuery _ _ _ => 0x23
  | .access _ _ (.read _) => 0x30
  | .access _ _ (.write _) => 0x31
  | .access _ _ (.readThenWrite (.swap _)) => 0x32
  | .access _ _ (.readThenWrite (.cas _ _)) => 0x33
  | .access _ _ (.readThenWrite (.add _)) => 0x34
  | .access _ _ (.readThenWrite (.testclr _)) => 0x35
  | .access _ _ (.readThenWrite .dectest) => 0x36
  | .acquire _ _ _ _ => 0x40
  | .release _ => 0x41
  | .renew _ _ => 0x42
  | .copy _ _ _ _ _ _ _ => 0x50
  | .fill _ _ _ _ _ => 0x51
  | .cancel _ => 0x52
  | .jobQuery _ => 0x53
  | .configure _ => 0x60
  | .drain _ => 0x61
  | .restore _ => 0x62
  | .eject _ => 0x63
  | .poolQuery => 0x64

/-! ## Admission to the outbound queue (R176 to R178) -/

/-- A message joins the tail; an IDLE transmitter begins its frame (R175, R179). -/
def PortCtl.joinQueue (c : PortCtl) (m : Message) : PortCtl :=
  { c with outbound := c.outbound ++ [m], tx := if c.tx = .idle then .sending else c.tx }

/-- A reply is admitted below an occupancy of 16, whatever the session; otherwise it is dropped (R176). -/
def PortCtl.offerReply (c : PortCtl) (t : Tag) (code : Byte) (st : Status) (pay : Payload) : PortCtl :=
  if c.outbound.length < Config.queuePlaces then c.joinQueue (.reply t code st pay) else c

/-- OVERFLOW is admitted when the port is OPEN, events were lost and the occupancy is below 12 (R178). -/
def PortCtl.admitOverflow (c : PortCtl) : PortCtl :=
  if c.session = .opened ∧ 0 < c.lost ∧ c.outbound.length < Config.eventPlaces then
    { c.joinQueue (.event (.overflow c.lost)) with lost := 0 }
  else c

/-- The last part of R177: admitted below an occupancy of 12, otherwise counted as lost. -/
def PortCtl.admitOrLose (c : PortCtl) (e : Event) : PortCtl :=
  if c.outbound.length < Config.eventPlaces then c.joinQueue (.event e)
  else { c with lost := min Config.lostMax (c.lost + 1) }

/-- The event admission rule (R177). -/
def PortCtl.offerEvent (c : PortCtl) (e : Event) : PortCtl :=
  match e with
  | .sessionEnd _ => if c.outbound.length < Config.queuePlaces then c.joinQueue (.event e) else c
  | .ready _ => c.admitOverflow.admitOrLose e
  | .rejected _ | .overflow _ | .mapChanged _ _ | .leaseLost _ | .jobEnd _ _ _ | .bankState _ _ _ | .roleGained
  | .portDown _ _ => if c.session = .opened then c.admitOverflow.admitOrLose e else c

/-- An event offered to a port. -/
def State.offer (s : State) (p : Port) (e : Event) : State := s.modPort p (·.offerEvent e)

/-- An event offered to the role holder; not offered when the role is vacant (R129, R202). -/
def State.offerSupervisor (s : State) (e : Event) : State :=
  match s.role with
  | none => s
  | some p => s.offer p e

/-! ## Slots and replies (R147 to R149) -/

/-- The slot of a tag becomes FREE (R149). -/
def PortCtl.freeSlot (c : PortCtl) (t : Tag) : PortCtl := { c with slots := c.slots.filter (·.tag ≠ t) }

/-- The slot of a tag takes a state (R148). -/
def PortCtl.setSlot (c : PortCtl) (t : Tag) (st : SlotState) : PortCtl :=
  { c with slots := c.slots.map fun x => if x.tag = t then { x with state := st } else x }

/-- The reply of a taken request is offered and its slot freed, admitted or not (R149, R176). -/
def State.answer (s : State) (p : Port) (t : Tag) (code : Byte) (st : Status) (pay : Payload := .none) : State :=
  s.modPort p fun c => (c.freeSlot t).offerReply t code st pay

/-- The refusal of a request that occupies no slot (R146). -/
def State.refuse (s : State) (p : Port) (t : Tag) (code : Byte) (st : Status) : State :=
  s.modPort p fun c => c.offerReply t code st .none

end Sys2Proof.Machine
end

