-- ==== Sys2Proof/Machine/Operands.lean ====
section
/-! DEFINITION. The operands of requests: the coded fields (R142, R186) and the reading of a request's body (R184 to R190). -/

namespace Sys2Proof.Machine

/-! ## Coded fields (Table 9-2): none where the value has no meaning -/

/-- The set of MAP, UNMAP, SELECT and MAP-QUERY. -/
def mapSetOf (b : Byte) : Option MapSet :=
  if b = 0 then some .a else if b = 1 then some .b else none

/-- The set of COPY and FILL. -/
def setCodeOf (b : Byte) : Option SetCode :=
  if b = 2 then some .present else (mapSetOf b).map .named

/-- The access of MAP. -/
def accessOf (b : Byte) : Option Access :=
  if b = 0 then some .readOnly else if b = 1 then some .readWrite else none

/-- The mode of ACQUIRE. -/
def lockModeOf (b : Byte) : Option LockMode :=
  if b = 0 then some .shared else if b = 1 then some .exclusive else none

/-- The right of GRANT. -/
def rightOf (b : Byte) : Option Right :=
  if b = 0 then some .none else if b = 1 then some .read else if b = 2 then some .readWrite else none

/-! ## Requests whose coded fields may have no meaning -/

/-- GRANT with its right read. -/
def grantRequest (page : Half) (target right : Byte) : Option Request := do
  return .grant page target (← rightOf right)

/-- MAP with its set and access read. -/
def mapRequest (set frame : Byte) (page : Half) (access : Byte) : Option Request := do
  return .map (← mapSetOf set) frame page (← accessOf access)

/-- UNMAP with its set read. -/
def unmapRequest (set frame : Byte) : Option Request := do
  return .unmap (← mapSetOf set) frame

/-- SELECT with its set read. -/
def selectRequest (set : Byte) : Option Request := do
  return .selectSet (← mapSetOf set)

/-- MAP-QUERY with its set read. -/
def mapQueryRequest (set first count : Byte) : Option Request := do
  return .mapQuery (← mapSetOf set) first count

/-- WRITE: more than 240 data bytes make a body longer than any WRITE has (R142). -/
def writeRequest (frame : Byte) (offset : Half) (data : List Byte) : Option Request :=
  if data.length ≤ Config.accessBytes then some (.access frame offset (.write data)) else none

/-- ACQUIRE with its mode read. -/
def acquireRequest (frame mode : Byte) (lease wait : Half) : Option Request := do
  return .acquire frame (← lockModeOf mode) lease wait

/-- COPY with its two sets read. -/
def copyRequest (srcSet srcFrame : Byte) (srcOffset : Half) (dstSet dstFrame : Byte) (dstOffset : Half) (length : Word) :
    Option Request := do
  return .copy (← setCodeOf srcSet) srcFrame srcOffset (← setCodeOf dstSet) dstFrame dstOffset length

/-- FILL with its set read. -/
def fillRequest (dstSet dstFrame : Byte) (dstOffset : Half) (length pattern : Word) : Option Request := do
  return .fill (← setCodeOf dstSet) dstFrame dstOffset length pattern

/-- A field the mask names, or none. -/
def named {α : Type} (mask : Byte) (bit : Nat) (x : α) : Option α := if mask.getLsbD bit then some x else none

/-- CONFIGURE: bit 7 of the mask has no meaning (R190); a field it does not name is absent. -/
def configureRequest (mask gap : Byte) (lease : Half) (limit : Byte) (q0 q1 q2 q3 : Half) : Option Request :=
  if mask.getLsbD 7 then none
  else some (.configure
    { gap := named mask 0 gap, lease := named mask 1 lease, limit := named mask 2 limit,
      quotas := #v[named mask 3 q0, named mask 4 q1, named mask 5 q2, named mask 6 q3] })

/-! ## Reading a body -/

/-- What check 1 and check 2 find in a body (R141): a form or a coded field that is wrong, no request code, or a request. -/
inductive Parsed where
  | badForm
  | unknownCode
  | request (r : Request)
deriving DecidableEq, Repr

/-- A request, or BAD-FORM where a coded field has no meaning. -/
def Parsed.ofOption : Option Request → Parsed
  | none => .badForm
  | some r => .request r

/-- The bytes of a CONFIGURE field its mask names, read off the rest of the body; none where they are missing. -/
def takeByte (named : Bool) : List Byte → Option (Byte × List Byte)
  | rest => if named then (match rest with | b :: r => some (b, r) | [] => none) else some (0, rest)

/-- As takeByte, for a two-byte field. -/
def takeHalf (named : Bool) : List Byte → Option (Half × List Byte)
  | rest => if named then (match rest with | b0 :: b1 :: r => some (halfOf b0 b1, r) | _ => none) else some (0, rest)

/-- CONFIGURE's body after its mask: the named fields in the order of their bits and nothing more (R190). -/
def parseConfigure (mask : Byte) (fields : List Byte) : Parsed :=
  Parsed.ofOption do
    let (gap, f) ← takeByte (mask.getLsbD 0) fields
    let (lease, f) ← takeHalf (mask.getLsbD 1) f
    let (limit, f) ← takeByte (mask.getLsbD 2) f
    let (q0, f) ← takeHalf (mask.getLsbD 3) f
    let (q1, f) ← takeHalf (mask.getLsbD 4) f
    let (q2, f) ← takeHalf (mask.getLsbD 5) f
    let (q3, f) ← takeHalf (mask.getLsbD 6) f
    if f = [] then configureRequest mask gap lease limit q0 q1 q2 q3 else none

/-- The request a code and the bytes after the header spell (Tables 9-5 to 9-8): the length the code requires, then its
coded fields. -/
def parseFields (code : Nat) (fields : List Byte) : Parsed :=
  match code with
  | 0x01 => match fields with | [] => .request .openSession | _ => .badForm
  | 0x02 => match fields with | [] => .request .closeSession | _ => .badForm
  | 0x03 => match fields with | [] => .request .info | _ => .badForm
  | 0x04 => match fields with | [] => .request .claim | _ => .badForm
  | 0x05 => match fields with | [target] => .request (.handover target) | _ => .badForm
  | 0x10 => match fields with | [count] => .request (.alloc count) | _ => .badForm
  | 0x11 => match fields with | [p0, p1] => .request (.free (halfOf p0 p1)) | _ => .badForm
  | 0x12 =>
    match fields with
    | [p0, p1, target, right] => .ofOption (grantRequest (halfOf p0 p1) target right)
    | _ => .badForm
  | 0x13 => match fields with | [p0, p1] => .request (.pageQuery (halfOf p0 p1)) | _ => .badForm
  | 0x20 =>
    match fields with
    | [set, frame, p0, p1, access] => .ofOption (mapRequest set frame (halfOf p0 p1) access)
    | _ => .badForm
  | 0x21 => match fields with | [set, frame] => .ofOption (unmapRequest set frame) | _ => .badForm
  | 0x22 => match fields with | [set] => .ofOption (selectRequest set) | _ => .badForm
  | 0x23 => match fields with | [set, first, count] => .ofOption (mapQueryRequest set first count) | _ => .badForm
  | 0x30 =>
    match fields with
    | [frame, o0, o1, length] => .request (.access frame (halfOf o0 o1) (.read length.toNat))
    | _ => .badForm
  | 0x31 => match fields with | frame :: o0 :: o1 :: data => .ofOption (writeRequest frame (halfOf o0 o1) data) | _ => .badForm
  | 0x32 =>
    match fields with
    | [frame, o0, o1, v0, v1, v2, v3] =>
      .request (.access frame (halfOf o0 o1) (.readThenWrite (.swap (wordOf v0 v1 v2 v3))))
    | _ => .badForm
  | 0x33 =>
    match fields with
    | [frame, o0, o1, e0, e1, e2, e3, n0, n1, n2, n3] =>
      .request (.access frame (halfOf o0 o1) (.readThenWrite (.cas (wordOf e0 e1 e2 e3) (wordOf n0 n1 n2 n3))))
    | _ => .badForm
  | 0x34 =>
    match fields with
    | [frame, o0, o1, d0, d1, d2, d3] =>
      .request (.access frame (halfOf o0 o1) (.readThenWrite (.add (wordOf d0 d1 d2 d3))))
    | _ => .badForm
  | 0x35 =>
    match fields with
    | [frame, o0, o1, bit] => .request (.access frame (halfOf o0 o1) (.readThenWrite (.testclr bit.toNat)))
    | _ => .badForm
  | 0x36 =>
    match fields with
    | [frame, o0, o1] => .request (.access frame (halfOf o0 o1) (.readThenWrite .dectest))
    | _ => .badForm
  | 0x40 =>
    match fields with
    | [frame, mode, l0, l1, w0, w1] => .ofOption (acquireRequest frame mode (halfOf l0 l1) (halfOf w0 w1))
    | _ => .badForm
  | 0x41 => match fields with | [p0, p1] => .request (.release (halfOf p0 p1)) | _ => .badForm
  | 0x42 => match fields with | [p0, p1, l0, l1] => .request (.renew (halfOf p0 p1) (halfOf l0 l1)) | _ => .badForm
  | 0x50 =>
    match fields with
    | [ss, sf, so0, so1, ds, df, do0, do1, n0, n1, n2, n3] =>
      .ofOption (copyRequest ss sf (halfOf so0 so1) ds df (halfOf do0 do1) (wordOf n0 n1 n2 n3))
    | _ => .badForm
  | 0x51 =>
    match fields with
    | [ds, df, do0, do1, n0, n1, n2, n3, v0, v1, v2, v3] =>
      .ofOption (fillRequest ds df (halfOf do0 do1) (wordOf n0 n1 n2 n3) (wordOf v0 v1 v2 v3))
    | _ => .badForm
  | 0x52 => match fields with | [id] => .request (.cancel id) | _ => .badForm
  | 0x53 => match fields with | [id] => .request (.jobQuery id) | _ => .badForm
  | 0x60 => match fields with | mask :: rest => parseConfigure mask rest | [] => .badForm
  | 0x61 => match fields with | [bank] => .request (.drain bank) | _ => .badForm
  | 0x62 => match fields with | [bank] => .request (.restore bank) | _ => .badForm
  | 0x63 => match fields with | [target] => .request (.eject target) | _ => .badForm
  | 0x64 => match fields with | [] => .request .poolQuery | _ => .badForm
  | _ => .unknownCode

/-- The tag of a body's first byte: its lower three bits; bit 3 is disregarded (R184). -/
def tagOf (b : Byte) : Tag := ⟨b.toNat % 8, Nat.mod_lt _ (by decide)⟩

/-- Whether a body's first byte says request: 1 in its upper four bits (R184). -/
def isRequestKind (b : Byte) : Bool := b.toNat / 16 == 1

end Sys2Proof.Machine
end

