-- ==== Sys2Proof/Machine/Formats.lean ====
section
/-! DEFINITION. What the line carries: the frame check (R168), frames (Table 8-1, R179), and the bodies of replies, events
and requests (R183 to R191). -/

namespace Sys2Proof.Machine

/-! ## The frame check (R168) -/

/-- One bit into the running check: shift left, and combine by exclusive-or with 0x1021 when the bit shifted out and the
data bit differ. -/
def checkBit (check : BitVec 16) (bit : Bool) : BitVec 16 :=
  if check.msb != bit then (check <<< 1) ^^^ 0x1021 else check <<< 1

/-- One byte into the running check, most significant bit first. -/
def checkByte (check : BitVec 16) (b : Byte) : BitVec 16 :=
  [7, 6, 5, 4, 3, 2, 1, 0].foldl (fun c i => checkBit c (b.getLsbD i)) check

/-- The running check's initial value. -/
def checkStart : BitVec 16 := 0xFFFF

/-- The frame check over some bytes. -/
def frameCheck (bytes : List Byte) : BitVec 16 := bytes.foldl checkByte checkStart

/-- The high and the low byte of a check: the order in which a frame carries them. -/
def checkHigh (c : BitVec 16) : Byte := (c >>> 8).setWidth 8
def checkLow (c : BitVec 16) : Byte := c.setWidth 8

/-- The frame of a body: marker, length, body, and the check over the length byte and the body, high byte first. -/
def frameOf (body : List Byte) : List Byte :=
  let length : Byte := BitVec.ofNat 8 body.length
  let check := frameCheck (length :: body)
  Config.marker :: length :: body ++ [checkHigh check, checkLow check]

/-! ## Fields (R183, Tables 9-3 and 9-4) -/

/-- A number in one byte. -/
def byteField (n : Nat) : List Byte := [BitVec.ofNat 8 n]
/-- A number in two bytes. -/
def halfField (n : Nat) : List Byte := halfBytes (BitVec.ofNat 16 n)
/-- A number in four bytes. -/
def wordField (n : Nat) : List Byte := wordBytes (BitVec.ofNat 32 n)
/-- A yes-or-no field. -/
def yesNo (b : Bool) : List Byte := byteField (if b then 1 else 0)

def MapSet.code : MapSet → Nat
  | .a => 0
  | .b => 1
def SetCode.code : SetCode → Nat
  | .named s => s.code
  | .present => 2
def Access.code : Access → Nat
  | .readOnly => 0
  | .readWrite => 1
def Right.code : Right → Nat
  | .none => 0
  | .read => 1
  | .readWrite => 2
def LockMode.code : LockMode → Nat
  | .shared => 0
  | .exclusive => 1
def PageState.code : PageState → Nat
  | .free => 0
  | .allocated => 1
  | .orphaned => 2
  | .withheld => 3
  | .retired => 4
def BankState.code : BankState → Nat
  | .online => 0
  | .draining => 1
  | .offline => 2
def BankCause.code : BankCause → Nat
  | .drain => 0
  | .retireLimit => 1
  | .drained => 2
  | .restore => 3
def Session.code : Session → Nat
  | .closed => 0
  | .opened => 1
  | .closing => 2
def CloseReason.code : CloseReason → Nat
  | .closed => 0
  | .linkLost => 1
  | .ejected => 2
def RejectReason.code : RejectReason → Nat
  | .length => 0
  | .check => 1
  | .gap => 2
  | .line => 3
  | .kind => 4
def ResetKind.code : ResetKind → Nat
  | .powerOn => 0
  | .resetLine => 1
def MapChange.code : MapChange → Nat
  | .readOnly => 0
  | .removed => 1
def DecOutcome.code : DecOutcome → Nat
  | .reachedZero => 0
  | .nonzero => 1
  | .wasZero => 2
def JobOutcome.code : JobOutcome → Nat
  | .done => 0
  | .cancelled => 1
  | .mediaError => 2
  | .locked => 3
def JobState.code : JobState → Nat
  | .queued => 0
  | .active => 1
def Status.code : Status → Nat
  | .ok => 0
  | .badForm => 1
  | .unknownCode => 2
  | .notOpen => 3
  | .badState => 4
  | .tagInUse => 5
  | .slotsFull => 6
  | .notSupervisor => 7
  | .bounds => 8
  | .unmapped => 9
  | .denied => 10
  | .locked => 11
  | .noSpace => 12
  | .quota => 13
  | .inUse => 14
  | .notFound => 15
  | .tableFull => 16
  | .alreadyHeld => 17
  | .contended => 18
  | .timeout => 19
  | .mediaError => 20
  | .overlap => 21
  | .queueFull => 22

/-- The mark of an absent field, in one byte and in two (R183). -/
def absentByte : List Byte := [0xFF]
def absentHalf : List Byte := [0xFF, 0xFF]

/-- A set that may be absent. -/
def optSet : Option MapSet → List Byte
  | none => absentByte
  | some x => byteField x.code

/-- A port that may be absent. -/
def optPort : Option Port → List Byte
  | none => absentByte
  | some p => byteField p.val

/-- A page that may be absent. -/
def optPage : Option PageNo → List Byte
  | none => absentHalf
  | some q => halfField q.val

/-- An entry of a MAP-QUERY reply (R188 note 1). -/
def entryField : FrameEntry → List Byte
  | none => byteField 0 ++ absentHalf
  | some e => byteField (match e.access with | .readOnly => 1 | .readWrite => 2) ++ halfField e.page.val

/-- A bank record of a POOL-QUERY reply (R190): 11 bytes. -/
def bankField (b : BankRec) : List Byte :=
  byteField b.state.code ++ halfField b.free ++ halfField b.allocated ++ halfField b.orphaned ++ halfField b.withheld ++
    halfField b.retired

/-! ## Bodies of replies and events -/

/-- The kind and the source set of a job, as JOB-QUERY reports them (R118, Table 9-4). -/
def JobKind.code : JobKind → Nat
  | .copy _ _ _ => 0
  | .fill _ => 1
def JobKind.srcSet : JobKind → Option MapSet
  | .copy s _ _ => some s
  | .fill _ => none

/-- The fields of an OK reply after its header (R187 to R190). -/
def Payload.fields : Payload → List Byte
  | .none => []
  | .session p held quota owned => byteField p.val ++ yesNo held ++ halfField quota ++ halfField owned
  | .info => Config.vendorText ++ Config.partText ++ [Config.revision] ++ halfField 2048 ++ halfField 4096 ++
      byteField 4 ++ byteField 64 ++ byteField 32 ++ byteField 8
  | .pages ps => byteField ps.length ++ ps.flatMap fun q => halfField q.val
  | .pageRecord q r => halfField q.val ++ byteField r.state.code ++ optPort r.owner ++
      r.grants.toList.flatMap (fun g => byteField g.code) ++ halfField r.mapCount ++ halfField r.pinCount ++ yesNo r.poisoned
  | .previous q => optPage q
  | .selection present pendingSet set first entries => byteField present.code ++ optSet pendingSet ++ byteField set.code ++
      byteField first ++ byteField entries.length ++ entries.flatMap entryField
  | .bytes data => data
  | .old w => wordBytes w
  | .oldSwapped w swapped => wordBytes w ++ yesNo swapped
  | .priorBit bit => yesNo bit
  | .countdown result outcome => wordBytes result ++ byteField outcome.code
  | .lease q ms => halfField q.val ++ halfField ms
  | .jobId id => [id]
  | .job position j => [j.id] ++ byteField j.kind.code ++ byteField j.state.code ++ byteField position ++
      wordField j.bytesDone ++ wordField j.length ++ optSet j.kind.srcSet ++ byteField j.dstSet.code
  | .config c => byteField c.gapTime ++ halfField c.defaultLease ++ byteField c.retireLimit ++
      c.quota.toList.flatMap halfField
  | .pool free banks role sessions => halfField free ++ banks.toList.flatMap bankField ++ optPort role ++
      sessions.toList.flatMap fun x => byteField x.code

/-- The code of an event (Table 9-9). -/
def Event.code : Event → Byte
  | .ready _ => 0x80
  | .rejected _ => 0x81
  | .overflow _ => 0x82
  | .mapChanged _ _ => 0x83
  | .leaseLost _ => 0x84
  | .jobEnd _ _ _ => 0x85
  | .bankState _ _ _ => 0x86
  | .roleGained => 0x87
  | .portDown _ _ => 0x88
  | .sessionEnd _ => 0x89

/-- The fields of an event after its header (Table 9-9). -/
def Event.fields : Event → List Byte
  | .ready kind => [Config.revision] ++ byteField kind.code
  | .rejected reason => byteField reason.code
  | .overflow lost => byteField lost
  | .mapChanged q pairs => halfField q.val ++ byteField pairs.length ++
      pairs.flatMap fun x => byteField x.set.code ++ byteField x.frame.val ++ byteField x.change.code
  | .leaseLost q => halfField q.val
  | .jobEnd id outcome moved => [id] ++ byteField outcome.code ++ wordField moved
  | .bankState b state cause => byteField b.val ++ byteField state.code ++ byteField cause.code
  | .roleGained => byteField 1
  | .portDown p reason => byteField p.val ++ byteField reason.code
  | .sessionEnd reason => byteField reason.code

/-- The first byte of a body: its kind above its tag (R184). -/
def kindAndTag (kind : Nat) (t : Tag) : Byte := BitVec.ofNat 8 (kind * 16 + t.val)

/-- The body of a message the device sends (R184): a reply that is not OK is its header alone. -/
def Message.body : Message → List Byte
  | .reply t code st pay => kindAndTag 2 t :: code :: BitVec.ofNat 8 st.code :: (if st = .ok then pay.fields else [])
  | .event e => kindAndTag 3 0 :: e.code :: e.fields

/-- The frame on a port's line: the head of the queue while the transmitter is SENDING (R179). -/
def State.frameOnLine (s : State) (p : Port) : Option (List Byte) :=
  if (s.port p).tx = .sending then (s.port p).outbound.head?.map fun m => frameOf m.body else none

/-! ## Bodies of requests (Tables 9-5 to 9-8) -/

/-- The body of a request command: the port it is sent on, and the bytes; none for an event of the table. -/
def requestBody : Instr → Option (Port × List Byte)
  | .openPort p t => some (p, [kindAndTag 1 t, 0x01])
  | .closePort p t => some (p, [kindAndTag 1 t, 0x02])
  | .info p t => some (p, [kindAndTag 1 t, 0x03])
  | .claim p t => some (p, [kindAndTag 1 t, 0x04])
  | .handover p t target => some (p, [kindAndTag 1 t, 0x05, target])
  | .alloc p t count => some (p, [kindAndTag 1 t, 0x10, count])
  | .free p t page => some (p, [kindAndTag 1 t, 0x11] ++ halfBytes page)
  | .grant p t page target right => some (p, [kindAndTag 1 t, 0x12] ++ halfBytes page ++ [target, right])
  | .pageQuery p t page => some (p, [kindAndTag 1 t, 0x13] ++ halfBytes page)
  | .map p t set frame page access => some (p, [kindAndTag 1 t, 0x20, set, frame] ++ halfBytes page ++ [access])
  | .unmap p t set frame => some (p, [kindAndTag 1 t, 0x21, set, frame])
  | .selectSet p t set => some (p, [kindAndTag 1 t, 0x22, set])
  | .mapQuery p t set first count => some (p, [kindAndTag 1 t, 0x23, set, first, count])
  | .read p t frame offset length => some (p, [kindAndTag 1 t, 0x30, frame] ++ halfBytes offset ++ [length])
  | .write p t frame offset data => some (p, [kindAndTag 1 t, 0x31, frame] ++ halfBytes offset ++ data)
  | .swap p t frame offset value => some (p, [kindAndTag 1 t, 0x32, frame] ++ halfBytes offset ++ wordBytes value)
  | .cas p t frame offset expected new =>
    some (p, [kindAndTag 1 t, 0x33, frame] ++ halfBytes offset ++ wordBytes expected ++ wordBytes new)
  | .add p t frame offset delta => some (p, [kindAndTag 1 t, 0x34, frame] ++ halfBytes offset ++ wordBytes delta)
  | .testclr p t frame offset bit => some (p, [kindAndTag 1 t, 0x35, frame] ++ halfBytes offset ++ [bit])
  | .dectest p t frame offset => some (p, [kindAndTag 1 t, 0x36, frame] ++ halfBytes offset)
  | .acquire p t frame mode lease wait =>
    some (p, [kindAndTag 1 t, 0x40, frame, mode] ++ halfBytes lease ++ halfBytes wait)
  | .release p t page => some (p, [kindAndTag 1 t, 0x41] ++ halfBytes page)
  | .renew p t page lease => some (p, [kindAndTag 1 t, 0x42] ++ halfBytes page ++ halfBytes lease)
  | .copy p t ss sf so ds df dOff n =>
    some (p, [kindAndTag 1 t, 0x50, ss, sf] ++ halfBytes so ++ [ds, df] ++ halfBytes dOff ++ wordBytes n)
  | .fill p t ds df dOff n pattern =>
    some (p, [kindAndTag 1 t, 0x51, ds, df] ++ halfBytes dOff ++ wordBytes n ++ wordBytes pattern)
  | .cancel p t id => some (p, [kindAndTag 1 t, 0x52, id])
  | .jobQuery p t id => some (p, [kindAndTag 1 t, 0x53, id])
  | .configure p t mask gap lease limit q0 q1 q2 q3 =>
    some (p, [kindAndTag 1 t, 0x60, mask] ++ (if mask.getLsbD 0 then [gap] else []) ++
      (if mask.getLsbD 1 then halfBytes lease else []) ++ (if mask.getLsbD 2 then [limit] else []) ++
      (if mask.getLsbD 3 then halfBytes q0 else []) ++ (if mask.getLsbD 4 then halfBytes q1 else []) ++
      (if mask.getLsbD 5 then halfBytes q2 else []) ++ (if mask.getLsbD 6 then halfBytes q3 else []))
  | .drain p t bank => some (p, [kindAndTag 1 t, 0x61, bank])
  | .restore p t bank => some (p, [kindAndTag 1 t, 0x62, bank])
  | .eject p t target => some (p, [kindAndTag 1 t, 0x63, target])
  | .poolQuery p t => some (p, [kindAndTag 1 t, 0x64])
  | .byteReceived _ _ | .characterError _ | .breakBegins _ | .breakEnds _ | .gapTimerRunsOut _ | .resyncEnd _
  | .lastByteSent _ | .tick | .leaseExpiry _ _ | .waitTimeout _ _ | .grantStep _ | .accessCompletionGood _
  | .accessCompletionUncorrectable _ | .switch _ | .bankOffline _ | .jobChoice | .copyReadComplete _
  | .copyReadUncorrectable _ | .copyWriteComplete _ | .closedReached _ | .powerOn | .supplyFails | .resetAsserted
  | .resetReleased | .runningEntry _ _ _ _ | .operationCarriedToEnd _ _ => none

end Sys2Proof.Machine
end

