-- ==== Sys2Proof/Machine/Line.lean ====
section
/-! DEFINITION. The line below the byte (R206, Table 11-2): straps, pins, the character, what the line interface reports of
the levels it sees, and the levels the transmitter drives. A level here is that of one bit time; bit times are no steps of
the model: the reports are commands (log entry 17). -/

namespace Sys2Proof.Machine

/-! ## Straps and pins -/

/-- The line types. -/
inductive LineType where
  | singleEnded | differential
deriving DecidableEq, Repr

/-- The line type a port's straps select. -/
def Straps.line (x : Straps) : LineType := if x.lineType then .differential else .singleEnded

/-- The line rate a port's straps select, in Mbit/s. -/
def Straps.rate (x : Straps) : Nat :=
  match x.rateHigh, x.rateLow with
  | false, false => 1
  | false, true => 2
  | true, false => 5
  | true, true => 10

/-- The four line pins of a port. -/
inductive LinePin where
  | rxA | rxB | txA | txB
deriving DecidableEq, Repr

/-- Whether a line type uses a pin. -/
def LineType.uses : LineType → LinePin → Bool
  | .differential, _ => true
  | .singleEnded, .rxA | .singleEnded, .txA => true
  | .singleEnded, .rxB | .singleEnded, .txB => false

/-! ## Levels and characters -/

/-- What a line shows for one bit time; a differential pair may show no valid level. -/
inductive Level where
  | space | mark | invalid
deriving DecidableEq, Repr

/-- The level of a bit: 1 is mark. -/
def Level.ofBit (b : Bool) : Level := if b then .mark else .space

/-- The character of a byte: a start bit at space level, eight data bits least significant first, a stop bit at mark level. -/
def character (b : Byte) : List Level :=
  .space :: ([0, 1, 2, 3, 4, 5, 6, 7].map fun i => Level.ofBit (b.getLsbD i)) ++ [.mark]

/-- The byte of eight data levels, least significant first. -/
def dataByte : List Level → Byte
  | [] => 0
  | l :: ls => (dataByte ls <<< 1) ||| (if l = .mark then 1 else 0)

/-! ## Reception -/

/-- What the line interface reports to the receiver (R163). -/
inductive LineReport where
  | byte (b : Byte)
  | characterError
  | breakBegins
  | breakEnds
deriving DecidableEq, Repr

/-- The report of the ten levels of one character: an error where a differential pair showed no valid level or the stop bit is
at space level, otherwise the byte of its data bits. -/
def LineType.reportOf (line : LineType) (levels : List Level) : LineReport :=
  if line = .differential ∧ levels.contains .invalid then .characterError
  else if levels[9]? = some .mark then .byte (dataByte ((levels.drop 1).take 8))
  else .characterError

/-- Whether a stretch of levels is the beginning of a break: 20 bit times at space level, or 20 of a differential pair with no
valid level. -/
def LineType.isBreak (line : LineType) (levels : List Level) : Bool :=
  levels.length == 20 && (levels.all (· == .space) || (line == .differential && levels.all (· == .invalid)))

/-- Whether a stretch of levels ends a break: 10 bit times at mark level. -/
def isBreakEnd (levels : List Level) : Bool := levels.length == 10 && levels.all (· == .mark)

/-- The line interface between two bit times: the last 20 levels, newest first; the levels of the character it is in; whether
a character may begin; whether a break is in force. -/
structure LineWatch where
  recent    : List Level
  character : List Level
  armed     : Bool
  inBreak   : Bool
deriving DecidableEq, Repr

/-- The interface on a line that has been idle. -/
def LineWatch.idle : LineWatch := { recent := [], character := [], armed := true, inBreak := false }

/-- The character after one more level: a character in reception takes it; otherwise a space level begins one, where the line
has been at mark level since the last. A stretch of no valid level on an idle differential pair begins none, so 20 such bit
times report the break alone. Both are the model's choice, as R206 does not say where a character begins (log entry 26). -/
def LineWatch.nextCharacter (x : LineWatch) (l : Level) : List Level :=
  if x.character.isEmpty ∧ ¬ (x.armed ∧ l = .space) then [] else x.character ++ [l]

/-- One bit time: the reports it makes, a character's before a break's, and the interface after it. During a break only the
end of the break is reported. -/
def LineWatch.bit (line : LineType) (x : LineWatch) (l : Level) : LineWatch × List LineReport :=
  let recent := (l :: x.recent).take 20
  if x.inBreak then
    if isBreakEnd (recent.take 10) then ({ recent := [], character := [], armed := true, inBreak := false }, [.breakEnds])
    else ({ x with recent := recent }, [])
  else
    let levels := x.nextCharacter l
    let whole := levels.length == 10
    let reports := if whole then [line.reportOf levels] else []
    if line.isBreak recent then
      ({ recent := [], character := [], armed := false, inBreak := true }, reports ++ [.breakBegins])
    else
      ({ recent := recent, character := if whole then [] else levels, armed := x.armed && !whole || l == .mark, inBreak := false },
       reports)

/-- What the line interface reports over some bit times, in order. -/
def LineWatch.reports (line : LineType) (x : LineWatch) : List Level → List LineReport
  | [] => []
  | l :: ls => (x.bit line l).2 ++ (x.bit line l).1.reports line ls

/-! ## Transmission -/

/-- The levels of the frame on a port's line, from the beginning of its start marker: its bytes' characters with no idle time
between them; none while the transmitter sends nothing. -/
def State.frameLevels (s : State) (p : Port) : List Level :=
  match if s.isRunning then s.frameOnLine p else none with
  | none => []
  | some bytes => bytes.flatMap character

/-- The level a port's transmitter drives in the bit time numbered from the beginning of its frame: mark where it sends nothing,
and in RESET and CLEARING (R206). -/
def State.drives (s : State) (p : Port) (bit : Nat) : Level := ((s.frameLevels p)[bit]?).getD .mark

/-- The level of a port's TXB pin (Table 11-2): mark on a single-ended line; on a differential line it forms one pair with TXA,
which shows the line's level. -/
def State.drivesB (s : State) (p : Port) (bit : Nat) : Level :=
  match Straps.line s.straps[p] with
  | .singleEnded => .mark
  | .differential => s.drives p bit

end Sys2Proof.Machine
end

