-- ==== Sys2Proof/Machine/Locks.lean ====
section
/-! DEFINITION. The Lock Unit: the lock table, the grant step, ACQUIRE, RELEASE, RENEW, expiry, timeout and dissolution
(04_page_locks.md). -/

namespace Sys2Proof.Machine

/-! ## Entries (R73 to R76) -/

/-- Whether a port holds the lock. -/
def LockEntry.holds (l : LockEntry) (p : Port) : Bool := l.holders.any (·.port == p)
/-- Whether a port waits for the lock. -/
def LockEntry.waits (l : LockEntry) (p : Port) : Bool := l.waiters.any (·.port == p)
/-- An entry exists while a list of it is not empty (R73). -/
def LockEntry.isEmpty (l : LockEntry) : Bool := l.holders.isEmpty && l.waiters.isEmpty
/-- The entry of a page. -/
def State.lockOf (s : State) (q : PageNo) : Option LockEntry := s.locks.find? (·.page == q)
/-- The entry of a page changed, and removed if that leaves it empty (R73). -/
def State.modLock (s : State) (q : PageNo) (f : LockEntry → LockEntry) : State :=
  { s with locks := (s.locks.map fun l => if l.page = q then f l else l).filter fun l => !(l.page == q && l.isEmpty) }
/-- The entry of a page removed. -/
def State.dropLock (s : State) (q : PageNo) : State := { s with locks := s.locks.filter (·.page ≠ q) }

/-! ## The questions of other blocks (R77) -/

/-- The Access Unit's: the page has a holder and the port is not one (R52). -/
def State.writeLocked (s : State) (q : PageNo) (p : Port) : Bool :=
  match s.lockOf q with
  | none => false
  | some l => !l.holders.isEmpty && !l.holds p
/-- The Copy Engine's: the page has a holder other than the port (R112). -/
def State.lockedByOther (s : State) (q : PageNo) (p : Port) : Bool :=
  match s.lockOf q with
  | none => false
  | some l => l.holders.any (·.port != p)
/-- The Page Directory's: the page has an entry (R15). -/
def State.hasLock (s : State) (q : PageNo) : Bool := (s.lockOf q).isSome

/-! ## Grants (R79 to R84) -/

/-- The lease granted for a lease asked: 0 asks for the default lease as it stands (R84). -/
def State.leaseGranted (s : State) (asked : Half) : Nat := if asked = 0 then s.config.defaultLease else asked.toNat

/-- Whether an entry grants a mode at once (R79): SHARED beside SHARED holders when nobody waits. -/
def LockEntry.grantsAtOnce (l : LockEntry) (mode : LockMode) : Bool :=
  match mode with
  | .shared => l.waiters.isEmpty && l.holders.all (·.mode == .shared)
  | .exclusive => false

/-- The grant step on one entry's lists (R80): the holders and waiters it leaves and the waiters it grants, head first. -/
def grantWaiters (lease : Half → Nat) : List Holder → List Waiter → List Holder × List Waiter × List Waiter
  | hs, [] => (hs, [], [])
  | hs, w :: ws =>
    let granted := hs ++ [{ port := w.port, mode := w.mode, remaining := lease w.lease }]
    match w.mode with
    | .exclusive => if hs.isEmpty then (granted, ws, [w]) else (hs, w :: ws, [])
    | .shared =>
      if hs.all (·.mode == .shared) then
        let r := grantWaiters lease granted ws
        (r.1, r.2.1, w :: r.2.2)
      else (hs, w :: ws, [])

/-- The OK reply of a waiter the grant step grants (R80). -/
def State.answerGranted (s : State) (q : PageNo) (w : Waiter) : State :=
  s.answer w.port w.tag 0x40 .ok (.lease q (s.leaseGranted w.lease))

/-- The entry of a page takes new lists, as a removal leaves them, and in the same step the grant step runs on them, with
the entry's removal if both are then empty (R73, R80). -/
def State.regrant (s : State) (q : PageNo) (hs : List Holder) (ws : List Waiter) : State :=
  let r := grantWaiters s.leaseGranted hs ws
  r.2.2.foldl (fun s w => s.answerGranted q w) (s.modLock q fun l => { l with holders := r.1, waiters := r.2.1 })

/-- The grant step of a page's entry (R80). -/
def State.grantStep (s : State) (q : PageNo) : State :=
  match s.lockOf q with
  | none => s
  | some l => s.regrant q l.holders l.waiters

/-! ## ACQUIRE (R81 to R83) -/

/-- A grant at once: a holder record is added, the entry made if there is none, and the reply offered (R82). -/
def State.acquireGrant (s : State) (p : Port) (t : Tag) (q : PageNo) (mode : LockMode) (asked : Half) : State :=
  let h : Holder := { port := p, mode := mode, remaining := s.leaseGranted asked }
  let s' := if s.hasLock q then s.modLock q fun l => { l with holders := l.holders ++ [h] }
    else { s with locks := s.locks ++ [{ page := q, holders := [h], waiters := [] }] }
  s'.answer p t 0x40 .ok (.lease q (s.leaseGranted asked))

/-- A wait: a waiter record joins the tail and the slot becomes WAITING (R83). -/
def State.acquireWait (s : State) (p : Port) (t : Tag) (q : PageNo) (mode : LockMode) (asked wait : Half) : State :=
  let w : Waiter := { port := p, mode := mode, tag := t, lease := asked,
                      remaining := if wait.toNat = Config.noWaitLimit then none else some wait.toNat }
  (s.modLock q fun l => { l with waiters := l.waiters ++ [w] }).modPort p (·.setSlot t .waiting)

/-- ACQUIRE as the Lock Unit takes it (R81). -/
def State.acquire (s : State) (p : Port) (t : Tag) (frame : Byte) (mode : LockMode) (asked wait : Half) : State :=
  match below 64 frame.toNat with
  | none => s.answer p t 0x40 .bounds
  | some f =>
    match s.resolvePresent p f with
    | none => s.answer p t 0x40 .unmapped
    | some e =>
      if mode = .exclusive ∧ e.access = .readOnly then s.answer p t 0x40 .denied
      else match s.lockOf e.page with
        | none =>
          if Config.lockPlaces ≤ s.locks.length then s.answer p t 0x40 .tableFull
          else s.acquireGrant p t e.page mode asked
        | some l =>
          if l.holds p ∨ l.waits p then s.answer p t 0x40 .alreadyHeld
          else if l.grantsAtOnce mode then s.acquireGrant p t e.page mode asked
          else if wait = 0 then s.answer p t 0x40 .contended
          else s.acquireWait p t e.page mode asked wait

/-! ## RELEASE and RENEW (R89, R90) -/

/-- A holder record removed, then the grant step. -/
def State.dropHolder (s : State) (q : PageNo) (p : Port) : State :=
  match s.lockOf q with
  | none => s
  | some l => s.regrant q (l.holders.filter (·.port ≠ p)) l.waiters

/-- A waiter record removed, then the grant step. -/
def State.dropWaiter (s : State) (q : PageNo) (p : Port) : State :=
  match s.lockOf q with
  | none => s
  | some l => s.regrant q l.holders (l.waiters.filter (·.port ≠ p))

/-- Whether a port holds a page's lock. -/
def State.holdsLock (s : State) (q : PageNo) (p : Port) : Bool := (s.lockOf q).any (·.holds p)

/-- RELEASE (R89). -/
def State.release (s : State) (p : Port) (t : Tag) (page : Half) : State :=
  match below 2048 page.toNat with
  | none => s.answer p t 0x41 .bounds
  | some q =>
    if s.holdsLock q p then (s.dropHolder q p).answer p t 0x41 .ok
    else s.answer p t 0x41 .notFound

/-- A holder's lease remaining set anew. -/
def State.setLease (s : State) (q : PageNo) (p : Port) (lease : Nat) : State :=
  s.modLock q fun l =>
    { l with holders := l.holders.map fun h => if h.port = p then { h with remaining := lease } else h }

/-- RENEW (R90). -/
def State.renew (s : State) (p : Port) (t : Tag) (page asked : Half) : State :=
  match below 2048 page.toNat with
  | none => s.answer p t 0x42 .bounds
  | some q =>
    if s.holdsLock q p then
      (s.setLease q p (s.leaseGranted asked)).answer p t 0x42 .ok (.lease q (s.leaseGranted asked))
    else s.answer p t 0x42 .notFound

/-! ## Timers (R86 to R88) -/

/-- A port's lease on a page has run out. -/
def State.leaseDue (s : State) (q : PageNo) (p : Port) : Bool :=
  (s.lockOf q).any fun l => l.holders.any fun h => h.port == p && h.remaining == 0

/-- Lease expiry (R87). -/
def State.expireLease (s : State) (q : PageNo) (p : Port) : State := (s.dropHolder q p).offer p (.leaseLost q)

/-- The waiter of a port on a page. -/
def State.waiterOf (s : State) (q : PageNo) (p : Port) : Option Waiter :=
  (s.lockOf q).bind fun l => l.waiters.find? (·.port == p)

/-- A port's wait for a page has run out. -/
def State.waitDue (s : State) (q : PageNo) (p : Port) : Bool := (s.waiterOf q p).any (·.remaining == some 0)

/-- Wait timeout (R88): the waiter is removed and answered TIMEOUT, then the grant step runs. -/
def State.timeOutWait (s : State) (q : PageNo) (p : Port) : State :=
  match s.waiterOf q p with
  | none => s
  | some w => (s.answer p w.tag 0x40 .timeout).dropWaiter q p

/-- Every lease and wait timer of an entry lowered by 1 (R86). -/
def LockEntry.tick (l : LockEntry) : LockEntry :=
  { l with holders := l.holders.map fun h => { h with remaining := h.remaining - 1 },
           waiters := l.waiters.map fun w => { w with remaining := w.remaining.map (· - 1) } }

/-! ## Dissolution and teardown (R11, R97) -/

/-- A waiter of a dissolved entry: answered NOT-FOUND on an OPEN port, otherwise its slot is freed without reply (R11). -/
def State.dissolveWaiter (s : State) (w : Waiter) : State :=
  if s.isOpen w.port then s.answer w.port w.tag 0x40 .notFound else s.modPort w.port (·.freeSlot w.tag)

/-- Dissolution of a page's entry at the page's release (R11). -/
def State.dissolve (s : State) (q : PageNo) : State :=
  match s.lockOf q with
  | none => s
  | some l =>
    (l.waiters.foldl State.dissolveWaiter (l.holders.foldl (fun s h => s.offer h.port (.leaseLost q)) s)).dropLock q

/-- The Lock Unit's share of a teardown on one entry (R97): the port's holder and waiter records go without a message, a
WAITING slot is freed without reply, and the grant step runs. -/
def State.unlockForTeardown (s : State) (p : Port) (q : PageNo) : State :=
  match s.lockOf q with
  | none => s
  | some l =>
    let s' := match l.waiters.find? (·.port == p) with
      | none => s
      | some w => s.modPort p (·.freeSlot w.tag)
    s'.regrant q (l.holders.filter (·.port ≠ p)) (l.waiters.filter (·.port ≠ p))

end Sys2Proof.Machine
end

