-- ==== Sys2Proof/Machine/Directory.lean ====
section
/-! DEFINITION. The Page Directory: rights, claims on counts, the release of a page, bank checks, ALLOC, FREE, PAGE-QUERY,
DRAIN, RESTORE and the directory's share of a teardown (01_page_pool_and_ownership.md,
06_banks_media_faults_and_retirement.md). -/

namespace Sys2Proof.Machine

/-! ## Records (R4, R9) -/

/-- The right a port holds on a page (R4). -/
def PageRec.rightOf (r : PageRec) (p : Port) : Right :=
  match r.state with
  | .allocated => if r.owner = some p then .readWrite else r.grants[p]
  | .orphaned => r.grants[p]
  | .free | .withheld | .retired => .none

/-- Whether a right allows a MAP with an access (R4, R34). -/
def Right.allows (r : Right) (a : Access) : Bool :=
  match r, a with
  | .none, _ => false
  | .read, .readOnly => true
  | .read, .readWrite => false
  | .readWrite, _ => true

/-- One page fewer in a state, in a bank's counts (R122). -/
def BankRec.remove (b : BankRec) : PageState → BankRec
  | .free => { b with free := b.free - 1 }
  | .allocated => { b with allocated := b.allocated - 1 }
  | .orphaned => { b with orphaned := b.orphaned - 1 }
  | .withheld => { b with withheld := b.withheld - 1 }
  | .retired => { b with retired := b.retired - 1 }

/-- One page more in a state, in a bank's counts (R122). -/
def BankRec.insert (b : BankRec) : PageState → BankRec
  | .free => { b with free := b.free + 1 }
  | .allocated => { b with allocated := b.allocated + 1 }
  | .orphaned => { b with orphaned := b.orphaned + 1 }
  | .withheld => { b with withheld := b.withheld + 1 }
  | .retired => { b with retired := b.retired + 1 }

/-- A page's record changed to a new state, and its bank's counts with it, as one step (R9). -/
def State.changePage (s : State) (q : PageNo) (new : PageState) (f : PageRec → PageRec) : State :=
  (s.modBank (bankOf q) fun b => (b.remove (s.page q).state).insert new).modPage q fun r => { f r with state := new }

/-! ## Bank checks (R125, R129, R134) -/

/-- A bank's state changed and offered to the supervisor with its cause (R129). -/
def State.moveBank (s : State) (b : BankNo) (new : BankState) (cause : BankCause) : State :=
  (s.modBank b fun r => { r with state := new }).offerSupervisor (.bankState b new cause)

/-- The bank-offline check (R125). -/
def State.bankOfflineCheck (s : State) (b : BankNo) : State :=
  if (s.bank b).state = .draining ∧ (s.bank b).allocated = 0 ∧ (s.bank b).orphaned = 0 then s.moveBank b .offline .drained
  else s

/-- The record of a FREE page of a drained bank (R124): no other page changes. -/
def PageRec.withhold (r : PageRec) : PageRec :=
  if r.state = .free then { r with state := .withheld } else r

/-- The FREE pages of a bank leave the free list as WITHHELD, with their bank's counts (R124). -/
def State.withholdBank (s : State) (b : BankNo) : State :=
  ({ s with freeList := s.freeList.filter fun q => !inBank b q,
            pages := mapEach s.pages (fun q r => if inBank b q then r.withhold else r) } : State).modBank b fun r =>
    { r with free := 0, withheld := r.withheld + r.free }

/-- The drain of a bank (R124, R134): its FREE pages become WITHHELD, it becomes DRAINING with a BANK-STATE of the cause,
and the bank-offline check runs. -/
def State.drainBank (s : State) (b : BankNo) (cause : BankCause) : State :=
  ((s.withholdBank b).moveBank b .draining cause).bankOfflineCheck b

/-- The retire-limit check (R134). -/
def State.retireLimitCheck (s : State) (b : BankNo) : State :=
  if (s.bank b).state = .online ∧ s.config.retireLimit ≤ (s.bank b).retired then s.drainBank b .retireLimit else s

/-! ## Release of a page (R10, R11) -/

/-- The state a released page takes (R10). -/
def PageRec.releasedState (r : PageRec) (bank : BankState) : PageState :=
  if r.poisoned then .retired else if bank = .online then .free else .withheld

/-- The state in which a release leaves a page as things stand (R10). -/
def State.releasedTo (s : State) (q : PageNo) : PageState := (s.page q).releasedState (s.bank (bankOf q)).state

/-- A released page placed: owner and grants cleared, its new state, and the tail of the free list where it is FREE (R10). -/
def State.placeReleased (s : State) (q : PageNo) : State :=
  ({ s with freeList := if s.releasedTo q = PageState.free then s.freeList ++ [q] else s.freeList } : State).changePage q
    (s.releasedTo q) fun r => { r with owner := none, grants := noGrants }

/-- The release of a page: its lock entry dissolved, then the page placed; the bank checks that follow are
State.settleBank, so that a reply of the same step can stand before their BANK-STATE events (R129). -/
def State.releasePage (s : State) (q : PageNo) : State := (s.dissolve q).placeReleased q

/-- The release of a page ALLOCATED to a port, whose owned count falls by 1 (R16, R25). -/
def State.releaseOwned (s : State) (p : Port) (q : PageNo) : State := (s.releasePage q).modOwned p (· - 1)

/-- The bank checks that a release of page q between two states calls for, run on the second (R10): the retire-limit check
after a retirement in an ONLINE bank, the bank-offline check after any release in a DRAINING bank. -/
def State.settleBank (before after : State) (q : PageNo) : State :=
  if (before.page q).state = (after.page q).state then after
  else
    match (after.page q).state with
    | .retired =>
      if (after.bank (bankOf q)).state = .online then after.retireLimitCheck (bankOf q)
      else after.bankOfflineCheck (bankOf q)
    | .withheld => after.bankOfflineCheck (bankOf q)
    | .free | .allocated | .orphaned => after

/-! ## Claims (R6 to R8) -/

/-- The release check after a decrement (R8). -/
def State.orphanCheck (s : State) (q : PageNo) : State :=
  if (s.page q).state = .orphaned ∧ (s.page q).mapCount = 0 ∧ (s.page q).pinCount = 0 then s.releasePage q else s

/-- Map count +1. -/
def State.mapUp (s : State) (q : PageNo) : State := s.modPage q fun r => { r with mapCount := r.mapCount + 1 }
/-- Map count −1, with its release check. -/
def State.mapDown (s : State) (q : PageNo) : State :=
  (s.modPage q fun r => { r with mapCount := r.mapCount - 1 }).orphanCheck q
/-- Pin count +1. -/
def State.pinUp (s : State) (q : PageNo) : State := s.modPage q fun r => { r with pinCount := r.pinCount + 1 }
/-- Pin count −1, with its release check. -/
def State.pinDown (s : State) (q : PageNo) : State :=
  (s.modPage q fun r => { r with pinCount := r.pinCount - 1 }).orphanCheck q
/-- Map count −1 with the whole of the release it may cause. -/
def State.unmapClaim (s : State) (q : PageNo) : State := s.settleBank (s.mapDown q) q
/-- Pin count −1 with the whole of the release it may cause. -/
def State.unpinClaim (s : State) (q : PageNo) : State := s.settleBank (s.pinDown q) q
/-- The poisoned mark set (R130). -/
def State.poison (s : State) (q : PageNo) : State := s.modPage q fun r => { r with poisoned := true }

/-! ## ALLOC, FREE and PAGE-QUERY (R13 to R16, R23) -/

/-- One page becomes ALLOCATED to a port (R14). -/
def State.allocPage (s : State) (p : Port) (q : PageNo) : State :=
  s.changePage q .allocated fun r =>
    { r with owner := some p, grants := noGrants, mapCount := 0, pinCount := 0, poisoned := false }

/-- The pages at the head of the free list become ALLOCATED to a port (R14). -/
def State.takePages (s : State) (p : Port) (n : Nat) : State :=
  (s.freeList.take n).foldl (fun s q => s.allocPage p q)
    ({ s with freeList := s.freeList.drop n }.modOwned p (· + n))

/-- ALLOC (R13, R14). -/
def State.alloc (s : State) (p : Port) (t : Tag) (count : Byte) : State :=
  let n := count.toNat
  if n = 0 ∨ 8 < n then s.answer p t 0x10 .bounds
  else if s.config.quota[p] < s.ownedBy p + n then s.answer p t 0x10 .quota
  else if s.freeList.length < n then s.answer p t 0x10 .noSpace
  else (s.takePages p n).answer p t 0x10 .ok (.pages (s.freeList.take n))

/-- Whether a page is ALLOCATED to a port: the second check of FREE and GRANT (R15, R17). -/
def State.owns (s : State) (p : Port) (q : PageNo) : Bool :=
  (s.page q).state == .allocated && (s.page q).owner == some p

/-- FREE (R15, R16). The reply stands before a BANK-STATE the release causes (R129). -/
def State.free (s : State) (p : Port) (t : Tag) (page : Half) : State :=
  match below 2048 page.toNat with
  | none => s.answer p t 0x11 .bounds
  | some q =>
    if !s.owns p q then s.answer p t 0x11 .denied
    else if 0 < (s.page q).mapCount then s.answer p t 0x11 .inUse
    else if 0 < (s.page q).pinCount then s.answer p t 0x11 .inUse
    else if s.hasLock q then s.answer p t 0x11 .inUse
    else s.settleBank ((s.releaseOwned p q).answer p t 0x11 .ok) q

/-- PAGE-QUERY (R23). -/
def State.pageQuery (s : State) (p : Port) (t : Tag) (page : Half) : State :=
  match below 2048 page.toNat with
  | none => s.answer p t 0x13 .bounds
  | some q => s.answer p t 0x13 .ok (.pageRecord q (s.page q))

/-! ## DRAIN and RESTORE (R124, R127) -/

/-- DRAIN as the directory takes it (R124): the reply stands before the events. -/
def State.drain (s : State) (p : Port) (t : Tag) (bank : Byte) : State :=
  match below 4 bank.toNat with
  | none => s.answer p t 0x61 .bounds
  | some b =>
    if (s.bank b).state ≠ .online then s.answer p t 0x61 .badState
    else (s.answer p t 0x61 .ok).drainBank b .drain

/-- The record of a WITHHELD page of a restored bank (R127): no other page changes. -/
def PageRec.unwithhold (r : PageRec) : PageRec :=
  if r.state = .withheld then { r with state := .free } else r

/-- The WITHHELD pages of a bank join the tail of the free list in ascending order as FREE, with their bank's counts
(R127). -/
def State.returnBank (s : State) (b : BankNo) : State :=
  ({ s with freeList := s.freeList ++ s.pagesWhere (fun q r => inBank b q && r.state == PageState.withheld),
            pages := mapEach s.pages (fun q r => if inBank b q then r.unwithhold else r) } : State).modBank b fun r =>
    { r with withheld := 0, free := r.free + r.withheld }

/-- The restoring of a bank (R127): its WITHHELD pages become FREE, and it becomes ONLINE with its BANK-STATE. -/
def State.restoreBank (s : State) (b : BankNo) : State :=
  (s.returnBank b).moveBank b .online .restore

/-- RESTORE as the directory takes it (R127). -/
def State.restore (s : State) (p : Port) (t : Tag) (bank : Byte) : State :=
  match below 4 bank.toNat with
  | none => s.answer p t 0x62 .bounds
  | some b =>
    if (s.bank b).state = .online then s.answer p t 0x62 .badState
    else (s.answer p t 0x62 .ok).restoreBank b

/-! ## The directory's share of a teardown (R25, R26) -/

/-- The ownership step on one page (R25). -/
def State.disownPage (s : State) (p : Port) (q : PageNo) : State :=
  if (s.page q).mapCount = 0 ∧ (s.page q).pinCount = 0 then s.settleBank (s.releaseOwned p q) q
  else (s.changePage q .orphaned fun r => { r with owner := none }).modOwned p (· - 1)

/-- The ownership step: every page ALLOCATED to the port, in ascending order (R25). -/
def State.ownershipStep (s : State) (p : Port) : State :=
  (s.pagesWhere fun _ r => r.state == .allocated && r.owner == some p).foldl (fun s q => s.disownPage p q) s

/-- The record with a port's grant cleared where the page is ALLOCATED or ORPHANED (R26). -/
def PageRec.clearGrant (r : PageRec) (p : Port) : PageRec :=
  if r.state = .allocated ∨ r.state = .orphaned then { r with grants := r.grants.set p .none } else r

/-- The grant-clearing step (R26). -/
def State.clearGrants (s : State) (p : Port) : State := { s with pages := mapEach s.pages (fun _ r => r.clearGrant p) }

end Sys2Proof.Machine
end

