-- ==== Sys2Proof/Machine/Frames.lean ====
section
/-! DEFINITION. The Frame Map Unit: MAP, UNMAP, SELECT, MAP-QUERY, and the entry changes of GRANT with GRANT itself
(02_frame_maps_and_set_selection.md, R17 to R22). -/

namespace Sys2Proof.Machine

/-! ## MAP and UNMAP (R34 to R38) -/

/-- The entry of a frame replaced. -/
def State.setEntry (s : State) (p : Port) (set : MapSet) (f : FrameNo) (e : FrameEntry) : State :=
  s.modMap p fun m => m.setEntry set f e

/-- The map count claim of a MAP (R35), with the whole of the release it may cause (R8, R10). -/
def State.mapClaim (s : State) (old : FrameEntry) (q : PageNo) : State :=
  match old with
  | none => s.mapUp q
  | some e => if e.page = q then s else (s.mapUp q).unmapClaim e.page

/-- A taken MAP: the entry written, its claim applied, then the reply offered (R35). -/
def State.mapTaken (s : State) (p : Port) (t : Tag) (set : MapSet) (f : FrameNo) (q : PageNo) (a : Access) : State :=
  let old := s.resolve p set f
  ((s.setEntry p set f (some { page := q, access := a })).mapClaim old q).answer p t 0x20 .ok (.previous (old.map (·.page)))

/-- MAP (R34). -/
def State.mapFrame (s : State) (p : Port) (t : Tag) (set : MapSet) (frame : Byte) (page : Half) (a : Access) : State :=
  match below 64 frame.toNat, below 2048 page.toNat with
  | some f, some q =>
    if ((s.page q).rightOf p).allows a then s.mapTaken p t set f q a else s.answer p t 0x20 .denied
  | none, _ | some _, none => s.answer p t 0x20 .bounds

/-- UNMAP (R37): the page is released, if it is, before the reply, and its BANK-STATE comes after it (R129). -/
def State.unmapFrame (s : State) (p : Port) (t : Tag) (set : MapSet) (frame : Byte) : State :=
  match below 64 frame.toNat with
  | none => s.answer p t 0x21 .bounds
  | some f =>
    match s.resolve p set f with
    | none => s.answer p t 0x21 .unmapped
    | some e =>
      s.settleBank (((s.setEntry p set f none).mapDown e.page).answer p t 0x21 .ok (.previous (some e.page))) e.page

/-! ## SELECT and MAP-QUERY (R41, R45) -/

/-- SELECT by the first case that applies (R41). In case 4 its slot stays IN-FLIGHT until the switch. -/
def State.selectFrames (s : State) (p : Port) (t : Tag) (set : MapSet) : State :=
  if (s.map p).pendingSet.isSome then s.answer p t 0x22 .badState
  else if (s.map p).present = set then s.answer p t 0x22 .ok
  else if (s.map p).inFlight = 0 then (s.modMap p fun m => { m with present := set }).answer p t 0x22 .ok
  else s.modMap p fun m => { m with pendingSet := some set }

/-- Some entries of a set, in ascending frame order. -/
def PortMaps.entries (m : PortMaps) (set : MapSet) (first count : Nat) : List FrameEntry :=
  let all := match set with
    | .a => m.setA.toList
    | .b => m.setB.toList
  (all.drop first).take count

/-- MAP-QUERY (R45). -/
def State.mapQuery (s : State) (p : Port) (t : Tag) (set : MapSet) (first count : Byte) : State :=
  let m := s.map p
  if 64 ≤ first.toNat ∨ count = 0 ∨ 64 < count.toNat ∨ 64 < first.toNat + count.toNat then s.answer p t 0x23 .bounds
  else
    s.answer p t 0x23 .ok
      (.selection m.present m.pendingSet set first.toNat (m.entries set first.toNat count.toNat))

/-! ## GRANT (R17 to R22, R39) -/

/-- Whether an entry names a page. -/
def names (q : PageNo) : FrameEntry → Bool
  | none => false
  | some e => e.page == q

/-- Whether an entry names a page with READ-WRITE access. -/
def namesWritable (q : PageNo) : FrameEntry → Bool
  | none => false
  | some e => e.page == q && e.access == .readWrite

/-- The frames of one set whose entries pass a test, ascending. -/
def PortMaps.framesWhere (m : PortMaps) (set : MapSet) (f : FrameEntry → Bool) : List (MapSet × FrameNo) :=
  ((List.finRange 64).filter fun i => f (m.entry set i)).map fun i => (set, i)

/-- The frames of both sets whose entries pass a test: set A ascending, then set B (R39). -/
def PortMaps.bothWhere (m : PortMaps) (f : FrameEntry → Bool) : List (MapSet × FrameNo) :=
  m.framesWhere .a f ++ m.framesWhere .b f

/-- One entry made READ-ONLY. -/
def State.downgradeEntry (s : State) (p : Port) (x : MapSet × FrameNo) : State :=
  s.setEntry p x.1 x.2 ((s.resolve p x.1 x.2).map fun e => { e with access := .readOnly })

/-- One entry disabled with its claim (R6). -/
def State.disableEntry (s : State) (p : Port) (x : MapSet × FrameNo) : State :=
  match s.resolve p x.1 x.2 with
  | none => s
  | some e => (s.setEntry p x.1 x.2 none).unmapClaim e.page

/-- The MAP-CHANGED events of one GRANT: at most 64 pairs in one event, none when nothing changed (R19, R20, R21). -/
def State.offerMapChanged (s : State) (target : Port) (q : PageNo) (pairs : List ChangedEntry) : State :=
  if pairs.isEmpty then s
  else
    let s := s.offer target (.mapChanged q (pairs.take Config.pairPlaces))
    let rest := pairs.drop Config.pairPlaces
    if rest.isEmpty then s else s.offer target (.mapChanged q rest)

/-- The recorded grant of a port on a page, changed. -/
def State.setGrant (s : State) (q : PageNo) (target : Port) (right : Right) : State :=
  s.modPage q fun r => { r with grants := r.grants.set target right }

/-- A taken GRANT, by the right asked and the target's recorded grant (R18 to R20): the reply stands before the events. -/
def State.grantTaken (s : State) (p : Port) (t : Tag) (q : PageNo) (target : Port) (right : Right) : State :=
  let recorded := (s.page q).grants[target]
  let s' := s.setGrant q target right
  match recorded, right with
  | .readWrite, .read =>
    let xs := (s.map target).bothWhere (namesWritable q)
    ((xs.foldl (fun s x => s.downgradeEntry target x) s').answer p t 0x12 .ok).offerMapChanged target q
      (xs.map fun x => { set := x.1, frame := x.2, change := .readOnly })
  | .read, .none | .readWrite, .none =>
    let xs := (s.map target).bothWhere (names q)
    ((xs.foldl (fun s x => s.disableEntry target x) s').answer p t 0x12 .ok).offerMapChanged target q
      (xs.map fun x => { set := x.1, frame := x.2, change := .removed })
  | .none, .none | .none, .read | .none, .readWrite | .read, .read | .read, .readWrite | .readWrite, .readWrite =>
    s'.answer p t 0x12 .ok

/-- GRANT (R17). -/
def State.grant (s : State) (p : Port) (t : Tag) (page : Half) (target : Byte) (right : Right) : State :=
  match below 2048 page.toNat, below 4 target.toNat with
  | some q, some x =>
    if !s.owns p q then s.answer p t 0x12 .denied
    else if x = p then s.answer p t 0x12 .badState
    else if !s.isOpen x then s.answer p t 0x12 .badState
    else s.grantTaken p t q x right
  | none, _ | some _, none => s.answer p t 0x12 .bounds

end Sys2Proof.Machine
end

