-- ==== Sys2Proof/Machine/Access.lean ====
section
/-! DEFINITION. The Access Unit's taking of accesses, and what a store operation does to the pool
(03_data_access_and_bank_queues.md). -/

namespace Sys2Proof.Machine

/-! ## Taking an access (R48 to R54) -/

/-- The BOUNDS check (R49). -/
def outOfRange (frame : Byte) (offset : Half) (kind : StoreKind) : Bool :=
  64 ≤ frame.toNat || Config.pageBytes ≤ offset.toNat ||
    match kind with
    | .read n => n == 0 || Config.accessBytes < n || Config.pageBytes < offset.toNat + n
    | .write data => data.isEmpty || Config.accessBytes < data.length || Config.pageBytes < offset.toNat + data.length
    | .readThenWrite op =>
      offset.toNat % 4 != 0 ||
        match op with
        | .testclr bit => 32 ≤ bit
        | .swap _ | .cas _ _ | .add _ | .dectest => false

/-- Whether an access needs READ-WRITE access and the lock check: WRITE and the atomics (R50, R52). -/
def StoreKind.writes : StoreKind → Bool
  | .read _ => false
  | .write _ | .readThenWrite _ => true

/-- Whether an access meets the poison check: READ and the atomics (R51). -/
def StoreKind.reads : StoreKind → Bool
  | .write _ => false
  | .read _ | .readThenWrite _ => true

/-- The status by which an access is refused, checks in order, and the resolved page where it is not (R48). -/
def State.checkAccess (s : State) (p : Port) (frame : Byte) (offset : Half) (kind : StoreKind) : Except Status PageNo :=
  if outOfRange frame offset kind then .error .bounds
  else
    match below 64 frame.toNat with
    | none => .error .bounds
    | some f =>
      match s.resolvePresent p f with
      | none => .error .unmapped
      | some e =>
        if kind.writes ∧ e.access = .readOnly then .error .denied
        else if kind.reads ∧ (s.page e.page).poisoned then .error .mediaError
        else if kind.writes ∧ s.writeLocked e.page p then .error .locked
        else .ok e.page

/-- Placement (R53): the in-flight record, the pin claim, the store operation at the tail of the bank's queue, and the two
in-flight counts. -/
def State.placeAccess (s : State) (p : Port) (t : Tag) (q : PageNo) (offset : Nat) (kind : StoreKind) : State :=
  let r : AccessRec := { port := p, tag := t, kind := kind, page := q, offset := offset }
  let op : StoreOp := { origin := .access p t, kind := kind, page := q, offset := offset }
  (((({ s with accesses := s.accesses ++ [r] }.pinUp q).modQueue (bankOf q) (· ++ [op])).modMap p
    fun m => { m with inFlight := m.inFlight + 1 }).modPort p fun c => { c with inFlight := c.inFlight + 1 })

/-- An access as the Access Unit takes it (R48): refused at once, or placed with its slot left IN-FLIGHT. -/
def State.access (s : State) (p : Port) (t : Tag) (frame : Byte) (offset : Half) (kind : StoreKind) : State :=
  match s.checkAccess p frame offset kind with
  | .error st => s.answer p t (Request.access frame offset kind).code st
  | .ok q => s.placeAccess p t q offset.toNat kind

/-! ## What a store operation does (R55 to R62, R66) -/

/-- The word an atomic stores, or none where its outcome calls for no store, and its reply fields (R58 to R62). -/
def AtomicOp.run (op : AtomicOp) (w : Word) : Option Word × Payload :=
  match op with
  | .swap value => (some value, .old w)
  | .cas expected new => if w = expected then (some new, .oldSwapped w true) else (none, .oldSwapped w false)
  | .add delta => (some (w + delta), .old w)
  | .testclr bit =>
    if w.getLsbD bit then (some (w &&& ~~~(1#32 <<< bit)), .priorBit true) else (none, .priorBit false)
  | .dectest =>
    if w = 0 then (none, .countdown 0 .wasZero)
    else if w = 1 then (some 0, .countdown 0 .reachedZero)
    else (some (w - 1), .countdown (w - 1) .nonzero)

/-- A store operation that the Copy Engine placed. -/
def StoreOp.isCopy (op : StoreOp) : Bool :=
  match op.origin with
  | .copy _ => true
  | .access _ _ => false

/-- The pool address at which a store operation begins. -/
def StoreOp.addr (op : StoreOp) : Nat := poolAddr op.page op.offset

/-- How many bytes a store operation acts on (R63). -/
def StoreKind.size : StoreKind → Nat
  | .read n => n
  | .write data => data.length
  | .readThenWrite _ => 4

/-- Whether a store operation can complete good: a write always does, and a read where every word it touches can be
delivered (R65, R66). -/
def StoreOp.readable (op : StoreOp) (m : Pool) : Bool := !op.kind.reads || m.readable op.addr op.kind.size

/-- The pool after a store operation is performed good (R66). That a read which repairs a word leaves the stored value as it is,
and so does an atomic that stores nothing, is the model's choice: log entry 11. -/
def StoreOp.store (op : StoreOp) (m : Pool) : Pool :=
  match op.kind with
  | .read _ => m
  | .write data => m.write op.addr data
  | .readThenWrite a =>
    match (a.run (m.wordAt op.addr)).1 with
    | none => m
    | some w => m.write op.addr (wordBytes w)

/-- The pool after a store operation is performed: one that reads a word beyond repair stores nothing (R66). -/
def StoreOp.perform (op : StoreOp) (m : Pool) : Pool := if op.readable m then op.store m else m

/-- The reply fields of a store operation performed good. -/
def StoreOp.result (op : StoreOp) (m : Pool) : Payload :=
  match op.kind with
  | .read n => .bytes (m.bytes op.addr n)
  | .write _ => .none
  | .readThenWrite a => (a.run (m.wordAt op.addr)).2

/-! ## Faults of the medium (R66; log entry 11) -/

/-- The faults that arise in the medium before the next store operation is performed: the model's own list says which. -/
def State.befall (s : State) : State :=
  match s.faults with
  | [] => s
  | fs :: rest => { s with pool := fs.foldl Pool.strike s.pool, faults := rest }

/-- The first word a store operation touches. -/
def StoreOp.firstWord (op : StoreOp) : WordNo := ⟨op.addr / 4 % 2097152, Nat.mod_lt _ (by decide)⟩

/-- The medium at an uncorrectable completion of an operation that reads: a word it reads is beyond repair, the first of them
where no fault before it says which (log entry 11). -/
def State.befallBad (s : State) (op : StoreOp) : State :=
  if op.readable s.befall.pool then { s.befall with pool := s.befall.pool.spoil op.firstWord } else s.befall

/-- The request code of a store operation an access placed. -/
def StoreKind.code (k : StoreKind) : Byte := (Request.access 0 0 k).code

end Sys2Proof.Machine
end

