-- ==== Sys2Proof/Machine/Closing.lean ====
section
/-! DEFINITION. The end of CLOSING (R155, R161). -/

namespace Sys2Proof.Machine

/-- The end condition of CLOSING: no access in flight and no ACTIVE job (R155). -/
def PortCtl.mayClose (c : PortCtl) : Bool := c.session == .closing && c.inFlight == 0 && !c.activeJob

/-- The slot of a CLOSE that awaits CLOSED. -/
def PortCtl.closeTag (c : PortCtl) : Option Tag := (c.slots.find? (·.request == .closeSession)).map (·.tag)

/-- The CLOSE reply and its slot, when the port closed by request (R155 step 2). -/
def State.answerClose (s : State) (p : Port) : State :=
  if (s.port p).closeReason = some .closed then
    match (s.port p).closeTag with
    | none => s
    | some t => s.answer p t 0x02 .ok
  else s

/-- PORT-DOWN to the role holder, unless the role is vacant or the closed port's (R161). -/
def State.offerPortDown (s : State) (p : Port) : State :=
  match (s.port p).closeReason, s.role with
  | some reason, some x => if x = p then s else s.offer x (.portDown p reason)
  | none, _ | some _, none => s

/-- The step in which a port reaches CLOSED (R155). -/
def State.reachClosed (s : State) (p : Port) : State :=
  (((s.modPort p fun c => { c with session := .closed }).answerClose p).offerPortDown p).modPort p fun c =>
    { c with closeReason := none }

/-- The test of the end condition (R155). -/
def State.closedCheck (s : State) (p : Port) : State := if (s.port p).mayClose then s.reachClosed p else s

end Sys2Proof.Machine
end

