-- ==== Sys2Proof/Machine/Copy.lean ====
section
/-! DEFINITION. The Copy Engine: submission, the choice, segments and decision points, the end of a job, CANCEL and
JOB-QUERY (05_the_copy_engine.md). -/

namespace Sys2Proof.Machine

/-! ## Submission (R102 to R106) -/

/-- The set a set code names for a port at this moment (R104). -/
def State.setOf (s : State) (p : Port) : SetCode → MapSet
  | .named x => x
  | .present => (s.map p).present

/-- A range out of range: a frame, an offset, the length, or the end of the window (R102 check 1). -/
def rangeOutOfBounds (frame : Byte) (offset : Half) (length : Word) : Bool :=
  64 ≤ frame.toNat || Config.pageBytes ≤ offset.toNat || length == 0 || 65536 < length.toNat ||
    Config.windowBytes < frame.toNat * Config.pageBytes + offset.toNat + length.toNat

/-- How many frames a range touches (R104). -/
def framesTouched (offset length : Nat) : Nat := (offset + length - 1) / Config.pageBytes + 1

/-- The entries a range resolves to, in window order; none when a frame is disabled (R102 check 2, R104). -/
def State.resolveRange (s : State) (p : Port) (set : MapSet) (frame offset length : Nat) : Option (List Entry) :=
  ((List.range (framesTouched offset length)).map (frame + ·)).mapM fun i => (below 64 i).bind (s.resolve p set)

/-- The bytes of each place of a page list, as page, first offset and the offset after the last (R104). -/
def places : List PageNo → Nat → Nat → List (PageNo × Nat × Nat)
  | [], _, _ => []
  | q :: qs, start, length =>
    let n := min length (Config.pageBytes - start)
    (q, start, start + n) :: places qs 0 (length - n)

/-- Two places share a pool byte (R105). -/
def placesMeet (x y : PageNo × Nat × Nat) : Bool := x.1 == y.1 && x.2.1 < y.2.2 && y.2.1 < x.2.2

/-- The overlap check (R105). -/
def rangesOverlap (src : List PageNo) (srcStart : Nat) (dst : List PageNo) (dstStart length : Nat) : Bool :=
  (places src srcStart length).any fun x => (places dst dstStart length).any (placesMeet x)

/-- No room for another job of the port (R102 check 5). -/
def State.jobsFull (s : State) (p : Port) : Bool :=
  Config.jobPlaces ≤ s.jobs.length || Config.jobsPerPort ≤ (s.jobs.filter (·.port == p)).length

/-- Whether a job in the queue bears an id. -/
def State.idInUse (s : State) (id : Byte) : Bool := s.jobs.any (·.id == id)

/-- The first id from a counter value on that no job bears, in at most n steps (R101). -/
def State.freeId (s : State) : Nat → Byte → Byte
  | 0, id => id
  | n + 1, id => if s.idInUse id then s.freeId n (id + 1) else id

/-- The pages of a job, source places before destination places, each as often as it occurs. -/
def Job.pages (j : Job) : List PageNo :=
  match j.kind with
  | .copy _ srcPages _ => srcPages ++ j.dstPages
  | .fill _ => j.dstPages

/-! ## Segments (R108 to R110) -/

/-- A job's start offset on its source side; 0 for a FILL. -/
def JobKind.srcStart : JobKind → Nat
  | .copy _ _ start => start
  | .fill _ => 0

/-- The place index, and the offset in its page, of a position of a range (R108). -/
def placeAt (start pos : Nat) : Nat × Nat := ((start + pos) / Config.pageBytes, (start + pos) % Config.pageBytes)

/-- The length of the segment that begins at bytes done (R108). -/
def Job.segmentLength (j : Job) : Nat :=
  let dst := Config.pageBytes - (placeAt j.dstStart j.bytesDone).2
  let src := match j.kind with
    | .copy _ _ start => Config.pageBytes - (placeAt start j.bytesDone).2
    | .fill _ => Config.segmentBytes
  min (min Config.segmentBytes (j.length - j.bytesDone)) (min src dst)

/-- The page and the offset at which the segment at bytes done is written. -/
def Job.dstAt (j : Job) : Option (PageNo × Nat) :=
  let x := placeAt j.dstStart j.bytesDone
  j.dstPages[x.1]?.map fun q => (q, x.2)

/-- The page and the offset at which the segment at bytes done is read; none for a FILL. -/
def Job.srcAt (j : Job) : Option (PageNo × Nat) :=
  match j.kind with
  | .copy _ srcPages start => let x := placeAt start j.bytesDone; srcPages[x.1]?.map fun q => (q, x.2)
  | .fill _ => none

/-- Whether the next segment is the first of its destination place (R112). -/
def Job.atPlaceStart (j : Job) : Bool := j.bytesDone == 0 || (placeAt j.dstStart j.bytesDone).2 == 0

/-- The bytes of a pattern over a segment, which is a whole number of words (R103, R110). -/
def patternBytes (pattern : Word) (n : Nat) : List Byte :=
  (List.range n).map fun i => (pattern >>> (8 * (i % 4))).setWidth 8

/-- A store operation of the Copy Engine at the tail of its bank's queue (R64). -/
def State.placeCopyOp (s : State) (id : Byte) (kind : StoreKind) (at_ : PageNo × Nat) : State :=
  s.modQueue (bankOf at_.1) (· ++ [{ origin := .copy id, kind := kind, page := at_.1, offset := at_.2 }])

/-- A decision point's finding: the outcome with which the job ends, or its next operation (R111). -/
inductive Decision where
  | finish (outcome : JobOutcome)
  | place (kind : StoreKind) (at_ : PageNo × Nat)
deriving DecidableEq, Repr

/-- The tests of a decision point, in order (R111 to R113). A job whose lists do not reach its next segment, which no
acceptance makes, ends DONE: log entry 23. -/
def State.decide (s : State) (j : Job) : Decision :=
  if j.length ≤ j.bytesDone then .finish .done
  else if j.cancel then .finish .cancelled
  else
    match j.dstAt with
    | none => .finish .done
    | some dst =>
      if j.atPlaceStart ∧ s.lockedByOther dst.1 j.port then .finish .locked
      else
        match j.kind, j.srcAt with
        | .fill pattern, _ => .place (.write (patternBytes pattern j.segmentLength)) dst
        | .copy _ _ _, none => .finish .done
        | .copy _ _ _, some src =>
          if (s.page src.1).poisoned then .finish .mediaError else .place (.read j.segmentLength) src

/-! ## The choice and the end of a job (R107, R114) -/

/-- The ACTIVE job. -/
def State.activeJob (s : State) : Option Job := s.jobs.find? (·.state == .active)

/-- The oldest QUEUED job of a port. -/
def State.oldestQueued (s : State) (p : Port) : Option Job := s.jobs.find? fun j => j.port == p && j.state == .queued

/-- The four ports in cyclic order, beginning after one (R107). -/
def portsAfter (p : Port) : List Port := [p + 1, p + 2, p + 3, p]

/-- The job the choice takes (R107). -/
def State.nextJob (s : State) : Option Job := (portsAfter s.lastServed).findSome? s.oldestQueued

/-- The job with an id, changed. -/
def State.modJob (s : State) (id : Byte) (f : Job → Job) : State :=
  { s with jobs := s.jobs.map fun j => if j.id = id then f j else j }

/-- The job with an id removed, the others keeping their order (R99). -/
def State.removeJob (s : State) (id : Byte) : State := { s with jobs := s.jobs.filter (·.id ≠ id) }

/-- The unpin claims of a job that leaves the queue: one for each place of its lists (R114 step 2). -/
def State.unpinJob (s : State) (j : Job) : State := j.pages.foldl State.unpinClaim s

/-- The report of a job's end to its port: JOB-END when it is OPEN; otherwise the Port Controller learns that the job has
left the queue, and tests the end of CLOSING (R114 step 3, R120, R155). -/
def State.reportJobEnd (s : State) (j : Job) (outcome : JobOutcome) : State :=
  if s.isOpen j.port then s.offer j.port (.jobEnd j.id outcome j.bytesDone)
  else (s.modPort j.port fun c => { c with activeJob := false }).closedCheck j.port

/-- The end of the ACTIVE job but for the choice that follows it (R114 steps 1 to 3). -/
def State.finishJob (s : State) (j : Job) (outcome : JobOutcome) : State :=
  ((s.removeJob j.id).unpinJob j).reportJobEnd j outcome

/-- A job made ACTIVE, its port last served (R107). -/
def State.activate (s : State) (j : Job) : State :=
  { s.modJob j.id (fun x => { x with state := .active }) with lastServed := j.port }

/-- The choice (R107), with the decision point of the job it takes, again after each job that this ends at once. Each
round that ends a job removes one, so the number of jobs is fuel enough. -/
def State.runChoice : Nat → State → State
  | 0, s => s
  | n + 1, s =>
    match s.activeJob with
    | some _ => s
    | none =>
      match s.nextJob with
      | none => s
      | some j =>
        match s.decide { j with state := .active } with
        | .place kind at_ => (s.activate j).placeCopyOp j.id kind at_
        | .finish outcome => State.runChoice n ((s.activate j).finishJob { j with state := .active } outcome)

/-- The choice wherever a rule runs it. -/
def State.choose (s : State) : State := State.runChoice s.jobs.length s

/-- A decision point of the ACTIVE job (R111). -/
def State.decisionPoint (s : State) (j : Job) : State :=
  match s.decide j with
  | .place kind at_ => s.placeCopyOp j.id kind at_
  | .finish outcome => (s.finishJob j outcome).choose

/-! ## Acceptance (R101, R106) -/

/-- The acceptance of a job whose lists are resolved (R106). -/
def State.acceptJob (s : State) (p : Port) (t : Tag) (code : Byte) (kind : JobKind) (dstSet : MapSet)
    (dstPages : List PageNo) (dstStart length : Nat) : State :=
  let id := s.freeId Config.jobPlaces s.nextJobId
  let j : Job := { id := id, port := p, kind := kind, dstSet := dstSet, dstPages := dstPages, dstStart := dstStart,
                   length := length, bytesDone := 0, state := .queued, cancel := false }
  ((j.pages.foldl State.pinUp { s with jobs := s.jobs ++ [j], nextJobId := id + 1 }).answer p t code .ok (.jobId id)).choose

/-- COPY as the Copy Engine takes it (R102). -/
def State.copy (s : State) (p : Port) (t : Tag) (srcSet : SetCode) (srcFrame : Byte) (srcOffset : Half) (dstSet : SetCode)
    (dstFrame : Byte) (dstOffset : Half) (length : Word) : State :=
  if rangeOutOfBounds srcFrame srcOffset length ∨ rangeOutOfBounds dstFrame dstOffset length then s.answer p t 0x50 .bounds
  else
    match s.resolveRange p (s.setOf p srcSet) srcFrame.toNat srcOffset.toNat length.toNat,
      s.resolveRange p (s.setOf p dstSet) dstFrame.toNat dstOffset.toNat length.toNat with
    | some src, some dst =>
      let srcPages := src.map (·.page)
      let dstPages := dst.map (·.page)
      if dst.any (·.access == .readOnly) then s.answer p t 0x50 .denied
      else if rangesOverlap srcPages srcOffset.toNat dstPages dstOffset.toNat length.toNat then s.answer p t 0x50 .overlap
      else if s.jobsFull p then s.answer p t 0x50 .queueFull
      else
        s.acceptJob p t 0x50 (.copy (s.setOf p srcSet) srcPages srcOffset.toNat) (s.setOf p dstSet) dstPages
          dstOffset.toNat length.toNat
    | none, _ | some _, none => s.answer p t 0x50 .unmapped

/-- FILL as the Copy Engine takes it (R103). -/
def State.fill (s : State) (p : Port) (t : Tag) (dstSet : SetCode) (dstFrame : Byte) (dstOffset : Half)
    (length pattern : Word) : State :=
  if rangeOutOfBounds dstFrame dstOffset length ∨ dstOffset.toNat % 4 ≠ 0 ∨ length.toNat % 4 ≠ 0 then s.answer p t 0x51 .bounds
  else
    match s.resolveRange p (s.setOf p dstSet) dstFrame.toNat dstOffset.toNat length.toNat with
    | none => s.answer p t 0x51 .unmapped
    | some dst =>
      if dst.any (·.access == .readOnly) then s.answer p t 0x51 .denied
      else if s.jobsFull p then s.answer p t 0x51 .queueFull
      else s.acceptJob p t 0x51 (.fill pattern) (s.setOf p dstSet) (dst.map (·.page)) dstOffset.toNat length.toNat

/-! ## CANCEL and JOB-QUERY (R116, R118) -/

/-- The port's job with an id. -/
def State.jobOf (s : State) (p : Port) (id : Byte) : Option Job := s.jobs.find? fun j => j.id == id && j.port == p

/-- CANCEL (R116): in case 2 the reply is offered first and the JOB-END last. The messages of a release that the unpins cause stand
between them: the model's choice, log entry 12. -/
def State.cancel (s : State) (p : Port) (t : Tag) (id : Byte) : State :=
  match s.jobOf p id with
  | none => s.answer p t 0x52 .notFound
  | some j =>
    match j.state with
    | .queued => (((s.answer p t 0x52 .ok).removeJob id).unpinJob j).offer p (.jobEnd id .cancelled 0)
    | .active => (s.modJob id fun x => { x with cancel := true }).answer p t 0x52 .ok

/-- JOB-QUERY (R118). -/
def State.jobQuery (s : State) (p : Port) (t : Tag) (id : Byte) : State :=
  match s.jobOf p id with
  | none => s.answer p t 0x53 .notFound
  | some j => s.answer p t 0x53 .ok (.job (s.jobs.findIdx (fun x => x.id == id && x.port == p) + 1) j)

end Sys2Proof.Machine
end

