-- ==== Sys2Proof/Machine/Store.lean ====
section
/-! DEFINITION. The switch (R43), and the store completions: of accesses (R68, R69, R71), of copy operations (R109, R113)
and of the operation carried to its end at the reset line (R72), with their commands and those of the blocks' own steps. -/

namespace Sys2Proof.Machine

/-! ## The switch (R42, R43) -/

/-- A request that is HELD behind a pending SELECT (R42). -/
def Request.isHeld : Request → Bool
  | .access _ _ _ | .acquire _ _ _ _ => true
  | .copy src _ _ dst _ _ _ => src == .present || dst == .present
  | .fill dst _ _ _ _ => dst == .present
  | .openSession | .closeSession | .info | .claim | .handover _ | .alloc _ | .free _ | .grant _ _ _ | .pageQuery _
  | .map _ _ _ _ | .unmap _ _ | .selectSet _ | .mapQuery _ _ _ | .release _ | .renew _ _ | .cancel _ | .jobQuery _
  | .configure _ | .drain _ | .restore _ | .eject _ | .poolQuery => false

/-- A request that can be HELD, handed to its unit: at its taking, or at the switch that releases it. -/
def State.handHeld (s : State) (p : Port) (t : Tag) (r : Request) : State :=
  match r with
  | .access frame offset kind => s.access p t frame offset kind
  | .acquire frame mode lease wait => s.acquire p t frame mode lease wait
  | .copy ss sf so ds df dOff n => s.copy p t ss sf so ds df dOff n
  | .fill ds df dOff n pattern => s.fill p t ds df dOff n pattern
  | .openSession | .closeSession | .info | .claim | .handover _ | .alloc _ | .free _ | .grant _ _ _ | .pageQuery _
  | .map _ _ _ _ | .unmap _ _ | .selectSet _ | .mapQuery _ _ _ | .release _ | .renew _ _ | .cancel _ | .jobQuery _
  | .configure _ | .drain _ | .restore _ | .eject _ | .poolQuery => s

/-- One HELD request released to its unit: its slot becomes IN-FLIGHT (R148). -/
def State.releaseHeld (s : State) (p : Port) (x : Slot) : State :=
  (s.modPort p (·.setSlot x.tag .inFlight)).handHeld p x.tag x.request

/-- The tag of the port's deferred SELECT. -/
def PortCtl.selectTag (c : PortCtl) : Option Tag :=
  (c.slots.find? fun x => match x.request with
    | .selectSet _ => x.state == .inFlight
    | .openSession | .closeSession | .info | .claim | .handover _ | .alloc _ | .free _ | .grant _ _ _ | .pageQuery _
    | .map _ _ _ _ | .unmap _ _ | .mapQuery _ _ _ | .access _ _ _ | .acquire _ _ _ _ | .release _ | .renew _ _
    | .copy _ _ _ _ _ _ _ | .fill _ _ _ _ _ | .cancel _ | .jobQuery _ | .configure _ | .drain _ | .restore _ | .eject _
    | .poolQuery => false).map (·.tag)

/-- The SELECT reply of the switch (R43 step 2). -/
def State.answerSelect (s : State) (p : Port) : State :=
  match (s.port p).selectTag with
  | none => s
  | some t => s.answer p t 0x22 .ok

/-- The switch of a port to a set (R43): the present set, the SELECT reply, then the HELD requests in order. -/
def State.switchTo (s : State) (p : Port) (set : MapSet) : State :=
  let s' := (s.modMap p fun m => { m with present := set, pendingSet := none }).answerSelect p
  ((s'.port p).slots.filter (·.state == .held)).foldl (fun s x => s.releaseHeld p x) s'

/-- The switch, when a SELECT is pending and no access of the port is in flight (R43). -/
def State.switchCheck (s : State) (p : Port) : State :=
  match (s.map p).pendingSet with
  | none => s
  | some set => if (s.map p).inFlight = 0 then s.switchTo p set else s

/-! ## Completions of accesses (R65, R68, R69, R71) -/

/-- The operation in progress leaves a bank's queue, with its store performed or not. -/
def State.popOp (s : State) (b : BankNo) (pool : Pool) : State :=
  { s with pool := pool }.modQueue b List.tail

/-- The in-flight access record of a port's tag removed. -/
def State.dropAccess (s : State) (p : Port) (t : Tag) : State :=
  { s with accesses := s.accesses.filter fun r => !(r.port == p && r.tag == t) }

/-- The reply of a completed access: offered on an OPEN port, otherwise discarded with its slot freed (R68 step 3, R71). -/
def State.replyAccess (s : State) (p : Port) (t : Tag) (code : Byte) (st : Status) (pay : Payload) : State :=
  if s.isOpen p then s.answer p t code st pay else s.modPort p (·.freeSlot t)

/-- The end of one in-flight access, reported to the Frame Map Unit and to the Port Controller (R68 step 4), which may make
a pending switch and may end CLOSING. -/
def State.endAccess (s : State) (p : Port) : State :=
  (((s.modMap p fun m => { m with inFlight := m.inFlight - 1 }).modPort p fun c =>
    { c with inFlight := c.inFlight - 1 }).switchCheck p).closedCheck p

/-- What the Access Unit does with a completion (R68, R69). -/
def State.completeAccess (s : State) (p : Port) (t : Tag) (op : StoreOp) (st : Status) (pay : Payload) : State :=
  (((s.dropAccess p t).unpinClaim op.page).replyAccess p t op.kind.code st pay).endAccess p

/-- A good completion of bank b's operation in progress, when the Access Unit placed it. One that reads a word beyond repair
does not complete good (R66; log entry 3). -/
def State.accessGood (s : State) (b : BankNo) : State :=
  match s.queue b with
  | [] => s
  | op :: _ =>
    match op.origin with
    | .copy _ => s
    | .access p t =>
      let s' := s.befall
      if op.readable s'.pool then (s'.popOp b (op.store s'.pool)).completeAccess p t op .ok (op.result s'.pool) else s

/-- An uncorrectable completion of bank b's operation in progress, when the Access Unit placed it and it reads: a word it
reads is beyond repair, the page is poisoned first, nothing is stored (R65, R66, R69). -/
def State.accessBad (s : State) (b : BankNo) : State :=
  match s.queue b with
  | [] => s
  | op :: _ =>
    match op.origin with
    | .copy _ => s
    | .access p t =>
      if op.kind.reads then
        let s' := s.befallBad op
        ((s'.poison op.page).popOp b s'.pool).completeAccess p t op .mediaError .none
      else s

/-! ## Completions of copy operations (R109, R110, R113) -/

/-- A good copy read: the segment buffer takes the bytes, and the segment's write is placed in the same step (R109). -/
def State.copyReadGood (s : State) (b : BankNo) : State :=
  match s.queue b with
  | [] => s
  | op :: _ =>
    match op.origin, op.kind with
    | .copy id, .read n =>
      let m := s.befall
      if op.readable m.pool then
        let data := m.pool.bytes op.addr n
        let s' := { m.popOp b m.pool with segment := data }
        match s.activeJob.bind Job.dstAt with
        | none => s'
        | some dst => s'.placeCopyOp id (.write data) dst
      else s
    | .copy _, .write _ | .copy _, .readThenWrite _ | .access _ _, _ => s

/-- An uncorrectable copy read: the page is poisoned and the job ends MEDIA-ERROR, then the choice (R113, R114). -/
def State.copyReadBad (s : State) (b : BankNo) : State :=
  match s.queue b with
  | [] => s
  | op :: _ =>
    match op.origin, op.kind with
    | .copy _, .read _ =>
      let m := s.befallBad op
      let s' := (m.poison op.page).popOp b m.pool
      match s.activeJob with
      | none => s'
      | some j => (s'.finishJob j .mediaError).choose
    | .copy _, .write _ | .copy _, .readThenWrite _ | .access _ _, _ => s

/-- A segment's write completes: bytes done rises by its length and the next decision point runs (R109, R110). -/
def State.copyWriteGood (s : State) (b : BankNo) : State :=
  match s.queue b with
  | [] => s
  | op :: _ =>
    match op.origin, op.kind with
    | .copy _, .write data =>
      let m := s.befall
      let s' := { m.popOp b (op.store m.pool) with segment := [] }
      match s.activeJob with
      | none => s'
      | some j =>
        let j' := { j with bytesDone := j.bytesDone + data.length }
        (s'.modJob j.id fun x => { x with bytesDone := x.bytesDone + data.length }).decisionPoint j'
    | .copy _, .read _ | .copy _, .readThenWrite _ | .access _ _, _ => s

/-! ## The commands. An event that is not due has no effect: log entry 3. -/

/-- ACCESS_COMPLETION_GOOD (R68). -/
def execAccessCompletionGood (b : BankNo) (s : State) : Host.Outcome State Fault Refusal :=
  .next (if s.isRunning then s.accessGood b else s)

/-- ACCESS_COMPLETION_UNCORRECTABLE (R69). -/
def execAccessCompletionUncorrectable (b : BankNo) (s : State) : Host.Outcome State Fault Refusal :=
  .next (if s.isRunning then s.accessBad b else s)

/-- COPY_READ_COMPLETE (R109). -/
def execCopyReadComplete (b : BankNo) (s : State) : Host.Outcome State Fault Refusal :=
  .next (if s.isRunning then s.copyReadGood b else s)

/-- COPY_READ_UNCORRECTABLE (R113). -/
def execCopyReadUncorrectable (b : BankNo) (s : State) : Host.Outcome State Fault Refusal :=
  .next (if s.isRunning then s.copyReadBad b else s)

/-- COPY_WRITE_COMPLETE (R109, R110). -/
def execCopyWriteComplete (b : BankNo) (s : State) : Host.Outcome State Fault Refusal :=
  .next (if s.isRunning then s.copyWriteGood b else s)

/-- SWITCH (R43); every completion that makes it due makes it in its own step: log entry 10. -/
def execSwitch (p : Port) (s : State) : Host.Outcome State Fault Refusal :=
  .next (if s.isRunning then s.switchCheck p else s)

/-- BANK_OFFLINE (R125); every step that makes it due runs it itself: log entry 10. -/
def execBankOffline (b : BankNo) (s : State) : Host.Outcome State Fault Refusal :=
  .next (if s.isRunning then s.bankOfflineCheck b else s)

/-- JOB_CHOICE (R107); every step that makes it due runs it itself: log entry 10. -/
def execJobChoice (s : State) : Host.Outcome State Fault Refusal :=
  .next (if s.isRunning then s.choose else s)

/-- CLOSED_REACHED (R155); every step that makes it due runs it itself: log entry 10. -/
def execClosedReached (p : Port) (s : State) : Host.Outcome State Fault Refusal :=
  .next (if s.isRunning then s.closedCheck p else s)

/-- OPERATION_IN_PROGRESS_CARRIED_TO_END (R72, R121): during RESET, a bank finishes the operation it has in progress, unreported,
and no read of a copy is followed by its write. An atomic whose word cannot be repaired stores nothing (R66; log entry 15). -/
def State.carryOp (s : State) (b : BankNo) (outcome : StoreOutcome) : State :=
  match s.queue b with
  | [] => s
  | op :: _ =>
    let m := if outcome = StoreOutcome.uncorrectable ∧ op.kind.reads then s.befallBad op else s.befall
    { m with pool := op.perform m.pool }.modQueue b List.tail

/-- OPERATION_IN_PROGRESS_CARRIED_TO_END (R72). -/
def execOperationCarriedToEnd (b : BankNo) (outcome : StoreOutcome) (s : State) : Host.Outcome State Fault Refusal :=
  .next (if s.phase = .reset then s.carryOp b outcome else s)

end Sys2Proof.Machine
end

