-- ==== Sys2Proof/Machine/Session.lean ====
section
/-! DEFINITION. Sessions: OPEN, INFO, CLOSE, and the teardown of a port with the free order of its blocks' shares
(07_ports_and_sessions.md, R24 to R26, R46, R97, R120, R196). -/

namespace Sys2Proof.Machine

/-! ## OPEN and INFO (R151, R152, R193) -/

/-- The role after an OPEN is taken on a CLOSED port: a vacant role goes to the port (R193). -/
def State.roleAtOpen (s : State) (p : Port) : Option Port :=
  match s.role with
  | none => some p
  | some x => some x

/-- The session of a CLOSED port opened (R151), with the port's selection as R30 and R47 give it. -/
def State.openSession (s : State) (p : Port) : State :=
  { (s.modPort p fun c =>
      { c with session := .opened, closeReason := none, inFlight := 0, activeJob := false, lost := 0 }).modMap p fun m =>
      { m with present := .a, pendingSet := none, inFlight := 0 } with role := s.roleAtOpen p }

/-- OPEN by the session state (R151). -/
def State.openPort (s : State) (p : Port) (t : Tag) : State :=
  match (s.port p).session with
  | .closed =>
    (s.openSession p).answer p t 0x01 .ok
      (.session p (s.roleAtOpen p == some p) s.config.quota[p] (s.ownedBy p))
  | .opened | .closing => s.answer p t 0x01 .badState

/-- INFO (R152). -/
def State.info (s : State) (p : Port) (t : Tag) : State := s.answer p t 0x03 .ok .info

/-! ## The order of a teardown's shares (R24, R97, R154; log entry 8) -/

/-- One part of a block's share of a teardown, which may come before or after any part of another block's. -/
inductive TeardownPart where
  | unlock (q : PageNo)
  | disable (set : MapSet) (f : FrameNo)
  | dropJob (id : Byte)
  | markActive
  | ownership
  | clearGrants
  | testClosed
deriving DecidableEq, Repr

/-- The first part of the k-th queue that is not empty, and the queues without it. -/
def takeFrom {α : Type} : Nat → List (List α) → Option (α × List (List α))
  | _, [] => none
  | k, [] :: qs => (takeFrom k qs).map fun r => (r.1, [] :: r.2)
  | 0, (x :: xs) :: qs => some (x, xs :: qs)
  | k + 1, (x :: xs) :: qs => (takeFrom k qs).map fun r => (r.1, (x :: xs) :: r.2)

/-- The queues' parts in one order: each number of the schedule picks, among the queues not empty, the one whose head
comes next; when the schedule is used up, the rest come queue by queue. Also the schedule that is left. -/
def interleave {α : Type} : List Nat → List (List α) → List α × List Nat
  | [], qs => (qs.flatten, [])
  | k :: ks, qs =>
    match takeFrom (k % (qs.filter (!·.isEmpty)).length) qs with
    | none => ([], k :: ks)
    | some (x, qs') => let r := interleave ks qs'; (x :: r.1, r.2)

/-- The pages in whose lock entries a port has a record. -/
def State.lockedPages (s : State) (p : Port) : List PageNo :=
  (s.locks.filter fun l => l.holds p || l.waits p).map (·.page)

/-- The ids of a port's QUEUED jobs, in queue order. -/
def State.queuedJobs (s : State) (p : Port) : List Byte :=
  (s.jobs.filter fun j => j.port == p && j.state == .queued).map (·.id)

/-- The shares of a port's teardown, one queue of parts for each block and one for each step of the directory (R154). -/
def State.teardownShares (s : State) (p : Port) : List (List TeardownPart) :=
  [ (s.lockedPages p).map .unlock,
    ((s.map p).bothWhere Option.isSome).map fun x => .disable x.1 x.2,
    (s.queuedJobs p).map .dropJob ++ [.markActive],
    [.ownership],
    [.clearGrants] ]

/-- A QUEUED job removed at the teardown of its port, with its unpin claims and without JOB-END (R120). That no claim and no step
of another block comes between the claims of one job is the model's choice: log entry 8. -/
def State.dropJob (s : State) (p : Port) (id : Byte) : State :=
  match s.jobOf p id with
  | none => s
  | some j => (s.removeJob id).unpinJob j

/-- The port's ACTIVE job, if any, marked for cancellation, and the report of it to the Port Controller (R120). -/
def State.markActive (s : State) (p : Port) : State :=
  match s.activeJob with
  | none => s.modPort p fun c => { c with activeJob := false }
  | some j =>
    if j.port = p then
      (s.modJob j.id fun x => { x with cancel := true }).modPort p fun c => { c with activeJob := true }
    else s.modPort p fun c => { c with activeJob := false }

/-- One part of a teardown. -/
def State.tearDownPart (s : State) (p : Port) : TeardownPart → State
  | .unlock q => s.unlockForTeardown p q
  | .disable set f => s.disableEntry p (set, f)
  | .dropJob id => s.dropJob p id
  | .markActive => s.markActive p
  | .ownership => s.ownershipStep p
  | .clearGrants => s.clearGrants p
  | .testClosed => s.closedCheck p

/-- A slot that the Port Controller frees at CLOSING entry: HELD, or holding the deferred SELECT (R46, R148). -/
def Slot.endsAtClosing (x : Slot) : Bool :=
  x.state == .held ||
    match x.request with
    | .selectSet _ => true
    | .openSession | .closeSession | .info | .claim | .handover _ | .alloc _ | .free _ | .grant _ _ _ | .pageQuery _
    | .map _ _ _ _ | .unmap _ _ | .mapQuery _ _ _ | .access _ _ _ | .acquire _ _ _ _ | .release _ | .renew _ _
    | .copy _ _ _ _ _ _ _ | .fill _ _ _ _ _ | .cancel _ | .jobQuery _ | .configure _ | .drain _ | .restore _ | .eject _
    | .poolQuery => false

/-- The start of a teardown: CLOSING with its reason, the lost count 0, the port's selection and its HELD slots withdrawn
(R46, R154), the role vacated if the port holds it (R196). -/
def State.beginClosing (s : State) (p : Port) (reason : CloseReason) : State :=
  { (s.modPort p fun c =>
      { c with session := .closing, closeReason := some reason, lost := 0,
               slots := c.slots.filter (!·.endsAtClosing) }).modMap p fun m =>
      { m with present := .a, pendingSet := none } with role := if s.role = some p then none else s.role }

/-- The first test of the end condition put among the parts of a teardown: it comes once the Copy Engine's report is in (R155),
and k, taken modulo the places there are, says how many parts come after it. -/
def placeTest (k : Nat) (parts : List TeardownPart) : List TeardownPart :=
  let behind := parts.length - (parts.idxOf .markActive + 1)
  let n := parts.length - k % (behind + 1)
  parts.take n ++ .testClosed :: parts.drop n

/-- The blocks' shares of a teardown with the first test of the end condition (R154, R155), in the order the schedule gives
them. When the schedule is used up the test comes last, so that a BANK-STATE of the step precedes its PORT-DOWN: the model's
choice, log entry 8. -/
def State.tearDownShares (s : State) (p : Port) : State :=
  let r := interleave s.schedule (s.teardownShares p)
  (placeTest (r.2.headD 0) r.1).foldl (fun s x => s.tearDownPart p x) { s with schedule := r.2.tail }

/-- SESSION-END to the port's own queue when it closes by ejection (R157). -/
def State.offerSessionEnd (s : State) (p : Port) (reason : CloseReason) : State :=
  match reason with
  | .ejected => s.offer p (.sessionEnd .ejected)
  | .closed | .linkLost => s

/-- The entry of a port into CLOSING: its teardown, the first test of the end condition in it (R154, R155). -/
def State.enterClosing (s : State) (p : Port) (reason : CloseReason) : State :=
  ((s.beginClosing p reason).offerSessionEnd p reason).tearDownShares p

end Sys2Proof.Machine
end

