-- ==== Sys2Proof/Machine/Supervisor.lean ====
section
/-! DEFINITION. The Supervisor Unit: CLAIM, HANDOVER, CONFIGURE, EJECT and POOL-QUERY (10_the_supervisor_role.md). -/

namespace Sys2Proof.Machine

/-- CLAIM by the role record (R194). -/
def State.claim (s : State) (p : Port) (t : Tag) : State :=
  match s.role with
  | none => { s with role := some p }.answer p t 0x04 .ok
  | some x => if x = p then s.answer p t 0x04 .ok else s.answer p t 0x04 .badState

/-- HANDOVER (R195). -/
def State.handover (s : State) (p : Port) (t : Tag) (target : Byte) : State :=
  match below 4 target.toNat with
  | none => s.answer p t 0x05 .bounds
  | some x =>
    if x = p then s.answer p t 0x05 .badState
    else if !s.isOpen x then s.answer p t 0x05 .badState
    else ({ s with role := some x }.answer p t 0x05 .ok).offer x .roleGained

/-- A BOUNDS condition of a CONFIGURE holds (R198 order 1). -/
def ConfigFields.outOfRange (f : ConfigFields) : Bool :=
  f.gap.any (· == 0) || f.lease.any (· == 0) || f.limit.any (fun n => n == 0 || 64 < n.toNat) ||
    f.quotas.toList.any fun q => q.any fun n => 2048 < n.toNat

/-- A quota of a CONFIGURE is below its port's owned count (R198 order 2). -/
def State.quotaTooLow (s : State) (f : ConfigFields) : Bool :=
  (List.finRange 4).any fun p => f.quotas[p].any fun n => n.toNat < s.ownedBy p

/-- The record with the named fields written (R199). -/
def ConfigRec.write (c : ConfigRec) (f : ConfigFields) : ConfigRec :=
  { gapTime := (f.gap.map (·.toNat)).getD c.gapTime
    defaultLease := (f.lease.map (·.toNat)).getD c.defaultLease
    retireLimit := (f.limit.map (·.toNat)).getD c.retireLimit
    quota := mapEach c.quota (fun i n => ((f.quotas[i]?.bind id).map (·.toNat)).getD n) }

/-- CONFIGURE (R198, R199): the reply stands before the retire-limit checks, which run when the limit is named (R135). -/
def State.configure (s : State) (p : Port) (t : Tag) (f : ConfigFields) : State :=
  if f.outOfRange then s.answer p t 0x60 .bounds
  else if s.quotaTooLow f then s.answer p t 0x60 .quota
  else
    let config := s.config.write f
    let s' := { s with config := config }.answer p t 0x60 .ok (.config config)
    if f.limit.isSome then [0, 1, 2, 3].foldl State.retireLimitCheck s' else s'

/-- EJECT (R200). The reply stands before PORT-DOWN (Table 10-2 note 2), and before every other message that the teardown offers
to the supervisor: the model's choice, log entry 27. -/
def State.eject (s : State) (p : Port) (t : Tag) (target : Byte) : State :=
  match below 4 target.toNat with
  | none => s.answer p t 0x63 .bounds
  | some x =>
    if x = p then s.answer p t 0x63 .badState
    else if !s.isOpen x then s.answer p t 0x63 .badState
    else (s.answer p t 0x63 .ok).enterClosing x .ejected

/-- POOL-QUERY (R201). -/
def State.poolQuery (s : State) (p : Port) (t : Tag) : State :=
  s.answer p t 0x64 .ok (.pool s.freeList.length s.banks s.role (mapEach s.ports (fun _ c => c.session)))

end Sys2Proof.Machine
end

