-- ==== Sys2Proof/Machine/Requests.lean ====
section
/-! DEFINITION. The taking of requests by a Port Controller (R140 to R149), and the meaning of each request command. -/

namespace Sys2Proof.Machine

/-! ## Port-level checks (R141 to R145) -/

/-- A request reserved to the supervisor (R145). -/
def Request.isReserved : Request → Bool
  | .handover _ | .configure _ | .drain _ | .restore _ | .eject _ | .poolQuery => true
  | .openSession | .closeSession | .info | .claim | .alloc _ | .free _ | .grant _ _ _ | .pageQuery _ | .map _ _ _ _
  | .unmap _ _ | .selectSet _ | .mapQuery _ _ _ | .access _ _ _ | .acquire _ _ _ _ | .release _ | .renew _ _
  | .copy _ _ _ _ _ _ _ | .fill _ _ _ _ _ | .cancel _ | .jobQuery _ => false

/-- A request that check 3 passes in every session state: OPEN and INFO (R143). -/
def Request.passesUnopened : Request → Bool
  | .openSession | .info => true
  | .closeSession | .claim | .handover _ | .alloc _ | .free _ | .grant _ _ _ | .pageQuery _ | .map _ _ _ _ | .unmap _ _
  | .selectSet _ | .mapQuery _ _ _ | .access _ _ _ | .acquire _ _ _ _ | .release _ | .renew _ _ | .copy _ _ _ _ _ _ _
  | .fill _ _ _ _ _ | .cancel _ | .jobQuery _ | .configure _ | .drain _ | .restore _ | .eject _ | .poolQuery => false

/-- Checks 3 to 6 in order: the status of the first that fails, none when the request is taken (R141). -/
def State.portCheck (s : State) (p : Port) (t : Tag) (r : Request) : Option Status :=
  let c := s.port p
  if c.session ≠ .opened ∧ !r.passesUnopened then some .notOpen
  else if c.slots.any (·.tag == t) then some .tagInUse
  else if Config.slotPlaces ≤ c.slots.length then some .slotsFull
  else if r.isReserved ∧ s.role ≠ some p then some .notSupervisor
  else none

/-- A port closing by ejection drops every request it receives (R143). -/
def PortCtl.dropsRequests (c : PortCtl) : Bool := c.session == .closing && c.closeReason == some .ejected

/-! ## Taking (R140, R147, R148) -/

/-- A request in a slot. -/
def State.occupy (s : State) (p : Port) (t : Tag) (r : Request) (st : SlotState) : State :=
  s.modPort p fun c => { c with slots := c.slots ++ [{ tag := t, request := r, state := st }] }

/-- A taken request handed to its owning block (R140). -/
def State.handOver (s : State) (p : Port) (t : Tag) (r : Request) : State :=
  match r with
  | .openSession => s.openPort p t
  | .closeSession => s.enterClosing p .closed
  | .info => s.info p t
  | .claim => s.claim p t
  | .handover target => s.handover p t target
  | .alloc count => s.alloc p t count
  | .free page => s.free p t page
  | .grant page target right => s.grant p t page target right
  | .pageQuery page => s.pageQuery p t page
  | .map set frame page access => s.mapFrame p t set frame page access
  | .unmap set frame => s.unmapFrame p t set frame
  | .selectSet set => s.selectFrames p t set
  | .mapQuery set first count => s.mapQuery p t set first count
  | .access frame offset kind => s.handHeld p t (.access frame offset kind)
  | .acquire frame mode lease wait => s.handHeld p t (.acquire frame mode lease wait)
  | .release page => s.release p t page
  | .renew page lease => s.renew p t page lease
  | .copy ss sf so ds df dOff n => s.handHeld p t (.copy ss sf so ds df dOff n)
  | .fill ds df dOff n pattern => s.handHeld p t (.fill ds df dOff n pattern)
  | .cancel id => s.cancel p t id
  | .jobQuery id => s.jobQuery p t id
  | .configure fields => s.configure p t fields
  | .drain bank => s.drain p t bank
  | .restore bank => s.restore p t bank
  | .eject target => s.eject p t target
  | .poolQuery => s.poolQuery p t

/-- A request taken: HELD behind a pending SELECT when R42 names it, otherwise IN-FLIGHT and handed over in the same step. -/
def State.take (s : State) (p : Port) (t : Tag) (r : Request) : State :=
  if (s.map p).pendingSet.isSome ∧ r.isHeld then s.occupy p t r .held
  else (s.occupy p t r .inFlight).handOver p t r

/-- What the Port Controller does with a request it receives: dropped during CLOSING by ejection, else refused by the first
check that fails, else taken (R141, R143). -/
def State.judge (s : State) (p : Port) (t : Tag) (code : Byte) (m : Parsed) : State :=
  if (s.port p).dropsRequests then s
  else
    match m with
    | .badForm => s.refuse p t code .badForm
    | .unknownCode => s.refuse p t code .unknownCode
    | .request r =>
      match s.portCheck p t r with
      | some st => s.refuse p t code st
      | none => s.take p t r

/-- A body whose kind is request, as its frame is complete (R170, R184). -/
def State.judgeBody (s : State) (p : Port) (body : List Byte) : State :=
  match body with
  | b0 :: code :: fields => s.judge p (tagOf b0) code (parseFields code.toNat fields)
  | [] | [_] => s

/-- A request arrives whole: judged while the device is RUNNING and no break is in force on the port; in RESET, in CLEARING
and during a break nothing is received (R158, R163, R203, R205). A request command while the receiver is in RESYNC or inside
a frame is judged all the same, and leaves the receiver as it is: the model's choice, log entry 1. -/
def State.receive (s : State) (p : Port) (t : Tag) (code : Byte) (m : Parsed) : State :=
  if s.isRunning ∧ !(s.port p).breakInForce then s.judge p t code m else s

/-! ## The request commands -/

/-- OPEN (R151). -/
def execOpen (p : Port) (t : Tag) (s : State) : Host.Outcome State Fault Refusal :=
  .next (s.receive p t 0x01 (.request .openSession))

/-- CLOSE (R153). -/
def execClose (p : Port) (t : Tag) (s : State) : Host.Outcome State Fault Refusal :=
  .next (s.receive p t 0x02 (.request .closeSession))

/-- INFO (R152). -/
def execInfo (p : Port) (t : Tag) (s : State) : Host.Outcome State Fault Refusal :=
  .next (s.receive p t 0x03 (.request .info))

/-- CLAIM (R194). -/
def execClaim (p : Port) (t : Tag) (s : State) : Host.Outcome State Fault Refusal :=
  .next (s.receive p t 0x04 (.request .claim))

/-- HANDOVER (R195). -/
def execHandover (p : Port) (t : Tag) (target : Byte) (s : State) : Host.Outcome State Fault Refusal :=
  .next (s.receive p t 0x05 (.request (.handover target)))

/-- ALLOC (R13, R14). -/
def execAlloc (p : Port) (t : Tag) (count : Byte) (s : State) : Host.Outcome State Fault Refusal :=
  .next (s.receive p t 0x10 (.request (.alloc count)))

/-- FREE (R15, R16). -/
def execFree (p : Port) (t : Tag) (page : Half) (s : State) : Host.Outcome State Fault Refusal :=
  .next (s.receive p t 0x11 (.request (.free page)))

/-- GRANT (R17 to R22). -/
def execGrant (p : Port) (t : Tag) (page : Half) (target right : Byte) (s : State) : Host.Outcome State Fault Refusal :=
  .next (s.receive p t 0x12 (.ofOption (grantRequest page target right)))

/-- PAGE-QUERY (R23). -/
def execPageQuery (p : Port) (t : Tag) (page : Half) (s : State) : Host.Outcome State Fault Refusal :=
  .next (s.receive p t 0x13 (.request (.pageQuery page)))

/-- MAP (R34, R35). -/
def execMap (p : Port) (t : Tag) (set frame : Byte) (page : Half) (access : Byte) (s : State) :
    Host.Outcome State Fault Refusal :=
  .next (s.receive p t 0x20 (.ofOption (mapRequest set frame page access)))

/-- UNMAP (R37). -/
def execUnmap (p : Port) (t : Tag) (set frame : Byte) (s : State) : Host.Outcome State Fault Refusal :=
  .next (s.receive p t 0x21 (.ofOption (unmapRequest set frame)))

/-- SELECT (R41). -/
def execSelect (p : Port) (t : Tag) (set : Byte) (s : State) : Host.Outcome State Fault Refusal :=
  .next (s.receive p t 0x22 (.ofOption (selectRequest set)))

/-- MAP-QUERY (R45). -/
def execMapQuery (p : Port) (t : Tag) (set first count : Byte) (s : State) : Host.Outcome State Fault Refusal :=
  .next (s.receive p t 0x23 (.ofOption (mapQueryRequest set first count)))

/-- READ (R56). -/
def execRead (p : Port) (t : Tag) (frame : Byte) (offset : Half) (length : Byte) (s : State) :
    Host.Outcome State Fault Refusal :=
  .next (s.receive p t 0x30 (.request (.access frame offset (.read length.toNat))))

/-- WRITE (R57). -/
def execWrite (p : Port) (t : Tag) (frame : Byte) (offset : Half) (data : List Byte) (s : State) :
    Host.Outcome State Fault Refusal :=
  .next (s.receive p t 0x31 (.ofOption (writeRequest frame offset data)))

/-- SWAP (R58). -/
def execSwap (p : Port) (t : Tag) (frame : Byte) (offset : Half) (value : Word) (s : State) :
    Host.Outcome State Fault Refusal :=
  .next (s.receive p t 0x32 (.request (.access frame offset (.readThenWrite (.swap value)))))

/-- CAS (R59). -/
def execCas (p : Port) (t : Tag) (frame : Byte) (offset : Half) (expected new : Word) (s : State) :
    Host.Outcome State Fault Refusal :=
  .next (s.receive p t 0x33 (.request (.access frame offset (.readThenWrite (.cas expected new)))))

/-- ADD (R60). -/
def execAdd (p : Port) (t : Tag) (frame : Byte) (offset : Half) (delta : Word) (s : State) :
    Host.Outcome State Fault Refusal :=
  .next (s.receive p t 0x34 (.request (.access frame offset (.readThenWrite (.add delta)))))

/-- TESTCLR (R61). -/
def execTestclr (p : Port) (t : Tag) (frame : Byte) (offset : Half) (bit : Byte) (s : State) :
    Host.Outcome State Fault Refusal :=
  .next (s.receive p t 0x35 (.request (.access frame offset (.readThenWrite (.testclr bit.toNat)))))

/-- DECTEST (R62). -/
def execDectest (p : Port) (t : Tag) (frame : Byte) (offset : Half) (s : State) : Host.Outcome State Fault Refusal :=
  .next (s.receive p t 0x36 (.request (.access frame offset (.readThenWrite .dectest))))

/-- ACQUIRE (R81). -/
def execAcquire (p : Port) (t : Tag) (frame mode : Byte) (lease wait : Half) (s : State) :
    Host.Outcome State Fault Refusal :=
  .next (s.receive p t 0x40 (.ofOption (acquireRequest frame mode lease wait)))

/-- RELEASE (R89). -/
def execRelease (p : Port) (t : Tag) (page : Half) (s : State) : Host.Outcome State Fault Refusal :=
  .next (s.receive p t 0x41 (.request (.release page)))

/-- RENEW (R90). -/
def execRenew (p : Port) (t : Tag) (page lease : Half) (s : State) : Host.Outcome State Fault Refusal :=
  .next (s.receive p t 0x42 (.request (.renew page lease)))

/-- COPY (R102). -/
def execCopy (p : Port) (t : Tag) (srcSet srcFrame : Byte) (srcOffset : Half) (dstSet dstFrame : Byte) (dstOffset : Half)
    (length : Word) (s : State) : Host.Outcome State Fault Refusal :=
  .next (s.receive p t 0x50 (.ofOption (copyRequest srcSet srcFrame srcOffset dstSet dstFrame dstOffset length)))

/-- FILL (R103). -/
def execFill (p : Port) (t : Tag) (dstSet dstFrame : Byte) (dstOffset : Half) (length pattern : Word) (s : State) :
    Host.Outcome State Fault Refusal :=
  .next (s.receive p t 0x51 (.ofOption (fillRequest dstSet dstFrame dstOffset length pattern)))

/-- CANCEL (R116). -/
def execCancel (p : Port) (t : Tag) (id : Byte) (s : State) : Host.Outcome State Fault Refusal :=
  .next (s.receive p t 0x52 (.request (.cancel id)))

/-- JOB-QUERY (R118). -/
def execJobQuery (p : Port) (t : Tag) (id : Byte) (s : State) : Host.Outcome State Fault Refusal :=
  .next (s.receive p t 0x53 (.request (.jobQuery id)))

/-- CONFIGURE (R198, R199). -/
def execConfigure (p : Port) (t : Tag) (mask gap : Byte) (lease : Half) (limit : Byte) (q0 q1 q2 q3 : Half) (s : State) :
    Host.Outcome State Fault Refusal :=
  .next (s.receive p t 0x60 (.ofOption (configureRequest mask gap lease limit q0 q1 q2 q3)))

/-- DRAIN (R124). -/
def execDrain (p : Port) (t : Tag) (bank : Byte) (s : State) : Host.Outcome State Fault Refusal :=
  .next (s.receive p t 0x61 (.request (.drain bank)))

/-- RESTORE (R127). -/
def execRestore (p : Port) (t : Tag) (bank : Byte) (s : State) : Host.Outcome State Fault Refusal :=
  .next (s.receive p t 0x62 (.request (.restore bank)))

/-- EJECT (R200). -/
def execEject (p : Port) (t : Tag) (target : Byte) (s : State) : Host.Outcome State Fault Refusal :=
  .next (s.receive p t 0x63 (.request (.eject target)))

/-- POOL-QUERY (R201). -/
def execPoolQuery (p : Port) (t : Tag) (s : State) : Host.Outcome State Fault Refusal :=
  .next (s.receive p t 0x64 (.request .poolQuery))

end Sys2Proof.Machine
end

