-- ==== Sys2Proof/Machine/Link.lean ====
section
/-! DEFINITION. The receiver and the transmitter of a port (08_link_framing_and_message_delivery.md), and the line events. -/

namespace Sys2Proof.Machine

/-! ## The receiver (R164 to R174) -/

/-- The receiver's state and gap timer. -/
def State.setRx (s : State) (p : Port) (rx : RxState) (gap : Option Nat) : State :=
  s.modPort p fun c => { c with rx := rx, gap := gap }

/-- A frame is discarded with a REJECTED of a reason (R174). -/
def State.reject (s : State) (p : Port) (rx : RxState) (gap : Option Nat) (reason : RejectReason) : State :=
  (s.setRx p rx gap).offer p (.rejected reason)

/-- A frame is complete (R170): a request goes to the port-level checks, anything else is dropped with REJECTED KIND. -/
def State.frameComplete (s : State) (p : Port) (body : List Byte) : State :=
  match body with
  | [] => s
  | b0 :: _ => if isRequestKind b0 then s.judgeBody p body else s.offer p (.rejected .kind)

/-- A byte in each state of the receiver (Table 8-2). -/
def State.receiveByte (s : State) (p : Port) (b : Byte) : State :=
  let set : Option Nat := some s.config.gapTime
  match (s.port p).rx with
  | .hunt => if b = Config.marker then s.setRx p (.length checkStart) set else s
  | .length check =>
    if 2 ≤ b.toNat ∧ b.toNat ≤ 252 then s.setRx p (.body b.toNat [] (checkByte check b)) set
    else s.reject p .resync set .length
  | .body len soFar check =>
    let body := soFar ++ [b]
    if body.length = len then s.setRx p (.check len body (checkByte check b) none) set
    else s.setRx p (.body len body (checkByte check b)) set
  | .check len soFar check none => s.setRx p (.check len soFar check (some b)) set
  | .check _ soFar check (some first) =>
    if first = checkHigh check ∧ b = checkLow check then (s.setRx p .hunt none).frameComplete p soFar
    else s.reject p .resync set .check
  | .resync => s.setRx p .resync set

/-- A character error in each state of the receiver (R165, R171, R172). -/
def State.receiveError (s : State) (p : Port) : State :=
  let set : Option Nat := some s.config.gapTime
  match (s.port p).rx with
  | .hunt => s
  | .length _ | .body _ _ _ | .check _ _ _ _ => s.reject p .resync set .line
  | .resync => s.setRx p .resync set

/-- Whether the receiver is inside a frame: LENGTH, BODY or CHECK. -/
def RxState.inFrame : RxState → Bool
  | .length _ | .body _ _ _ | .check _ _ _ _ => true
  | .hunt | .resync => false

/-- The gap timer has run out inside a frame (R169). -/
def PortCtl.gapDue (c : PortCtl) : Bool := c.gap == some 0 && c.rx.inFrame
/-- The gap timer has run out in RESYNC (R172). -/
def PortCtl.resyncDue (c : PortCtl) : Bool := c.gap == some 0 && c.rx == .resync

/-- The run-out of the gap timer inside a frame, when it is due (R169). -/
def State.gapRunOut (s : State) (p : Port) : State :=
  if (s.port p).gapDue then s.reject p .hunt none .gap else s

/-- The end of RESYNC, when it is due (R172). -/
def State.resyncRunOut (s : State) (p : Port) : State :=
  if (s.port p).resyncDue then s.setRx p .hunt none else s

/-! ## Breaks and the transmitter (R173, R179, R180, R158, R159) -/

/-- The beginning of a break on a Port Controller: the partial frame is discarded, the outbound queue emptied, the
transmitter STOPPED (R173, R180). -/
def PortCtl.breakOff (c : PortCtl) : PortCtl :=
  { c with rx := .resync, gap := none, breakInForce := true, outbound := [], tx := .stopped }

/-- The end of a break on a Port Controller (R173, R179). -/
def PortCtl.breakOver (c : PortCtl) (gapTime : Nat) : PortCtl :=
  { c with rx := .resync, gap := some gapTime, breakInForce := false,
           tx := if c.outbound.isEmpty then .idle else .sending }

/-- The last byte of the head's frame has been sent (R179): the head leaves, OVERFLOW is admitted if R178 allows, and the
next frame begins if there is one. -/
def PortCtl.sent (c : PortCtl) : PortCtl :=
  let c := { c with outbound := c.outbound.tail, tx := TxState.idle }.admitOverflow
  { c with tx := if c.outbound.isEmpty then .idle else .sending }

/-! ## The line events. An event the line does not report in a state has no effect: log entry 3. -/

/-- BYTE_RECEIVED (R164 to R170). In RESET and CLEARING the byte is discarded (R203, R205). -/
def execByteReceived (p : Port) (b : Byte) (s : State) : Host.Outcome State Fault Refusal :=
  .next (if s.isRunning ∧ !(s.port p).breakInForce then s.receiveByte p b else s)

/-- CHARACTER_ERROR (R171). In RESET and CLEARING it is discarded (R203, R205). -/
def execCharacterError (p : Port) (s : State) : Host.Outcome State Fault Refusal :=
  .next (if s.isRunning ∧ !(s.port p).breakInForce then s.receiveError p else s)

/-- A break begins (R158, R159, R173, R180): on an OPEN port it is link loss. In RESET and CLEARING it is recorded alone
(R182, R203; log entry 14). -/
def State.breakBegins (s : State) (p : Port) : State :=
  if (s.port p).breakInForce then s
  else if s.isRunning then
    let s' := s.modPort p (·.breakOff)
    if s.isOpen p then s'.enterClosing p .linkLost else s'
  else s.modPort p fun c => { c with breakInForce := true }

/-- BREAK_BEGINS (R173). -/
def execBreakBegins (p : Port) (s : State) : Host.Outcome State Fault Refusal := .next (s.breakBegins p)

/-- A break ends (R173, R180). In RESET and CLEARING it is recorded alone. -/
def State.breakEnds (s : State) (p : Port) : State :=
  if !(s.port p).breakInForce then s
  else if s.isRunning then s.modPort p (·.breakOver s.config.gapTime)
  else s.modPort p fun c => { c with breakInForce := false }

/-- BREAK_ENDS (R173). -/
def execBreakEnds (p : Port) (s : State) : Host.Outcome State Fault Refusal := .next (s.breakEnds p)

/-- GAP_TIMER_RUNS_OUT (R169). -/
def execGapTimerRunsOut (p : Port) (s : State) : Host.Outcome State Fault Refusal :=
  .next (if s.isRunning then s.gapRunOut p else s)

/-- RESYNC_END (R172). -/
def execResyncEnd (p : Port) (s : State) : Host.Outcome State Fault Refusal :=
  .next (if s.isRunning then s.resyncRunOut p else s)

/-- LAST_BYTE_SENT (R179). -/
def execLastByteSent (p : Port) (s : State) : Host.Outcome State Fault Refusal :=
  .next (if s.isRunning ∧ (s.port p).tx = .sending then s.modPort p (·.sent) else s)

end Sys2Proof.Machine
end

