-- ==== Sys2Proof/Machine/Timers.lean ====
section
/-! DEFINITION. The 1 ms tick and the run-outs it leads to (R86 to R88, R169, R172), and the grant step as a command (R80).
A timer lowered to 0 has run out; its run-out is an event of its own, taken in the order of the commands (log entry 9). -/

namespace Sys2Proof.Machine

/-- The leases that have run out and whose expiry is still to be taken. -/
def State.dueLeases (s : State) : List (PageNo × Port) :=
  s.locks.flatMap fun l => (l.holders.filter (·.remaining == 0)).map fun h => (l.page, h.port)

/-- The waits that have run out and whose timeout is still to be taken. -/
def State.dueWaits (s : State) : List (PageNo × Port) :=
  s.locks.flatMap fun l => (l.waiters.filter (·.remaining == some 0)).map fun w => (l.page, w.port)

/-- The expiry of a lease, when it is due (R87). -/
def State.leaseRunOut (s : State) (q : PageNo) (p : Port) : State := if s.leaseDue q p then s.expireLease q p else s

/-- The timeout of a wait, when it is due (R88). -/
def State.waitRunOut (s : State) (q : PageNo) (p : Port) : State := if s.waitDue q p then s.timeOutWait q p else s

/-- The run-outs of a port's gap timer that are due. -/
def State.takeGapDue (s : State) (p : Port) : State := (s.gapRunOut p).resyncRunOut p

/-- The run-outs still due from the tick before, taken: a timer runs out on its tick and on no later one (R86, R169). -/
def State.takeDue (s : State) : State :=
  let s := [0, 1, 2, 3].foldl State.takeGapDue s
  let s := s.dueLeases.foldl (fun s x => s.leaseRunOut x.1 x.2) s
  s.dueWaits.foldl (fun s x => s.waitRunOut x.1 x.2) s

/-- Every lease, wait and gap timer lowered by 1 (R86, R169). -/
def State.lowerTimers (s : State) : State :=
  { s with ports := mapEach s.ports (fun _ c => { c with gap := c.gap.map (· - 1) }), locks := s.locks.map LockEntry.tick }

/-- TICK (R86, R169). Outside RUNNING no timer runs (R205). -/
def execTick (s : State) : Host.Outcome State Fault Refusal :=
  .next (if s.isRunning then s.takeDue.lowerTimers else s)

/-- LEASE_EXPIRY (R87). -/
def execLeaseExpiry (q : PageNo) (p : Port) (s : State) : Host.Outcome State Fault Refusal :=
  .next (if s.isRunning then s.leaseRunOut q p else s)

/-- WAIT_TIMEOUT (R88). -/
def execWaitTimeout (q : PageNo) (p : Port) (s : State) : Host.Outcome State Fault Refusal :=
  .next (if s.isRunning then s.waitRunOut q p else s)

/-- GRANT_STEP (R80); every removal runs it itself: log entry 10. -/
def execGrantStep (q : PageNo) (s : State) : Host.Outcome State Fault Refusal :=
  .next (if s.isRunning then s.grantStep q else s)

end Sys2Proof.Machine
end

