-- ==== Sys2Proof/Machine/Startup.lean ====
section
/-! DEFINITION. Power-on, the supply, the reset line and the entry to RUNNING
(11_start_up_reset_line_and_electrical_summary.md, and the values after reset of the other chapters). -/

namespace Sys2Proof.Machine

/-- A port that neither sends nor is inside a frame: outbound queue empty, receiver and transmitter as a break in force or
none leaves them (R182, R205). -/
def PortCtl.silence (c : PortCtl) : PortCtl :=
  { c with outbound := [], rx := if c.breakInForce then .resync else .hunt, gap := none,
           tx := if c.breakInForce then .stopped else .idle }

/-- Every table at its value after power-on, the pool zero (R27, R47, R72, R98, R121, R136, R162, R182, R192, R197). The
lines' breaks, the straps in force and the model's own fields are kept. -/
def State.powerOnTables (s : State) : State :=
  { State.reset with
    phase := s.phase, supplyGood := s.supplyGood, resetAsserted := s.resetAsserted, nextStart := s.nextStart,
    straps := s.straps, ports := mapEach s.ports (fun _ c => PortCtl.initial c.breakInForce),
    schedule := s.schedule, faults := s.faults, pending := s.pending }

/-- A bank with this retired count starts OFFLINE at the reset line (R28, R137). -/
def BankRec.startsOffline (b : BankRec) : Bool := Config.retireLimit ≤ b.retired

/-- A bank record after the reset line (Table 6-2). -/
def BankRec.afterResetLine (b : BankRec) : BankRec :=
  if b.startsOffline then
    { state := .offline, free := 0, allocated := 0, orphaned := 0, withheld := Config.bankPages - b.retired,
      retired := b.retired }
  else
    { state := .online, free := Config.bankPages - b.retired, allocated := 0, orphaned := 0, withheld := 0,
      retired := b.retired }

/-- A page record after the reset line, by its bank (R28). -/
def PageRec.afterResetLine (r : PageRec) (offline : Bool) : PageRec :=
  if r.state = .retired then { PageRec.free with state := .retired, poisoned := r.poisoned }
  else if offline then { PageRec.free with state := .withheld }
  else PageRec.free

/-- Every table at its value after the reset line; RETIRED pages, retired counts and pool bytes are kept, and so is the
operation a bank still carries (R28, R72, R137). -/
def State.resetLineTables (s : State) : State :=
  let pages := mapEach s.pages (fun q r => r.afterResetLine ((s.banks[q / Config.bankPages]?).any (·.startsOffline)))
  { s.powerOnTables with
    pages := pages
    freeList := indexesWhere pages fun _ r => r.state == .free
    banks := mapEach s.banks (fun _ b => b.afterResetLine)
    queues := s.queues
    pool := s.pool }

/-- What a bank keeps of its queue in RESET: the operation in progress, which it carries to its end; the operations behind it
are discarded unperformed (R72, R205, Table 11-1). The copy operation that R121 carries by R72 is one in progress; one that
waits is discarded with the others (log entry 25). -/
def carriedOps (ops : List StoreOp) : List StoreOp := ops.take 1

/-- What entering RESET does at once: transmitters stop, queues of messages are emptied, partial frames discarded, and each
bank keeps the operation in progress alone (R72, R121, R205). -/
def State.haltDevice (s : State) : State :=
  { s with
    phase := .reset, ports := mapEach s.ports (fun _ c => c.silence),
    queues := mapEach s.queues (fun _ ops => carriedOps ops) }

/-- POWER_ON (R203): the supply rises; with the reset line released the device enters CLEARING. -/
def execPowerOn (s : State) : Host.Outcome State Fault Refusal :=
  .next (if s.resetAsserted then { s.haltDevice with supplyGood := true, nextStart := .powerOn }
    else { s.powerOnTables with phase := .clearing, supplyGood := true, nextStart := .powerOn })

/-- SUPPLY_FAILS (R203): back to RESET, and the next start is a power-on. -/
def execSupplyFails (s : State) : Host.Outcome State Fault Refusal :=
  .next { s.haltDevice with supplyGood := false, nextStart := .powerOn }

/-- The kind of start that an assertion of the reset line in a phase leads to (R205): asserted in CLEARING the pool is only
partly cleared; asserted in RESET, the start under way keeps its kind (log entry 16). -/
def State.startAfterAssertion (s : State) : ResetKind :=
  match s.phase with
  | .running => .resetLine
  | .clearing => .powerOn
  | .reset => s.nextStart

/-- RESET_ASSERTED (R205); a second assertion while the line is held changes nothing. -/
def execResetAsserted (s : State) : Host.Outcome State Fault Refusal :=
  .next (if s.resetAsserted then s
    else { s.haltDevice with resetAsserted := true, nextStart := s.startAfterAssertion })

/-- RESET_RELEASED (R205): with the supply good, the tables are reinitialised for the reset line, or CLEARING begins. -/
def State.releaseReset (s : State) : State :=
  let s := { s with resetAsserted := false }
  if !s.supplyGood then s
  else
    match s.nextStart with
    | .resetLine => s.resetLineTables
    | .powerOn => { s.powerOnTables with phase := .clearing }

/-- RESET_RELEASED (R205). -/
def execResetReleased (s : State) : Host.Outcome State Fault Refusal :=
  .next (if s.resetAsserted then s.releaseReset else s)

/-- The device may enter RUNNING: CLEARING has ended, or the line was released after a RUNNING phase and every Bank Controller
has finished the operation it carried (R203, R205). -/
def State.mayRun (s : State) : Bool :=
  match s.phase with
  | .running => false
  | .clearing => true
  | .reset =>
    s.supplyGood && !s.resetAsserted && s.nextStart == .resetLine && (List.finRange 4).all fun b => (s.queue b).isEmpty

/-- Entry to RUNNING (R182, R203, R204, R206): the straps are read, every receiver and transmitter starts, and READY is
offered to every port. -/
def State.enterRunning (s : State) (straps : Vector Straps 4) : State :=
  [0, 1, 2, 3].foldl (fun s p => s.offer p (.ready s.nextStart))
    { s with phase := .running, straps := straps, ports := mapEach s.ports (fun _ c => c.silence) }

/-- RUNNING_ENTRY (R204), with the strap levels read at the entry. -/
def execRunningEntry (straps0 straps1 straps2 straps3 : Straps) (s : State) : Host.Outcome State Fault Refusal :=
  .next (if s.mayRun then s.enterRunning #v[straps0, straps1, straps2, straps3] else s)

end Sys2Proof.Machine
end

