-- ==== Sys2Proof/Machine/Dispatch.lean ====
section
/-! DEFINITION. The dispatch of commands to their meanings: one arm per constructor of Instr. -/

namespace Sys2Proof.Machine

def exec (i : Instr) (s : State) : Host.Outcome State Fault Refusal :=
  match i with
  | .openPort p t => Sys2Proof.Machine.execOpen p t s
  | .closePort p t => Sys2Proof.Machine.execClose p t s
  | .info p t => Sys2Proof.Machine.execInfo p t s
  | .claim p t => Sys2Proof.Machine.execClaim p t s
  | .handover p t target => Sys2Proof.Machine.execHandover p t target s
  | .alloc p t count => Sys2Proof.Machine.execAlloc p t count s
  | .free p t page => Sys2Proof.Machine.execFree p t page s
  | .grant p t page target right => Sys2Proof.Machine.execGrant p t page target right s
  | .pageQuery p t page => Sys2Proof.Machine.execPageQuery p t page s
  | .map p t set frame page access => Sys2Proof.Machine.execMap p t set frame page access s
  | .unmap p t set frame => Sys2Proof.Machine.execUnmap p t set frame s
  | .selectSet p t set => Sys2Proof.Machine.execSelect p t set s
  | .mapQuery p t set first count => Sys2Proof.Machine.execMapQuery p t set first count s
  | .read p t frame offset length => Sys2Proof.Machine.execRead p t frame offset length s
  | .write p t frame offset data => Sys2Proof.Machine.execWrite p t frame offset data s
  | .swap p t frame offset value => Sys2Proof.Machine.execSwap p t frame offset value s
  | .cas p t frame offset expected new => Sys2Proof.Machine.execCas p t frame offset expected new s
  | .add p t frame offset delta => Sys2Proof.Machine.execAdd p t frame offset delta s
  | .testclr p t frame offset bit => Sys2Proof.Machine.execTestclr p t frame offset bit s
  | .dectest p t frame offset => Sys2Proof.Machine.execDectest p t frame offset s
  | .acquire p t frame mode lease wait => Sys2Proof.Machine.execAcquire p t frame mode lease wait s
  | .release p t page => Sys2Proof.Machine.execRelease p t page s
  | .renew p t page lease => Sys2Proof.Machine.execRenew p t page lease s
  | .copy p t ss sf so ds df dOff n => Sys2Proof.Machine.execCopy p t ss sf so ds df dOff n s
  | .fill p t ds df dOff n pattern => Sys2Proof.Machine.execFill p t ds df dOff n pattern s
  | .cancel p t id => Sys2Proof.Machine.execCancel p t id s
  | .jobQuery p t id => Sys2Proof.Machine.execJobQuery p t id s
  | .configure p t mask gap lease limit q0 q1 q2 q3 => Sys2Proof.Machine.execConfigure p t mask gap lease limit q0 q1 q2 q3 s
  | .drain p t bank => Sys2Proof.Machine.execDrain p t bank s
  | .restore p t bank => Sys2Proof.Machine.execRestore p t bank s
  | .eject p t target => Sys2Proof.Machine.execEject p t target s
  | .poolQuery p t => Sys2Proof.Machine.execPoolQuery p t s
  | .byteReceived p b => Sys2Proof.Machine.execByteReceived p b s
  | .characterError p => Sys2Proof.Machine.execCharacterError p s
  | .breakBegins p => Sys2Proof.Machine.execBreakBegins p s
  | .breakEnds p => Sys2Proof.Machine.execBreakEnds p s
  | .gapTimerRunsOut p => Sys2Proof.Machine.execGapTimerRunsOut p s
  | .resyncEnd p => Sys2Proof.Machine.execResyncEnd p s
  | .lastByteSent p => Sys2Proof.Machine.execLastByteSent p s
  | .tick => Sys2Proof.Machine.execTick s
  | .leaseExpiry page p => Sys2Proof.Machine.execLeaseExpiry page p s
  | .waitTimeout page p => Sys2Proof.Machine.execWaitTimeout page p s
  | .grantStep page => Sys2Proof.Machine.execGrantStep page s
  | .accessCompletionGood b => Sys2Proof.Machine.execAccessCompletionGood b s
  | .accessCompletionUncorrectable b => Sys2Proof.Machine.execAccessCompletionUncorrectable b s
  | .switch p => Sys2Proof.Machine.execSwitch p s
  | .bankOffline b => Sys2Proof.Machine.execBankOffline b s
  | .jobChoice => Sys2Proof.Machine.execJobChoice s
  | .copyReadComplete b => Sys2Proof.Machine.execCopyReadComplete b s
  | .copyReadUncorrectable b => Sys2Proof.Machine.execCopyReadUncorrectable b s
  | .copyWriteComplete b => Sys2Proof.Machine.execCopyWriteComplete b s
  | .closedReached p => Sys2Proof.Machine.execClosedReached p s
  | .powerOn => Sys2Proof.Machine.execPowerOn s
  | .supplyFails => Sys2Proof.Machine.execSupplyFails s
  | .resetAsserted => Sys2Proof.Machine.execResetAsserted s
  | .resetReleased => Sys2Proof.Machine.execResetReleased s
  | .runningEntry straps0 straps1 straps2 straps3 => Sys2Proof.Machine.execRunningEntry straps0 straps1 straps2 straps3 s
  | .operationCarriedToEnd b outcome => Sys2Proof.Machine.execOperationCarriedToEnd b outcome s

end Sys2Proof.Machine
end

