-- ==== Sys2Proof/Safety.lean ====
section
/-! DEFINITION. What every state of the device must satisfy: the invariants of each block's tables, as the spec states them;
and the words in which the statements about commands are made. -/

namespace Sys2Proof.Machine

/-! ## The pool -/

/-- The pool's cells and its damaged words are in their one canonical form, so that equal pools are equal data. -/
def State.PoolCanonical (s : State) : Prop := s.pool.wf = true

/-! ## The Page Directory (R2, R3, R5, R9, R12, R122, R123) -/

/-- The number of pages of a bank in a state. -/
def State.pagesIn (s : State) (b : BankNo) (st : PageState) : Nat :=
  (Finset.univ.filter fun q : PageNo => bankOf q = b ∧ (s.page q).state = st).card

/-- The number of pages ALLOCATED to a port. -/
def State.pagesOwned (s : State) (p : Port) : Nat :=
  (Finset.univ.filter fun q : PageNo => (s.page q).state = .allocated ∧ (s.page q).owner = some p).card

/-- A page in use: ALLOCATED or ORPHANED. -/
def PageRec.inUse (r : PageRec) : Prop := r.state = .allocated ∨ r.state = .orphaned

/-- The Page Directory's tables agree with one another. -/
structure State.DirectorySound (s : State) : Prop where
  /-- The free list holds each FREE page exactly once and no other page (R3). -/
  freeOnce : s.freeList.Nodup
  freeExactly : ∀ q, q ∈ s.freeList ↔ (s.page q).state = .free
  /-- A bank record counts its pages in each state (R9, R122). -/
  bankFree : ∀ b, (s.bank b).free = s.pagesIn b .free
  bankAllocated : ∀ b, (s.bank b).allocated = s.pagesIn b .allocated
  bankOrphaned : ∀ b, (s.bank b).orphaned = s.pagesIn b .orphaned
  bankWithheld : ∀ b, (s.bank b).withheld = s.pagesIn b .withheld
  bankRetired : ∀ b, (s.bank b).retired = s.pagesIn b .retired
  /-- An owned count is the number of pages ALLOCATED to the port (R5). -/
  ownedCounts : ∀ p, s.ownedBy p = s.pagesOwned p
  /-- An owned count never exceeds the quota in force (R5). -/
  quota : ∀ p, s.ownedBy p ≤ s.config.quota[p]
  /-- A page has an owner exactly while it is ALLOCATED, and grants only while it is in use (R1, R2). -/
  owner : ∀ q, (s.page q).owner ≠ none ↔ (s.page q).state = .allocated
  grants : ∀ q, ¬ (s.page q).inUse → (s.page q).grants = noGrants
  /-- Which pages each bank state allows (R123). -/
  onlineBank : ∀ q, (s.bank (bankOf q)).state = .online → (s.page q).state ≠ .withheld
  drainedBank : ∀ q, (s.bank (bankOf q)).state ≠ .online → (s.page q).state ≠ .free
  offlineBank : ∀ q, (s.bank (bankOf q)).state = .offline → ¬ (s.page q).inUse

/-- The poisoned marks agree with the page states: a page that waits on the free list or in a drained bank bears none, and a
RETIRED page bears one (R131 to R133). -/
structure State.MarksSound (s : State) : Prop where
  unmarked : ∀ q, (s.page q).state = .free ∨ (s.page q).state = .withheld → (s.page q).poisoned = false
  retired : ∀ q, (s.page q).state = .retired → (s.page q).poisoned = true

/-! ## The Frame Map Unit (R6, R12) -/

/-- The number of enabled entries, in all eight map sets, that name a page. -/
def State.entriesNaming (s : State) (q : PageNo) : Nat :=
  (Finset.univ.filter fun x : Port × FrameNo => names q ((s.map x.1).setA[x.2])).card +
    (Finset.univ.filter fun x : Port × FrameNo => names q ((s.map x.1).setB[x.2])).card

/-- Every map count is the number of entries naming the page (R6), and no entry names a page that is not in use (R12). -/
def State.MapCountsExact (s : State) : Prop :=
  ∀ q, (s.page q).mapCount = s.entriesNaming q ∧ (¬ (s.page q).inUse → (s.page q).mapCount = 0)

/-! ## The pins (R7, R8, R12) -/

/-- The accesses in flight on a page, and its places in the lists of the jobs in the copy queue. -/
def State.usesOf (s : State) (q : PageNo) : Nat :=
  (s.accesses.filter (·.page == q)).length + (s.jobs.flatMap Job.pages).count q

/-- Every pin count is the accesses in flight on the page and its places in the jobs' lists. -/
structure State.PinCountsExact (s : State) : Prop where
  pins : ∀ q, (s.page q).pinCount = s.usesOf q
  /-- A page that is not in use has pin count 0 and no lock entry (R12). -/
  unused : ∀ q, ¬ (s.page q).inUse → (s.page q).pinCount = 0 ∧ s.lockOf q = none
  /-- A page is ORPHANED only while a count of it is above 0 (R8). -/
  orphaned : ∀ q, (s.page q).state = .orphaned → (s.page q).mapCount ≠ 0 ∨ (s.page q).pinCount ≠ 0

/-! ## Start-up and reset (R203, R205) -/

/-- The device is in RESET while the reset line is asserted or the supply is down. -/
structure State.PhaseSound (s : State) : Prop where
  line : s.resetAsserted = true → s.phase = .reset
  supply : s.supplyGood = false → s.phase = .reset

/-! ## The Port Controllers (R147, R175, R179) -/

/-- An event that counts among the twelve of R175: every event but SESSION-END. -/
def Message.isCountedEvent : Message → Bool
  | .reply _ _ _ _ => false
  | .event (.sessionEnd _) => false
  | .event (.ready _) | .event (.rejected _) | .event (.overflow _) | .event (.mapChanged _ _) | .event (.leaseLost _)
  | .event (.jobEnd _ _ _) | .event (.bankState _ _ _) | .event .roleGained | .event (.portDown _ _) => true

/-- A Port Controller keeps its bounds: four slots with distinct tags (R147), sixteen messages, twelve of them events, and
the lost count (R175). -/
structure PortCtl.Bounded (c : PortCtl) : Prop where
  slots : c.slots.length ≤ Config.slotPlaces
  tags : (c.slots.map (·.tag)).Nodup
  messages : c.outbound.length ≤ Config.queuePlaces
  events : (c.outbound.filter Message.isCountedEvent).length ≤ Config.eventPlaces
  lost : c.lost ≤ Config.lostMax

/-- Every Port Controller keeps its bounds. -/
def State.PortsBounded (s : State) : Prop := ∀ p, (s.port p).Bounded

/-- The transmitter's state follows the line and the queue (R179, R180): STOPPED exactly while a break is in force, SENDING
only with a message to send, IDLE only with none. -/
structure PortCtl.TransmitterFollows (c : PortCtl) : Prop where
  stopped : c.tx = .stopped ↔ c.breakInForce = true
  sending : c.tx = .sending → c.outbound ≠ []
  idle : c.tx = .idle → c.outbound = []

/-- While the device is RUNNING, every transmitter follows its line and its queue. -/
def State.TransmittersFollow (s : State) : Prop := s.phase = .running → ∀ p, (s.port p).TransmitterFollows

/-! ## The Supervisor Unit (R192) -/

/-- When the role is held, it is held by a port that is OPEN. -/
def State.HolderOpen (s : State) : Prop := ∀ p, s.role = some p → (s.port p).session = .opened

/-! ## The Lock Unit (R73 to R76) -/

/-- A lock entry is as R76 states: a record at least, no port twice, an EXCLUSIVE holder alone, a holder wherever a port
waits, and a head waiter that cannot be granted. -/
structure LockEntry.Sound (l : LockEntry) : Prop where
  notEmpty : l.isEmpty = false
  portsOnce : (l.holders.map (·.port) ++ l.waiters.map (·.port)).Nodup
  exclusive : ∀ h ∈ l.holders, h.mode = .exclusive → l.holders = [h]
  held : l.waiters ≠ [] → l.holders ≠ []
  /-- The head waiter cannot be granted: a SHARED one has an EXCLUSIVE holder before it, an EXCLUSIVE one any holder. -/
  head : ∀ w ws, l.waiters = w :: ws → w.mode = .shared → ∃ h ∈ l.holders, h.mode = .exclusive

/-- The lock table is as R73 states: at most 32 entries, no two of one page, each sound. -/
structure State.LockTableSound (s : State) : Prop where
  places : s.locks.length ≤ Config.lockPlaces
  pagesOnce : (s.locks.map (·.page)).Nodup
  entries : ∀ l ∈ s.locks, l.Sound

/-! ## The Copy Engine (R99, R101) -/

/-- The copy queue is as R99 states: at most eight jobs, three of one port, one ACTIVE, and no id twice. -/
structure State.JobQueueSound (s : State) : Prop where
  jobs : s.jobs.length ≤ Config.jobPlaces
  perPort : ∀ p, (s.jobs.filter (·.port == p)).length ≤ Config.jobsPerPort
  idsOnce : (s.jobs.map (·.id)).Nodup
  active : (s.jobs.filter (·.state == .active)).length ≤ 1

/-! ## Work in flight: in-flight records, bank queues and the outstanding operation of the ACTIVE job -/

/-- The store operation of an in-flight access (R53, R63). -/
def AccessRec.op (r : AccessRec) : StoreOp :=
  { origin := .access r.port r.tag, kind := r.kind, page := r.page, offset := r.offset }

/-- A job's record agrees with its request (R100 to R104): its lists have one place for each frame a range touches, and it is in
the copy queue only while bytes are left to move. -/
structure Job.Sound (j : Job) : Prop where
  length : 1 ≤ j.length ∧ j.length ≤ 65536
  bytesLeft : j.bytesDone < j.length
  queued : j.state = .queued → j.bytesDone = 0 ∧ j.cancel = false
  destination : j.dstStart < 4096 ∧ j.dstPages.length = (j.dstStart + j.length - 1) / 4096 + 1
  source : ∀ set pages start, j.kind = .copy set pages start →
    start < 4096 ∧ pages.length = (start + j.length - 1) / 4096 + 1
  words : ∀ pattern, j.kind = .fill pattern → j.dstStart % 4 = 0 ∧ j.length % 4 = 0

/-- The operation is the one that an ACTIVE job's segment has outstanding (R109, R110): its read, or its write. -/
def Job.HasOutstanding (j : Job) (op : StoreOp) : Prop :=
  op.origin = .copy j.id ∧
    (op.kind = .read j.segmentLength ∧ j.srcAt = some (op.page, op.offset) ∨
      ∃ data, op.kind = .write data ∧ data.length = j.segmentLength ∧ j.dstAt = some (op.page, op.offset))

/-- The copy operations in the four bank queues. -/
def State.copyOps (s : State) : List StoreOp :=
  (s.queue 0 ++ s.queue 1 ++ s.queue 2 ++ s.queue 3).filter StoreOp.isCopy

/-- A start of the device is under way that has given the tables their values: CLEARING, or RESET after the reset line. -/
def State.Starting (s : State) : Prop :=
  s.phase = .clearing ∨ s.phase = .reset ∧ s.supplyGood = true ∧ s.resetAsserted = false ∧ s.nextStart = .resetLine

/-- In-flight records, in-flight counts, bank queues and jobs agree with one another. -/
structure State.WorkSound (s : State) : Prop where
  /-- An operation lies in one page of its queue's bank (R63). -/
  inPage : ∀ b, ∀ op ∈ s.queue b, bankOf op.page = b ∧ op.offset + op.kind.size ≤ 4096
  /-- Both in-flight counts of a port are the number of its records, and no two records bear one tag (R40, R54, R138). -/
  counts : ∀ p, (s.port p).inFlight = (s.accesses.filter (·.port == p)).length ∧
    (s.map p).inFlight = (s.accesses.filter (·.port == p)).length
  recordsOnce : (s.accesses.map fun r => (r.port, r.tag)).Nodup
  jobs : ∀ j ∈ s.jobs, j.Sound
  /-- While the queue holds a job, one is ACTIVE (R107). -/
  active : s.jobs ≠ [] → ∃ j ∈ s.jobs, j.state = .active
  /-- In RUNNING each bank holds one operation for each in-flight record of its pages, in order of placement (R63, R67). -/
  accessOps : s.phase = .running → ∀ b,
    (s.queue b).filter (fun op => !op.isCopy) = (s.accesses.filter fun r => bankOf r.page == b).map AccessRec.op
  /-- In RUNNING the ACTIVE job has exactly one operation outstanding, and no other job has one (R64, R111). -/
  copyOps : s.phase = .running →
    (s.jobs = [] → s.copyOps = []) ∧ ∀ j ∈ s.jobs, j.state = .active → ∃ op, s.copyOps = [op] ∧ j.HasOutstanding op
  /-- A start leaves no work behind it (R72, R121). -/
  starting : s.Starting → s.accesses = [] ∧ s.jobs = [] ∧ (s.phase = .clearing → ∀ b, s.queue b = [])

/-! ## Sessions and slots (R138, R148, R155) -/

/-- What a session's state says of the other tables. -/
structure State.SessionsSound (s : State) : Prop where
  /-- A close reason is present exactly in CLOSING (R138). -/
  reason : ∀ p, (s.port p).closeReason ≠ none ↔ (s.port p).session = .closing
  /-- CLOSING lasts while an access is in flight or a job of the port is ACTIVE (R155). -/
  closing : ∀ p, (s.port p).session = .closing → (s.port p).inFlight ≠ 0 ∨ (s.port p).activeJob = true
  activeJob : ∀ p, (s.port p).activeJob = true ↔
    (s.port p).session = .closing ∧ ∃ j ∈ s.jobs, j.state = .active ∧ j.port = p
  /-- A port that is not OPEN has no entry, selection, lock record, QUEUED job, page or grant (R154). -/
  notOpen : ∀ p, (s.port p).session ≠ .opened →
    (∀ set f, s.resolve p set f = none) ∧ (s.map p).present = .a ∧ (s.map p).pendingSet = none ∧
      (∀ l ∈ s.locks, l.holds p = false ∧ l.waits p = false) ∧
      (∀ j ∈ s.jobs, j.port = p → j.state = .active ∧ j.cancel = true) ∧ s.ownedBy p = 0 ∧
      ∀ q, (s.page q).inUse → (s.page q).grants[p] = .none
  /-- A CLOSED port has no access in flight, no job and no occupied slot (R148, R155). -/
  closed : ∀ p, (s.port p).session = .closed →
    (s.port p).inFlight = 0 ∧ (s.port p).slots = [] ∧ ∀ j ∈ s.jobs, j.port ≠ p

/-- The WAITING slots are those of the waiter records (R83, R148). -/
structure State.WaitersSound (s : State) : Prop where
  waiting : ∀ p, ∀ x ∈ (s.port p).slots, x.state = .waiting → ∃ l ∈ s.locks, ∃ w ∈ l.waiters, w.port = p ∧ w.tag = x.tag
  slot : ∀ l ∈ s.locks, ∀ w ∈ l.waiters, ∃ x ∈ (s.port w.port).slots, x.tag = w.tag ∧ x.state = .waiting
  tagsOnce : (s.locks.flatMap fun l => l.waiters.map fun w => (w.port, w.tag)).Nodup

/-- What an occupied slot holds at rest (R148). -/
structure State.SlotsSound (s : State) : Prop where
  /-- A HELD slot holds a request behind a pending SELECT (R42). -/
  held : ∀ p, ∀ x ∈ (s.port p).slots, x.state = .held → (s.map p).pendingSet ≠ none ∧ x.request.isHeld = true
  /-- An IN-FLIGHT slot holds an access in flight, the deferred SELECT, or the CLOSE that awaits CLOSED. -/
  inFlight : ∀ p, ∀ x ∈ (s.port p).slots, x.state = .inFlight →
    (∃ r ∈ s.accesses, r.port = p ∧ r.tag = x.tag ∧ ∃ f o, x.request = .access f o r.kind ∧ r.offset = o.toNat) ∨
      (∃ set, x.request = .selectSet set ∧ (s.map p).pendingSet = some set) ∨
      x.request = .closeSession ∧ (s.port p).closeReason = some .closed
  /-- Each in-flight record has its slot (R54). -/
  records : ∀ r ∈ s.accesses, ∃ x ∈ (s.port r.port).slots, x.tag = r.tag ∧ x.state = .inFlight
  /-- A pending SELECT has one slot, and waits for an access in flight (R41, R43). -/
  select : ∀ p, (s.map p).pendingSet ≠ none → (s.map p).inFlight ≠ 0 ∧ ∃ x ∈ (s.port p).slots,
    (∃ set, x.request = .selectSet set) ∧ ∀ y ∈ (s.port p).slots, (∃ set, y.request = .selectSet set) → y = x
  /-- A port that closes by request has the slot of its CLOSE, and one alone (R153, R155). -/
  close : ∀ p, (s.port p).closeReason = some .closed → ∃ x ∈ (s.port p).slots,
    x.request = .closeSession ∧ ∀ y ∈ (s.port p).slots, y.request = .closeSession → y = x

/-! ## All of them -/

/-- Every invariant of the device. -/
structure State.Sound (s : State) : Prop where
  phase : s.PhaseSound
  pool : s.PoolCanonical
  directory : s.DirectorySound
  marks : s.MarksSound
  mapCounts : s.MapCountsExact
  pinCounts : s.PinCountsExact
  ports : s.PortsBounded
  transmitters : s.TransmittersFollow
  holder : s.HolderOpen
  locks : s.LockTableSound
  jobs : s.JobQueueSound
  work : s.WorkSound
  sessions : s.SessionsSound
  waiters : s.WaitersSound
  slots : s.SlotsSound

/-! ## The words of the statements: requests and replies -/

/-- A port's request reaches the port-level checks: the device is RUNNING and no break is in force on the line (R163, R203). -/
structure State.Hears (s : State) (p : Port) : Prop where
  running : s.phase = .running
  line : (s.port p).breakInForce = false

/-- A request of a port that bears a tag passes checks 3 to 5 (R143, R144). -/
structure State.Takes (s : State) (p : Port) (t : Tag) : Prop where
  hears : s.Hears p
  opened : (s.port p).session = .opened
  tagFree : ∀ x ∈ (s.port p).slots, x.tag ≠ t
  slotFree : (s.port p).slots.length < 4

/-- A request of a port that bears a tag is taken and handed to its unit whatever it is: no SELECT is pending (R42). -/
structure State.TakesAtOnce (s : State) (p : Port) (t : Tag) : Prop extends s.Takes p t where
  noSelect : (s.map p).pendingSet = none

/-- The state with a reply offered to a port, under the reply admission rule (R176). -/
def State.reply (s : State) (p : Port) (t : Tag) (code : Byte) (st : Status) (pay : Payload := .none) : State :=
  s.modPort p (·.offerReply t code st pay)

/-- The state with a request in a slot of its port (R147). -/
def State.withSlot (s : State) (p : Port) (t : Tag) (r : Request) (st : SlotState) : State :=
  s.modPort p fun c => { c with slots := c.slots ++ [{ tag := t, request := r, state := st }] }

/-- A page is ALLOCATED and its owner is the port. -/
def State.Owns (s : State) (p : Port) (q : PageNo) : Prop := (s.page q).state = .allocated ∧ (s.page q).owner = some p

/-- The body length each request code requires, in header and fields, least and most (Table 9-1). -/
def requestLengths : List (Nat × Nat × Nat) :=
  [(0x01, 2, 2), (0x02, 2, 2), (0x03, 2, 2), (0x04, 2, 2), (0x05, 3, 3), (0x10, 3, 3), (0x11, 4, 4), (0x12, 6, 6),
   (0x13, 4, 4), (0x20, 7, 7), (0x21, 4, 4), (0x22, 3, 3), (0x23, 5, 5), (0x30, 6, 6), (0x31, 5, 245), (0x32, 9, 9),
   (0x33, 13, 13), (0x34, 9, 9), (0x35, 6, 6), (0x36, 5, 5), (0x40, 8, 8), (0x41, 4, 4), (0x42, 6, 6), (0x50, 14, 14),
   (0x51, 14, 14), (0x52, 3, 3), (0x53, 3, 3), (0x60, 3, 15), (0x61, 3, 3), (0x62, 3, 3), (0x63, 3, 3), (0x64, 2, 2)]

/-- The bytes of the fields a presence mask names (R190). -/
def configureWidth (mask : Byte) : Nat :=
  (if mask.getLsbD 0 then 1 else 0) + (if mask.getLsbD 1 then 2 else 0) + (if mask.getLsbD 2 then 1 else 0) +
    (if mask.getLsbD 3 then 2 else 0) + (if mask.getLsbD 4 then 2 else 0) + (if mask.getLsbD 5 then 2 else 0) +
    (if mask.getLsbD 6 then 2 else 0)

/-! ## The words of the statements: accesses -/

/-- The seven access commands, with the store operation each asks for (Table 3-1). A WRITE of more than 240 bytes is
BAD-FORM (R142) and no access. -/
inductive AccessCommand : Instr → Port → Tag → Byte → Half → StoreKind → Prop
  | read (p : Port) (t : Tag) (f : Byte) (o : Half) (n : Byte) : AccessCommand (.read p t f o n) p t f o (.read n.toNat)
  | write (p : Port) (t : Tag) (f : Byte) (o : Half) (d : List Byte) (short : d.length ≤ 240) :
      AccessCommand (.write p t f o d) p t f o (.write d)
  | swap (p : Port) (t : Tag) (f : Byte) (o : Half) (v : Word) :
      AccessCommand (.swap p t f o v) p t f o (.readThenWrite (.swap v))
  | cas (p : Port) (t : Tag) (f : Byte) (o : Half) (e n : Word) :
      AccessCommand (.cas p t f o e n) p t f o (.readThenWrite (.cas e n))
  | add (p : Port) (t : Tag) (f : Byte) (o : Half) (d : Word) :
      AccessCommand (.add p t f o d) p t f o (.readThenWrite (.add d))
  | testclr (p : Port) (t : Tag) (f : Byte) (o : Half) (b : Byte) :
      AccessCommand (.testclr p t f o b) p t f o (.readThenWrite (.testclr b.toNat))
  | dectest (p : Port) (t : Tag) (f : Byte) (o : Half) : AccessCommand (.dectest p t f o) p t f o (.readThenWrite .dectest)

/-- The numbers of an access are in range (R49). -/
def AccessInRange (frame : Byte) (offset : Half) (kind : StoreKind) : Prop :=
  frame.toNat < 64 ∧ offset.toNat < 4096 ∧
    match kind with
    | .read n => 1 ≤ n ∧ n ≤ 240 ∧ offset.toNat + n ≤ 4096
    | .write data => 1 ≤ data.length ∧ data.length ≤ 240 ∧ offset.toNat + data.length ≤ 4096
    | .readThenWrite op =>
      offset.toNat % 4 = 0 ∧
        match op with
        | .testclr bit => bit < 32
        | .swap _ | .cas _ _ | .add _ | .dectest => True

/-- The page has a holder and the port is not one (R52). -/
def State.LockedAgainst (s : State) (q : PageNo) (p : Port) : Prop :=
  ∃ l, s.lockOf q = some l ∧ l.holders ≠ [] ∧ ∀ h ∈ l.holders, h.port ≠ p

/-- A claim that lowers a count of a page by 1 releases nothing: the page is not ORPHANED, or a use of it is left (R8). -/
def State.SurvivesUnpin (s : State) (q : PageNo) : Prop :=
  (s.page q).state ≠ .orphaned ∨ (s.page q).mapCount ≠ 0 ∨ 1 < (s.page q).pinCount

/-- As SurvivesUnpin, for the map count. -/
def State.SurvivesUnmap (s : State) (q : PageNo) : Prop :=
  (s.page q).state ≠ .orphaned ∨ 1 < (s.page q).mapCount ∨ (s.page q).pinCount ≠ 0

/-! ## The words of the statements: jobs -/

/-- The numbers of a COPY's or a FILL's range are in range (R102, R103). -/
def RangeInWindow (frame : Byte) (offset : Half) (length : Word) : Prop :=
  frame.toNat < 64 ∧ offset.toNat < 4096 ∧ 1 ≤ length.toNat ∧ length.toNat ≤ 65536 ∧
    frame.toNat * 4096 + offset.toNat + length.toNat ≤ 262144

/-- A range of a set resolves to these entries: one for each frame it touches, in window order (R104). -/
def State.RangeResolves (s : State) (p : Port) (set : MapSet) (frame : Byte) (offset : Half) (length : Word)
    (es : List Entry) : Prop :=
  es.length = (offset.toNat + length.toNat - 1) / 4096 + 1 ∧
    ∀ i (h : i < es.length), ∃ f : FrameNo, f.val = frame.toNat + i ∧ s.resolve p set f = some es[i]

/-- A source and a destination of n bytes share a pool byte (R105): a position of each at one offset of one page. -/
def SharePoolByte (src : List PageNo) (srcStart : Nat) (dst : List PageNo) (dstStart n : Nat) : Prop :=
  ∃ i j, i < n ∧ j < n ∧ (∃ q, src[(srcStart + i) / 4096]? = some q ∧ dst[(dstStart + j) / 4096]? = some q) ∧
    (srcStart + i) % 4096 = (dstStart + j) % 4096

/-- No room in the copy queue for another job of the port (R102 check 5, R103 check 4). -/
def State.QueueFull (s : State) (p : Port) : Prop :=
  8 ≤ s.jobs.length ∨ 3 ≤ (s.jobs.filter (·.port == p)).length

/-- The id a job accepted now is given (R101): the first from the counter on that no job of the queue bears. -/
def State.GivesId (s : State) (id : Byte) : Prop :=
  (∀ j ∈ s.jobs, j.id ≠ id) ∧ ∃ k : Nat, id = s.nextJobId + BitVec.ofNat 8 k ∧ k < 8 ∧
    ∀ i < k, ∃ j ∈ s.jobs, j.id = s.nextJobId + BitVec.ofNat 8 i

/-- The job the choice takes (R107): the oldest QUEUED job of the first port after the last-served one that has any. -/
def State.Chooses (s : State) (j : Job) : Prop :=
  j.state = .queued ∧ (∃ older younger, s.jobs = older ++ j :: younger ∧ ∀ x ∈ older, ¬ (x.port = j.port ∧ x.state = .queued)) ∧
    ∃ k : Fin 4, j.port = s.lastServed + 1 + k ∧ ∀ i < k, ∀ x ∈ s.jobs, ¬ (x.port = s.lastServed + 1 + i ∧ x.state = .queued)

/-- A job accepted with these lists, before its pins and its reply (R100, R106). -/
def newJob (id : Byte) (p : Port) (kind : JobKind) (dstSet : MapSet) (dstPages : List PageNo) (dstStart length : Nat) : Job :=
  { id := id, port := p, kind := kind, dstSet := dstSet, dstPages := dstPages, dstStart := dstStart, length := length,
    bytesDone := 0, state := .queued, cancel := false }

/-- The state with a job accepted (R106 steps 1 to 3). -/
def State.accepted (s : State) (p : Port) (t : Tag) (code : Byte) (j : Job) : State :=
  (j.pages.foldl (fun (s : State) q => s.modPage q fun r => { r with pinCount := r.pinCount + 1 })
    { s with jobs := s.jobs ++ [j], nextJobId := j.id + 1 }).reply p t code .ok (.jobId j.id)

/-! ## The words of the statements: start-up and the end of a session -/

/-- A Port Controller right after a reset (R162, R182), before READY. -/
structure PortCtl.Fresh (c : PortCtl) : Prop where
  session : c.session = .closed
  closeReason : c.closeReason = none
  inFlight : c.inFlight = 0
  activeJob : c.activeJob = false
  slots : c.slots = []
  outbound : c.outbound = []
  lost : c.lost = 0
  gap : c.gap = none
  rx : c.rx = if c.breakInForce then .resync else .hunt
  tx : c.tx = if c.breakInForce then .stopped else .idle

/-- The tables that take the same values after a power-on and after the reset line (R47, R98, R121, R162, R192, R197). -/
structure State.FreshTables (s : State) : Prop where
  ports : ∀ p, (s.port p).Fresh
  entries : ∀ p set f, s.resolve p set f = none
  selection : ∀ p, (s.map p).present = .a ∧ (s.map p).pendingSet = none ∧ (s.map p).inFlight = 0
  accesses : s.accesses = []
  owned : ∀ p, s.ownedBy p = 0
  locks : s.locks = []
  jobs : s.jobs = []
  lastServed : s.lastServed = 3
  nextJobId : s.nextJobId = 0
  role : s.role = none
  config : s.config = { gapTime := 10, defaultLease := 1000, retireLimit := 8, quota := #v[512, 512, 512, 512] }

/-- The Page Directory and the pool after a power-on (R27, R136). -/
structure State.FreshPool (s : State) : Prop where
  pages : ∀ q, s.page q =
    { state := .free, owner := none, grants := noGrants, mapCount := 0, pinCount := 0, poisoned := false }
  freeList : s.freeList = List.finRange 2048
  banks : ∀ b, s.bank b = { state := .online, free := 512, allocated := 0, orphaned := 0, withheld := 0, retired := 0 }
  pool : ∀ a, s.pool.byte a = 0
  checks : s.pool.damage = []
  queues : ∀ b, s.queue b = []

/-- A command that has an effect outside RUNNING: a break and the commands of start-up and reset. -/
inductive StartUpCommand : Instr → Prop
  | breakBegins (p : Port) : StartUpCommand (.breakBegins p)
  | breakEnds (p : Port) : StartUpCommand (.breakEnds p)
  | powerOn : StartUpCommand .powerOn
  | supplyFails : StartUpCommand .supplyFails
  | resetAsserted : StartUpCommand .resetAsserted
  | resetReleased : StartUpCommand .resetReleased
  | runningEntry (a b c d : Straps) : StartUpCommand (.runningEntry a b c d)
  | operationCarriedToEnd (b : BankNo) (o : StoreOutcome) : StartUpCommand (.operationCarriedToEnd b o)

/-- What RESET leaves of a device at once (R72, R121, R205): the lines silent, each bank with the operation in progress
alone, also where a copy operation waits behind it (log entry 25). -/
structure State.HaltedFrom (u s : State) : Prop where
  phase : u.phase = .reset
  ports : ∀ p, u.port p =
    { s.port p with
      outbound := [], rx := if (s.port p).breakInForce then .resync else .hunt, gap := none,
      tx := if (s.port p).breakInForce then .stopped else .idle }
  queues : ∀ b, u.queue b = (s.queue b).take 1
  rest : u = { s with phase := u.phase, ports := u.ports, queues := u.queues, supplyGood := u.supplyGood,
                      resetAsserted := u.resetAsserted, nextStart := u.nextStart }

/-- What the teardown of a port leaves of a state s (R24 to R26, R46, R97, R120, R154, R196). -/
structure State.TornDown (u s : State) (p : Port) : Prop where
  /-- Nothing of the port is left in any table but its accesses in flight and its ACTIVE job, marked for cancellation. -/
  session : (u.port p).session ≠ .opened
  lost : (u.port p).lost = 0
  slots : ∀ x ∈ (u.port p).slots, x ∈ (s.port p).slots ∧ x.state = .inFlight ∧ ∀ set, x.request ≠ .selectSet set
  role : u.role = if s.role = some p then none else s.role
  entries : ∀ set f, u.resolve p set f = none
  selection : (u.map p).present = .a ∧ (u.map p).pendingSet = none
  locks : ∀ l ∈ u.locks, l.holds p = false ∧ l.waits p = false
  jobs : u.jobs = (s.jobs.filter fun j => !(j.port == p && j.state == .queued)).map fun j =>
    if j.port = p then { j with cancel := true } else j
  owned : ∀ x, u.ownedBy x = if x = p then 0 else s.ownedBy x
  /-- A page of the port, or an ORPHANED one, is released when no other use of it is left, and otherwise is ORPHANED with the
  other ports' grants (R8, R25); a page of another port stays its own; the port's grants are cleared (R26). -/
  counts : ∀ q, (u.page q).mapCount = u.entriesNaming q ∧ (u.page q).pinCount = u.usesOf q
  released : ∀ q, (s.Owns p q ∨ (s.page q).state = .orphaned) → u.entriesNaming q = 0 → u.usesOf q = 0 →
    ¬ (u.page q).inUse ∧ ((u.page q).state = .retired ↔ (s.page q).poisoned = true)
  orphaned : ∀ q, (s.Owns p q ∨ (s.page q).state = .orphaned) → (u.entriesNaming q ≠ 0 ∨ u.usesOf q ≠ 0) → u.page q =
    { s.page q with state := .orphaned, owner := none, grants := (s.page q).grants.set p .none,
                    mapCount := u.entriesNaming q, pinCount := u.usesOf q }
  others : ∀ q x, x ≠ p → s.Owns x q → u.page q =
    { s.page q with grants := (s.page q).grants.set p .none, mapCount := u.entriesNaming q, pinCount := u.usesOf q }
  unused : ∀ q, ¬ (s.page q).inUse → ¬ (u.page q).inUse
  /-- The other ports' entries, sessions, slots and lock records stand, but for a waiter that is granted, or whose entry is
  dissolved with its page's release, in the step (R11, R80, R97). -/
  otherMaps : ∀ y, y ≠ p → u.map y = s.map y
  otherPorts : ∀ y, y ≠ p → u.port y =
    { s.port y with slots := (u.port y).slots, outbound := (u.port y).outbound, lost := (u.port y).lost, tx := (u.port y).tx }
  otherSlots : ∀ y, y ≠ p → ∀ x, x ∈ (u.port y).slots ↔ x ∈ (s.port y).slots ∧
    (x.state = .waiting → ∃ l ∈ u.locks, ∃ w ∈ l.waiters, w.port = y ∧ w.tag = x.tag)
  otherHolders : ∀ q l, s.lockOf q = some l → (u.page q).inUse → ∀ h ∈ l.holders, h.port ≠ p →
    ∃ l', u.lockOf q = some l' ∧ h ∈ l'.holders
  otherWaiters : ∀ q l, s.lockOf q = some l → (u.page q).inUse → ∀ w ∈ l.waiters, w.port ≠ p →
    ∃ l', u.lockOf q = some l' ∧ (w ∈ l'.waiters ∨ l'.holds w.port = true)
  /-- The port's own receiver and in-flight counts stand, and its accesses in flight keep their slots (R46, R155, R162). -/
  ownPort : u.port p =
    { s.port p with session := (u.port p).session, closeReason := (u.port p).closeReason, activeJob := (u.port p).activeJob,
                    slots := (u.port p).slots, outbound := (u.port p).outbound, lost := (u.port p).lost, tx := (u.port p).tx }
  ownCount : (u.map p).inFlight = (s.map p).inFlight
  ownSlots : ∀ x ∈ (s.port p).slots, x.state = .inFlight → (∀ set, x.request ≠ .selectSet set) →
    (x.request = .closeSession → (u.port p).session = .closing) → x ∈ (u.port p).slots
  ownLine : (u.port p).tx =
    if (s.port p).tx = .idle ∧ (u.port p).outbound ≠ (s.port p).outbound then .sending else (s.port p).tx
  /-- The rest of the device stands as before. -/
  frame : u = { s with ports := u.ports, pages := u.pages, freeList := u.freeList, owned := u.owned, banks := u.banks,
                       maps := u.maps, locks := u.locks, jobs := u.jobs, role := u.role, schedule := u.schedule }

/-- A run of commands, one after another; every one of them answers a next state. -/
def runAll : List Instr → State → Host.Outcome State Fault Refusal
  | [], s => .next s
  | c :: cs, s =>
    match exec c s with
    | .next u => runAll cs u
    | .fault r => .fault r
    | .refused r => .refused r

end Sys2Proof.Machine
end

