-- ==== Sys2Proof/WellFormed.lean ====
section
/-! DEFINITION. Which commands the outside can send: those whose operands fit the message that carries them. -/

namespace Sys2Proof

/-- A field CONFIGURE's mask does not name is not carried: the command gives it as 0 (R190). -/
def unnamedZero {n : Nat} (mask : Byte) (bit : Nat) (field : BitVec n) : Bool :=
  mask.getLsbD bit || field == 0

/-- A command the outside can send. A body is at most 252 bytes (R183), so a WRITE carries at most 247 data bytes; a
CONFIGURE carries the fields its mask names and no other. Every other operand fits by its type. -/
def Instr.wellFormed : Instr → Bool
  | .write _ _ _ _ data => data.length ≤ 247
  | .configure _ _ mask gap lease limit q0 q1 q2 q3 =>
    unnamedZero mask 0 gap && unnamedZero mask 1 lease && unnamedZero mask 2 limit && unnamedZero mask 3 q0 &&
      unnamedZero mask 4 q1 && unnamedZero mask 5 q2 && unnamedZero mask 6 q3
  | .openPort _ _ | .closePort _ _ | .info _ _ | .claim _ _ | .handover _ _ _ | .alloc _ _ _ | .free _ _ _
  | .grant _ _ _ _ _ | .pageQuery _ _ _ | .map _ _ _ _ _ _ | .unmap _ _ _ _ | .selectSet _ _ _ | .mapQuery _ _ _ _ _
  | .read _ _ _ _ _ | .swap _ _ _ _ _ | .cas _ _ _ _ _ _ | .add _ _ _ _ _ | .testclr _ _ _ _ _ | .dectest _ _ _ _
  | .acquire _ _ _ _ _ _ | .release _ _ _ | .renew _ _ _ _ | .copy _ _ _ _ _ _ _ _ _ | .fill _ _ _ _ _ _ _
  | .cancel _ _ _ | .jobQuery _ _ _ | .drain _ _ _ | .restore _ _ _ | .eject _ _ _ | .poolQuery _ _
  | .byteReceived _ _ | .characterError _ | .breakBegins _ | .breakEnds _ | .gapTimerRunsOut _ | .resyncEnd _
  | .lastByteSent _ | .tick | .leaseExpiry _ _ | .waitTimeout _ _ | .grantStep _ | .accessCompletionGood _
  | .accessCompletionUncorrectable _ | .switch _ | .bankOffline _ | .jobChoice | .copyReadComplete _
  | .copyReadUncorrectable _ | .copyWriteComplete _ | .closedReached _ | .powerOn | .supplyFails | .resetAsserted
  | .resetReleased | .runningEntry _ _ _ _ | .operationCarriedToEnd _ _ => true

end Sys2Proof
end

