-- ==== Sys2Proof/Certificates/Slice0/Obligations.lean ====
section
/-! DEFINITION. The statements for the provers, chapter by chapter of the spec. A next state is written as the state before
with what the command changes, so that the rest of it is the frame; the words of the statements stand in Safety.lean. -/

section
open Sys2Proof Sys2Proof.Machine

/-! ## Steps -/

/-- A step carries out the command at the front of the queue on the state with the rest of the queue. -/
def Obligations.StepRunsFrontCommand : Prop :=
  ∀ (c : Instr) (rest : List Instr) (s : State),
    step { s with pending := c :: rest } = exec c { s with pending := rest } ∧
      (s.pending = [] → step s = .next s)

/-! ## Start-up and reset (chapter 11) -/

/-- POWER_ON with the reset line released (R27, R136, R203): CLEARING, every table at its value after a power-on, the lines'
breaks kept. With the line asserted the device stays in RESET and the next start is a power-on. -/
def Obligations.PowerOnInitialisesEveryTable : Prop :=
  ∀ s : State,
    (s.resetAsserted = false → ∃ u, exec .powerOn s = .next u ∧ u.phase = .clearing ∧ u.supplyGood = true ∧
      u.nextStart = .powerOn ∧ u.FreshTables ∧ u.FreshPool ∧ ∀ p, (u.port p).breakInForce = (s.port p).breakInForce) ∧
    (s.resetAsserted = true → ∃ u, exec .powerOn s = .next u ∧ u.HaltedFrom s ∧ u.supplyGood = true ∧
      u.resetAsserted = true ∧ u.nextStart = .powerOn)

/-- SUPPLY_FAILS and RESET_ASSERTED (R72, R203, R205): RESET at once, with the kind of the next start; a second assertion
changes nothing. RESET_RELEASED after an assertion in CLEARING, or before CLEARING (R205): CLEARING begins from its start;
with the supply down nothing begins, and with the line not asserted nothing changes (log entry 3, the model's choice). Each bank
keeps its operation in progress and discards the operations behind it, also a copy operation (log entry 25, the model's
reading of R72 and R121). -/
def Obligations.SupplyAndResetLineMoveThePhase : Prop :=
  (∀ s : State,
     (∃ u, exec .supplyFails s = .next u ∧ u.HaltedFrom s ∧ u.supplyGood = false ∧ u.resetAsserted = s.resetAsserted ∧
       u.nextStart = .powerOn) ∧
     (s.resetAsserted = true → exec .resetAsserted s = .next s) ∧
     (s.resetAsserted = false → ∃ u, exec .resetAsserted s = .next u ∧ u.HaltedFrom s ∧ u.supplyGood = s.supplyGood ∧
       u.resetAsserted = true ∧ (s.phase = .running → u.nextStart = .resetLine) ∧
       (s.phase = .clearing → u.nextStart = .powerOn) ∧ (s.phase = .reset → u.nextStart = s.nextStart))) ∧
  (∀ s : State,
     (s.resetAsserted = true → s.supplyGood = true → s.nextStart = .powerOn → ∃ u, exec .resetReleased s = .next u ∧
       u.phase = .clearing ∧ u.resetAsserted = false ∧ u.nextStart = .powerOn ∧ u.FreshTables ∧ u.FreshPool) ∧
     (s.resetAsserted = true → s.supplyGood = false → exec .resetReleased s = .next { s with resetAsserted := false }) ∧
     (s.resetAsserted = false → exec .resetReleased s = .next s))

/-- OPERATION_IN_PROGRESS_CARRIED_TO_END (R66, R72, R121): in RESET the operation a bank has in progress acts on the pool and leaves
its queue; no completion, reply or claim follows. What RESET leaves behind it is in SupplyAndResetLineMoveThePhase. An operation whose read is
uncorrectable stores nothing (log entry 15). The faults of the medium before it are those of State.befall (log entry 11). -/
def Obligations.CarriedOperationActsOnThePoolAlone : Prop :=
  ∀ (s : State) (b : BankNo) (op : StoreOp) (rest : List StoreOp), s.phase = .reset → s.queue b = op :: rest →
    let carried := fun (m : State) =>
      ({ m with pool := if op.readable m.pool = true then op.store m.pool else m.pool } : State).modQueue b fun _ => rest
    exec (.operationCarriedToEnd b .good) s = .next (carried s.befall) ∧
    exec (.operationCarriedToEnd b .uncorrectable) s =
      .next (carried (if op.kind.reads = true then s.befallBad op else s.befall))

/-- RESET_RELEASED after an assertion in RUNNING (R28, R137): RETIRED pages keep their state and mark, a bank with eight or
more of them starts OFFLINE with the rest WITHHELD, every other page is FREE, and pool bytes are kept. -/
def Obligations.ResetLineKeepsRetiredPagesAlone : Prop :=
  ∀ s : State, s.resetAsserted = true → s.supplyGood = true → s.nextStart = .resetLine →
    ∃ u, exec .resetReleased s = .next u ∧ u.resetAsserted = false ∧ u.phase = s.phase ∧ u.FreshTables ∧ u.pool = s.pool ∧
      (∀ b, u.queue b = s.queue b) ∧ (∀ p, (u.port p).breakInForce = (s.port p).breakInForce) ∧
      (∀ q, u.page q =
        { state := if (s.page q).state = .retired then .retired
                   else if 8 ≤ (s.bank (bankOf q)).retired then .withheld else .free,
          owner := none, grants := noGrants, mapCount := 0, pinCount := 0,
          poisoned := (s.page q).state == .retired && (s.page q).poisoned }) ∧
      (∀ q, q ∈ u.freeList ↔ (u.page q).state = .free) ∧ u.freeList.Pairwise (· < ·) ∧
      ∀ b, u.bank b =
        if 8 ≤ (s.bank b).retired then
          { state := .offline, free := 0, allocated := 0, orphaned := 0, withheld := 512 - (s.bank b).retired,
            retired := (s.bank b).retired }
        else
          { state := .online, free := 512 - (s.bank b).retired, allocated := 0, orphaned := 0, withheld := 0,
            retired := (s.bank b).retired }

/-- RUNNING_ENTRY (R182, R203 to R206): at the end of CLEARING, or after the reset line with every carried operation finished,
the straps are read and READY stands first in every queue, sent at once unless a break is in force. In RUNNING, and in RESET
without those conditions, the event changes nothing (log entry 3, the model's choice). -/
def Obligations.RunningEntryOffersReady : Prop :=
  ∀ (s : State) (a b c d : Straps),
    ((∀ p, (s.port p).session = .closed ∧ (s.port p).outbound = [] ∧ (s.port p).lost = 0) →
      (s.phase = .clearing ∨ s.phase = .reset ∧ s.supplyGood = true ∧ s.resetAsserted = false ∧ s.nextStart = .resetLine ∧
        (∀ b, s.queue b = [])) →
      ∃ u, exec (.runningEntry a b c d) s = .next u ∧ u.straps = #v[a, b, c, d] ∧
        (∀ p, u.port p =
          { s.port p with
            outbound := [.event (.ready s.nextStart)], gap := none,
            rx := if (s.port p).breakInForce then .resync else .hunt,
            tx := if (s.port p).breakInForce then .stopped else .sending }) ∧
        u = { s with phase := .running, straps := u.straps, ports := u.ports }) ∧
    (s.phase = .running → exec (.runningEntry a b c d) s = .next s) ∧
    (s.phase = .reset → (s.supplyGood = false ∨ s.resetAsserted = true ∨ s.nextStart = .powerOn ∨ ∃ b, s.queue b ≠ []) →
      exec (.runningEntry a b c d) s = .next s)

/-- State.reset is where a power-on leads (log entries 5 and 6, the model's choice of the moment): POWER_ON and then
RUNNING_ENTRY with every strap low, on a device whose lines report no break, with no command waiting and the
model's own lists of choices empty. -/
def Obligations.ResetStateIsWherePowerOnLeads : Prop :=
  ∀ s : State, s.resetAsserted = false → (∀ p, (s.port p).breakInForce = false) → s.schedule = [] → s.faults = [] →
    s.pending = [] →
    runAll [.powerOn, .runningEntry .low .low .low .low] s = .next State.reset

/-- Outside RUNNING no request is taken, no byte received, no timer runs and nothing completes (R203, R205); a break's
beginning and end are recorded and nothing else. -/
def Obligations.NothingHappensOutsideRunning : Prop :=
  ∀ s : State, s.phase ≠ .running →
    (∀ c, ¬ StartUpCommand c → exec c s = .next s) ∧
    ∀ p, exec (.breakBegins p) s = .next (s.modPort p fun c => { c with breakInForce := true }) ∧
      exec (.breakEnds p) s = .next (s.modPort p fun c => { c with breakInForce := false })

/-! ## The link (chapter 8) -/

/-- The frame check (R168). -/
def Obligations.FrameCheckIsTheCrc : Prop :=
  frameCheck [] = 0xFFFF ∧
  (∀ (bytes : List Byte) (b : Byte), frameCheck (bytes ++ [b]) =
    [b.getLsbD 7, b.getLsbD 6, b.getLsbD 5, b.getLsbD 4, b.getLsbD 3, b.getLsbD 2, b.getLsbD 1, b.getLsbD 0].foldl
      (fun (c : BitVec 16) bit => if c.getLsbD 15 = bit then c <<< 1 else (c <<< 1) ^^^ 0x1021#16) (frameCheck bytes)) ∧
  frameCheck [0x31, 0x32, 0x33, 0x34, 0x35, 0x36, 0x37, 0x38, 0x39] = 0x29B1 ∧
  ∀ body : List Byte, frameOf body =
    [0xC3, BitVec.ofNat 8 body.length] ++ body ++
      [(frameCheck (BitVec.ofNat 8 body.length :: body) >>> 8).setWidth 8,
       (frameCheck (BitVec.ofNat 8 body.length :: body)).setWidth 8]

/-- The line below the byte (R206, Table 11-2): the straps' meanings, the pins a line type uses, the character of a byte, what the
line interface reports of ten levels and of a stretch of line, and the level the transmitter drives. That a character begins
at a space level only, so that no valid level on an idle pair reports the break alone, and only where the line has been at mark
level since the last one, is the model's choice (log entry 26). -/
def Obligations.LineCarriesCharacters : Prop :=
  (∀ x : Straps, Straps.line x = (if x.lineType = true then .differential else .singleEnded) ∧
    (x.rateHigh = false → x.rateLow = false → Straps.rate x = 1) ∧ (x.rateHigh = false → x.rateLow = true → Straps.rate x = 2) ∧
    (x.rateHigh = true → x.rateLow = false → Straps.rate x = 5) ∧ (x.rateHigh = true → x.rateLow = true → Straps.rate x = 10)) ∧
  (∀ pin, LineType.differential.uses pin = true ∧ (LineType.singleEnded.uses pin = true ↔ pin = .rxA ∨ pin = .txA)) ∧
  (∀ b : Byte,
    let level := fun i => if b.getLsbD i = true then Level.mark else Level.space
    character b =
      [.space, level 0, level 1, level 2, level 3, level 4, level 5, level 6, level 7, .mark]) ∧
  (∀ (line : LineType) (b : Byte) (levels : List Level), levels.length = 10 →
    line.reportOf (character b) = .byte b ∧ (levels[9]? = some .space → line.reportOf levels = .characterError) ∧
      (line = .differential → .invalid ∈ levels → line.reportOf levels = .characterError)) ∧
  (∀ (line : LineType) (bytes : List Byte), LineWatch.idle.reports line (bytes.flatMap character) = bytes.map .byte) ∧
  (∀ line : LineType, LineWatch.idle.reports line (List.replicate 20 .space ++ List.replicate 10 .mark) =
    [.characterError, .breakBegins, .breakEnds]) ∧
  LineWatch.idle.reports .differential (List.replicate 20 .invalid ++ List.replicate 10 .mark) = [.breakBegins, .breakEnds] ∧
  (∀ (line : LineType) (x : LineWatch) (l : Level), x.inBreak = true →
    (x.bit line l).2 = [] ∧ (x.bit line l).1.inBreak = true ∨ (x.bit line l).2 = [.breakEnds] ∧ (x.bit line l).1.inBreak = false) ∧
  ∀ (s : State) (p : Port) (bit : Nat),
    (s.phase ≠ .running ∨ (s.port p).tx ≠ .sending → s.drives p bit = .mark) ∧
    (∀ m rest, s.phase = .running → (s.port p).tx = .sending → (s.port p).outbound = m :: rest →
      s.drives p bit = (((frameOf m.body).flatMap character)[bit]?).getD .mark) ∧
    s.drivesB p bit = if (s.straps[p]).lineType = true then s.drives p bit else .mark

/-- The receiver in HUNT, LENGTH, BODY, CHECK and RESYNC (R165 to R167, R170, R172): a complete frame goes to the port-level checks
when its kind is request, and is dropped with REJECTED KIND otherwise; a frame whose check differs is discarded with
REJECTED CHECK. -/
def Obligations.ReceiverTakesAFrame : Prop :=
  ∀ (s : State) (p : Port) (b : Byte), s.Hears p →
    ((s.port p).rx = .hunt →
      (b = 0xC3 → exec (.byteReceived p b) s =
        .next (s.modPort p fun c => { c with rx := .length 0xFFFF, gap := some s.config.gapTime })) ∧
      (b ≠ 0xC3 → exec (.byteReceived p b) s = .next s) ∧ exec (.characterError p) s = .next s) ∧
    (∀ check, (s.port p).rx = .length check →
      (2 ≤ b.toNat ∧ b.toNat ≤ 252 → exec (.byteReceived p b) s =
        .next (s.modPort p fun c => { c with rx := .body b.toNat [] (checkByte check b), gap := some s.config.gapTime })) ∧
      (b.toNat < 2 ∨ 252 < b.toNat → exec (.byteReceived p b) s =
        .next (s.modPort p fun c =>
          { c with rx := .resync, gap := some s.config.gapTime }.offerEvent (.rejected .length)))) ∧
    ((s.port p).rx = .resync →
      exec (.byteReceived p b) s = .next (s.modPort p fun c => { c with gap := some s.config.gapTime }) ∧
      exec (.characterError p) s = .next (s.modPort p fun c => { c with gap := some s.config.gapTime })) ∧
    (∀ n body check, (s.port p).rx = .body n body check →
      (body.length + 1 ≠ n → exec (.byteReceived p b) s =
        .next (s.modPort p fun c =>
          { c with rx := .body n (body ++ [b]) (checkByte check b), gap := some s.config.gapTime })) ∧
      (body.length + 1 = n → exec (.byteReceived p b) s =
        .next (s.modPort p fun c =>
          { c with rx := .check n (body ++ [b]) (checkByte check b) none, gap := some s.config.gapTime }))) ∧
    (∀ n body check, (s.port p).rx = .check n body check none → exec (.byteReceived p b) s =
      .next (s.modPort p fun c => { c with rx := .check n body check (some b), gap := some s.config.gapTime })) ∧
    (∀ n body check first, (s.port p).rx = .check n body check (some first) →
      (first = (check >>> 8).setWidth 8 ∧ b = check.setWidth 8 →
        ∀ (b0 : Byte) (tail : List Byte), body = b0 :: tail →
          (b0 >>> 4 = 1 → exec (.byteReceived p b) s =
            .next ((s.modPort p fun c => { c with rx := .hunt, gap := none }).judgeBody p body)) ∧
          (b0 >>> 4 ≠ 1 → exec (.byteReceived p b) s =
            .next (s.modPort p fun c => { c with rx := .hunt, gap := none }.offerEvent (.rejected .kind)))) ∧
      (¬ (first = (check >>> 8).setWidth 8 ∧ b = check.setWidth 8) → exec (.byteReceived p b) s =
        .next (s.modPort p fun c =>
          { c with rx := .resync, gap := some s.config.gapTime }.offerEvent (.rejected .check))))

/-- A character error inside a frame, and the gap timer's two run-outs (R169, R171, R172). A break on a port that is not OPEN, and the
end of any break (R159, R173, R180); while a break is in force no byte, no character error and no request has an effect (R163;
log entry 1). A run-out that is not due, a break that begins twice and the end of a break that has not begun have no effect
(log entry 3, the model's choice). -/
def Obligations.ErrorsGapsAndBreaks : Prop :=
  (∀ (s : State) (p : Port), s.Hears p →
     ((s.port p).rx.inFrame = true →
       exec (.characterError p) s = .next (s.modPort p fun c =>
         { c with rx := .resync, gap := some s.config.gapTime }.offerEvent (.rejected .line)) ∧
       ((s.port p).gap = some 0 → exec (.gapTimerRunsOut p) s =
         .next (s.modPort p fun c => { c with rx := .hunt, gap := none }.offerEvent (.rejected .gap)))) ∧
     ((s.port p).rx = .resync → (s.port p).gap = some 0 →
       exec (.resyncEnd p) s = .next (s.modPort p fun c => { c with rx := .hunt, gap := none }))) ∧
  (∀ (s : State) (p : Port), s.phase = .running →
     ((s.port p).gap ≠ some 0 ∨ (s.port p).rx.inFrame = false → exec (.gapTimerRunsOut p) s = .next s) ∧
     ((s.port p).gap ≠ some 0 ∨ (s.port p).rx ≠ .resync → exec (.resyncEnd p) s = .next s) ∧
     ((s.port p).breakInForce = false → (s.port p).session ≠ .opened → exec (.breakBegins p) s =
       .next (s.modPort p fun c =>
         { c with rx := .resync, gap := none, breakInForce := true, outbound := [], tx := .stopped })) ∧
     ((s.port p).breakInForce = false → exec (.breakEnds p) s = .next s) ∧
     ((s.port p).breakInForce = true → (∀ b, exec (.byteReceived p b) s = .next s) ∧ exec (.characterError p) s = .next s ∧
       (∀ c body, requestBody c = some (p, body) → exec c s = .next s) ∧ exec (.breakBegins p) s = .next s ∧
       exec (.breakEnds p) s = .next (s.modPort p fun c =>
         { c with rx := .resync, gap := some s.config.gapTime, breakInForce := false,
                  tx := if c.outbound = [] then .idle else .sending })))

/-- The admission of replies and of events (R176, R177); and LAST_BYTE_SENT (R178, R179): the head leaves, OVERFLOW joins if the
port is OPEN, events were lost and fewer than twelve messages are left, and the next frame begins. A last byte of a
transmitter that sends nothing has no effect (log entry 3). -/
def Obligations.OutboundQueueAdmitsAndSends : Prop :=
  (∀ c : PortCtl,
     (∀ t code st pay, c.offerReply t code st pay =
       if c.outbound.length < 16 then
         { c with outbound := c.outbound ++ [.reply t code st pay], tx := if c.tx = .idle then .sending else c.tx }
       else c) ∧
     (∀ reason, c.offerEvent (.sessionEnd reason) =
       if c.outbound.length < 16 then
         { c with outbound := c.outbound ++ [.event (.sessionEnd reason)], tx := if c.tx = .idle then .sending else c.tx }
       else c) ∧
     ∀ e, (∀ reason, e ≠ .sessionEnd reason) →
       ((c.session ≠ .opened ∧ ∀ kind, e ≠ .ready kind) → c.offerEvent e = c) ∧
       ((c.session = .opened ∨ ∃ kind, e = .ready kind) →
         (c.outbound.length < 11 → 0 < c.lost → c.session = .opened → c.offerEvent e =
           { c with outbound := c.outbound ++ [.event (.overflow c.lost), .event e], lost := 0,
                    tx := if c.tx = .idle then .sending else c.tx }) ∧
         (c.outbound.length = 11 → 0 < c.lost → c.session = .opened → c.offerEvent e =
           { c with outbound := c.outbound ++ [.event (.overflow c.lost)], lost := 1,
                    tx := if c.tx = .idle then .sending else c.tx }) ∧
         (c.outbound.length < 12 → (c.lost = 0 ∨ c.session ≠ .opened) → c.offerEvent e =
           { c with outbound := c.outbound ++ [.event e], tx := if c.tx = .idle then .sending else c.tx }) ∧
         (12 ≤ c.outbound.length → c.offerEvent e = { c with lost := min 255 (c.lost + 1) }))) ∧
  ∀ (s : State) (p : Port), s.phase = .running →
    ((s.port p).tx = .sending → exec (.lastByteSent p) s =
      .next (s.modPort p fun c =>
        if c.session = .opened ∧ 0 < c.lost ∧ c.outbound.tail.length < 12 then
          { c with outbound := c.outbound.tail ++ [.event (.overflow c.lost)], lost := 0, tx := .sending }
        else { c with outbound := c.outbound.tail, tx := if c.outbound.tail = [] then .idle else .sending })) ∧
    ((s.port p).tx ≠ .sending → exec (.lastByteSent p) s = .next s)

/-- The bytes of replies and events on the line (R183, R184, R187 to R191, Tables 9-3, 9-4 and 9-9): a reply that is not OK is its
header alone, an OK reply carries its fields from offset 3 and an event its own from offset 2. INFO's are in
SessionsOpenAndInfoAnswers. -/
def Obligations.RepliesAndEventsOnTheLine : Prop :=
  let n1 := fun n : Nat => [BitVec.ofNat 8 n]
  let n2 := fun n : Nat => [BitVec.ofNat 8 n, BitVec.ofNat 8 (n / 256)]
  let n4 := fun n : Nat =>
    [BitVec.ofNat 8 n, BitVec.ofNat 8 (n / 256), BitVec.ofNat 8 (n / 65536), BitVec.ofNat 8 (n / 16777216)]
  let word := fun w : Word => n4 w.toNat
  let flag := fun b : Bool => if b = true then [1#8] else [0#8]
  let set := fun x : MapSet => match x with
    | .a => 0#8
    | .b => 1#8
  let absent := fun (α : Type) (f : α → List Byte) (mark : List Byte) (x : Option α) => match x with
    | none => mark
    | some a => f a
  (∀ (s : State) (p : Port),
    (∀ m rest, (s.port p).tx = .sending → (s.port p).outbound = m :: rest → s.frameOnLine p = some (frameOf m.body)) ∧
    ((s.port p).tx ≠ .sending → s.frameOnLine p = none)) ∧
  (∀ (t : Tag) (code : Byte) (st : Status) (pay : Payload), (Message.reply t code st pay).body =
    [BitVec.ofNat 8 (0x20 + t.val), code, BitVec.ofNat 8 st.code] ++ if st = .ok then pay.fields else []) ∧
  (∀ e : Event, (Message.event e).body = [0x30, e.code] ++ e.fields) ∧
  (∀ x ∈ [(Status.ok, 0), (.badForm, 1), (.unknownCode, 2), (.notOpen, 3), (.badState, 4), (.tagInUse, 5), (.slotsFull, 6),
      (.notSupervisor, 7), (.bounds, 8), (.unmapped, 9), (.denied, 10), (.locked, 11), (.noSpace, 12), (.quota, 13),
      (.inUse, 14), (.notFound, 15), (.tableFull, 16), (.alreadyHeld, 17), (.contended, 18), (.timeout, 19),
      (.mediaError, 20), (.overlap, 21), (.queueFull, 22)], x.1.code = x.2) ∧
  ((∀ x ∈ [(PageState.free, 0), (.allocated, 1), (.orphaned, 2), (.withheld, 3), (.retired, 4)], x.1.code = x.2) ∧
   (∀ x ∈ [(Right.none, 0), (.read, 1), (.readWrite, 2)], x.1.code = x.2) ∧
   (∀ x ∈ [(BankState.online, 0), (.draining, 1), (.offline, 2)], x.1.code = x.2) ∧
   (∀ x ∈ [(BankCause.drain, 0), (.retireLimit, 1), (.drained, 2), (.restore, 3)], x.1.code = x.2) ∧
   (∀ x ∈ [(Session.closed, 0), (.opened, 1), (.closing, 2)], x.1.code = x.2) ∧
   (∀ x ∈ [(CloseReason.closed, 0), (.linkLost, 1), (.ejected, 2)], x.1.code = x.2) ∧
   (∀ x ∈ [(RejectReason.length, 0), (.check, 1), (.gap, 2), (.line, 3), (.kind, 4)], x.1.code = x.2) ∧
   (∀ x ∈ [(ResetKind.powerOn, 0), (.resetLine, 1)], x.1.code = x.2) ∧
   (∀ x ∈ [(MapChange.readOnly, 0), (.removed, 1)], x.1.code = x.2) ∧
   (∀ x ∈ [(DecOutcome.reachedZero, 0), (.nonzero, 1), (.wasZero, 2)], x.1.code = x.2) ∧
   (∀ x ∈ [(JobOutcome.done, 0), (.cancelled, 1), (.mediaError, 2), (.locked, 3)], x.1.code = x.2) ∧
   ∀ x ∈ [(JobState.queued, 0), (.active, 1)], x.1.code = x.2) ∧
  (Payload.none.fields = [] ∧
   (∀ (p : Port) held quota owned, (Payload.session p held quota owned).fields =
     n1 p.val ++ flag held ++ n2 quota ++ n2 owned) ∧
   (∀ ps : List PageNo, (Payload.pages ps).fields = n1 ps.length ++ ps.flatMap fun q => n2 q.val) ∧
   (∀ (q : PageNo) (r : PageRec), (Payload.pageRecord q r).fields =
     n2 q.val ++ n1 r.state.code ++ absent Port (fun p => n1 p.val) [0xFF] r.owner ++
       n1 r.grants[0].code ++ n1 r.grants[1].code ++ n1 r.grants[2].code ++ n1 r.grants[3].code ++
       n2 r.mapCount ++ n2 r.pinCount ++ flag r.poisoned) ∧
   (∀ q, (Payload.previous q).fields = absent PageNo (fun q => n2 q.val) [0xFF, 0xFF] q) ∧
   (∀ present pending x first (es : List FrameEntry), (Payload.selection present pending x first es).fields =
     [set present] ++ absent MapSet (fun y => [set y]) [0xFF] pending ++ [set x] ++ n1 first ++ n1 es.length ++
       es.flatMap fun e => match e with
         | none => [0, 0xFF, 0xFF]
         | some e => (match e.access with
           | .readOnly => [1#8]
           | .readWrite => [2#8]) ++ n2 e.page.val) ∧
   (∀ data, (Payload.bytes data).fields = data) ∧
   (∀ w, (Payload.old w).fields = word w) ∧
   (∀ w swapped, (Payload.oldSwapped w swapped).fields = word w ++ flag swapped) ∧
   (∀ bit, (Payload.priorBit bit).fields = flag bit) ∧
   (∀ w (o : DecOutcome), (Payload.countdown w o).fields = word w ++ n1 o.code) ∧
   (∀ (q : PageNo) ms, (Payload.lease q ms).fields = n2 q.val ++ n2 ms) ∧
   (∀ id, (Payload.jobId id).fields = [id]) ∧
   (∀ position (j : Job), (Payload.job position j).fields =
     [j.id] ++ (match j.kind with
       | .copy _ _ _ => [0#8]
       | .fill _ => [1#8]) ++ n1 j.state.code ++ n1 position ++ n4 j.bytesDone ++ n4 j.length ++ (match j.kind with
       | .copy src _ _ => [set src]
       | .fill _ => [0xFF]) ++ [set j.dstSet]) ∧
   (∀ c : ConfigRec, (Payload.config c).fields = n1 c.gapTime ++ n2 c.defaultLease ++ n1 c.retireLimit ++
     n2 c.quota[0] ++ n2 c.quota[1] ++ n2 c.quota[2] ++ n2 c.quota[3]) ∧
   ∀ (free : Nat) (banks : Vector BankRec 4) (role : Option Port) (sessions : Vector Session 4),
     let bank := fun b : BankRec => n1 b.state.code ++ n2 b.free ++ n2 b.allocated ++ n2 b.orphaned ++ n2 b.withheld ++ n2 b.retired
     (Payload.pool free banks role sessions).fields =
       n2 free ++ bank banks[0] ++ bank banks[1] ++ bank banks[2] ++ bank banks[3] ++
         absent Port (fun p => n1 p.val) [0xFF] role ++
         n1 sessions[0].code ++ n1 sessions[1].code ++ n1 sessions[2].code ++ n1 sessions[3].code) ∧
  (∀ kind : ResetKind, (Event.ready kind).code = 0x80 ∧ (Event.ready kind).fields = [1] ++ n1 kind.code) ∧
  (∀ reason : RejectReason, (Event.rejected reason).code = 0x81 ∧ (Event.rejected reason).fields = n1 reason.code) ∧
  (∀ lost, (Event.overflow lost).code = 0x82 ∧ (Event.overflow lost).fields = n1 lost) ∧
  (∀ (q : PageNo) (pairs : List ChangedEntry), (Event.mapChanged q pairs).code = 0x83 ∧ (Event.mapChanged q pairs).fields =
    n2 q.val ++ n1 pairs.length ++ pairs.flatMap fun x => [set x.set] ++ n1 x.frame.val ++ n1 x.change.code) ∧
  (∀ q : PageNo, (Event.leaseLost q).code = 0x84 ∧ (Event.leaseLost q).fields = n2 q.val) ∧
  (∀ id (outcome : JobOutcome) moved, (Event.jobEnd id outcome moved).code = 0x85 ∧
    (Event.jobEnd id outcome moved).fields = [id] ++ n1 outcome.code ++ n4 moved) ∧
  (∀ (b : BankNo) (state : BankState) (cause : BankCause), (Event.bankState b state cause).code = 0x86 ∧
    (Event.bankState b state cause).fields = n1 b.val ++ n1 state.code ++ n1 cause.code) ∧
  (Event.roleGained.code = 0x87 ∧ Event.roleGained.fields = [1]) ∧
  (∀ (p : Port) (reason : CloseReason), (Event.portDown p reason).code = 0x88 ∧
    (Event.portDown p reason).fields = n1 p.val ++ n1 reason.code) ∧
  ∀ reason : CloseReason, (Event.sessionEnd reason).code = 0x89 ∧ (Event.sessionEnd reason).fields = n1 reason.code

/-- The bytes of a request's frame, received one by one in HUNT, do what the request's command does: every bit of every
field is read (R140, R167, R170, R183 to R190). -/
def Obligations.FrameOfARequestIsItsCommand : Prop :=
  ∀ (c : Instr) (p : Port) (body : List Byte) (s : State), c.wellFormed = true → requestBody c = some (p, body) →
    s.Hears p → (s.port p).rx = .hunt → (s.port p).gap = none →
    runAll ((frameOf body).map (.byteReceived p)) s = exec c s

/-! ## Port-level checks (chapters 7 and 9) -/

/-- Checks 3 to 6 and the drop of requests during CLOSING by ejection (R141, R143 to R146), for every request command whose
body passes checks 1 and 2: the first that fails gives the status, and nothing else changes. Check 6 is for HANDOVER, CONFIGURE,
DRAIN, RESTORE, EJECT and POOL-QUERY. The drop is of every request, whatever its body. -/
def Obligations.PortChecksRefuseInOrder : Prop :=
  (∀ (s : State) (p : Port), s.Hears p → (s.port p).session = .closing → (s.port p).closeReason = some .ejected →
    (∀ body, s.judgeBody p body = s) ∧ ∀ c body, requestBody c = some (p, body) → exec c s = .next s) ∧
  ∀ (c : Instr) (p : Port) (b0 code : Byte) (fields : List Byte) (r : Request) (s : State),
    requestBody c = some (p, b0 :: code :: fields) → parseFields code.toNat fields = .request r → s.Hears p →
    let unopened := (s.port p).session ≠ .opened ∧ r ≠ .openSession ∧ r ≠ .info
    let tagInUse := ∃ x ∈ (s.port p).slots, x.tag = tagOf b0
    let slotsFull := 4 ≤ (s.port p).slots.length
    let ejected := (s.port p).session = .closing ∧ (s.port p).closeReason = some .ejected
    (ejected → exec c s = .next s) ∧
    (¬ ejected → unopened → exec c s = .next (s.reply p (tagOf b0) code .notOpen)) ∧
    (¬ ejected → ¬ unopened → tagInUse → exec c s = .next (s.reply p (tagOf b0) code .tagInUse)) ∧
    (¬ ejected → ¬ unopened → ¬ tagInUse → slotsFull → exec c s = .next (s.reply p (tagOf b0) code .slotsFull)) ∧
    (¬ ejected → ¬ unopened → ¬ tagInUse → ¬ slotsFull →
      (∃ target, r = .handover target) ∨ (∃ named, r = .configure named) ∨ (∃ bank, r = .drain bank) ∨
        (∃ bank, r = .restore bank) ∨ (∃ target, r = .eject target) ∨ r = .poolQuery → s.role ≠ some p →
      exec c s = .next (s.reply p (tagOf b0) code .notSupervisor))

/-- Check 1 and check 2 (R142, R185, R186, Table 9-1): a coded field with no meaning is refused BAD-FORM in every session state
in which requests are checked; a body of another length than its code requires is BAD-FORM, a code that no request has is
UNKNOWN-CODE whatever follows it, and CONFIGURE's length is that of the fields its mask names. The reply bears the body's tag
and echoes its code (R141, R142). -/
def Obligations.CheckOneReadsLengthsAndCodes : Prop :=
  (∀ (s : State) (p : Port) (t : Tag), s.Hears p → ¬ ((s.port p).session = .closing ∧ (s.port p).closeReason = some .ejected) →
     (∀ page target (right : Byte), 2 < right.toNat →
       exec (.grant p t page target right) s = .next (s.reply p t 0x12 .badForm)) ∧
     (∀ (set : Byte) frame page (access : Byte), 1 < set.toNat ∨ 1 < access.toNat →
       exec (.map p t set frame page access) s = .next (s.reply p t 0x20 .badForm)) ∧
     (∀ (set : Byte) frame, 1 < set.toNat → exec (.unmap p t set frame) s = .next (s.reply p t 0x21 .badForm)) ∧
     (∀ set : Byte, 1 < set.toNat → exec (.selectSet p t set) s = .next (s.reply p t 0x22 .badForm)) ∧
     (∀ (set : Byte) first count, 1 < set.toNat →
       exec (.mapQuery p t set first count) s = .next (s.reply p t 0x23 .badForm)) ∧
     (∀ frame offset (data : List Byte), 240 < data.length →
       exec (.write p t frame offset data) s = .next (s.reply p t 0x31 .badForm)) ∧
     (∀ frame (mode : Byte) lease wait, 1 < mode.toNat →
       exec (.acquire p t frame mode lease wait) s = .next (s.reply p t 0x40 .badForm)) ∧
     (∀ (ss : Byte) sf so (ds : Byte) df dOff n, 2 < ss.toNat ∨ 2 < ds.toNat →
       exec (.copy p t ss sf so ds df dOff n) s = .next (s.reply p t 0x50 .badForm)) ∧
     (∀ (ds : Byte) df dOff n pattern, 2 < ds.toNat →
       exec (.fill p t ds df dOff n pattern) s = .next (s.reply p t 0x51 .badForm)) ∧
     ∀ (mask : Byte) gap lease limit q0 q1 q2 q3, mask.getLsbD 7 = true →
       exec (.configure p t mask gap lease limit q0 q1 q2 q3) s = .next (s.reply p t 0x60 .badForm)) ∧
  ((∀ (code : Nat) (fields : List Byte), (∀ row ∈ requestLengths, row.1 ≠ code) → parseFields code fields = .unknownCode) ∧
   (∀ row ∈ requestLengths, ∀ fields : List Byte,
     parseFields row.1 fields ≠ .unknownCode ∧
     (fields.length + 2 < row.2.1 ∨ row.2.2 < fields.length + 2 → parseFields row.1 fields = .badForm)) ∧
   ∀ (mask : Byte) (fields : List Byte),
     parseFields 0x60 (mask :: fields) ≠ .badForm ↔ mask.getLsbD 7 = false ∧ fields.length = configureWidth mask) ∧
  ∀ (s : State) (p : Port) (b0 code : Byte) (fields : List Byte),
    ¬ ((s.port p).session = .closing ∧ (s.port p).closeReason = some .ejected) →
    (parseFields code.toNat fields = .badForm →
      s.judgeBody p (b0 :: code :: fields) = s.reply p (tagOf b0) code .badForm) ∧
    (parseFields code.toNat fields = .unknownCode →
      s.judgeBody p (b0 :: code :: fields) = s.reply p (tagOf b0) code .unknownCode)

/-- Requests HELD behind a pending SELECT (R42): accesses, ACQUIRE, and COPY and FILL that name PRESENT take a slot in state
HELD and nothing more happens. -/
def Obligations.RequestsAreHeldBehindASelect : Prop :=
  ∀ (s : State) (p : Port) (t : Tag), s.Takes p t → (s.map p).pendingSet ≠ none →
    (∀ c frame offset kind, AccessCommand c p t frame offset kind →
      exec c s = .next (s.withSlot p t (.access frame offset kind) .held)) ∧
    (∀ frame mode lease wait m, lockModeOf mode = some m →
      exec (.acquire p t frame mode lease wait) s = .next (s.withSlot p t (.acquire frame m lease wait) .held)) ∧
    (∀ ss sf so ds df dOff n x y, setCodeOf ss = some x → setCodeOf ds = some y → x = .present ∨ y = .present →
      exec (.copy p t ss sf so ds df dOff n) s = .next (s.withSlot p t (.copy x sf so y df dOff n) .held)) ∧
    ∀ df dOff n pattern,
      exec (.fill p t 2 df dOff n pattern) s = .next (s.withSlot p t (.fill .present df dOff n pattern) .held)

/-! ## Sessions and the role (chapters 7 and 10) -/

/-- OPEN (R151, R193); and INFO (R152), answered in every session state but CLOSING by ejection with the fixed figures. -/
def Obligations.SessionsOpenAndInfoAnswers : Prop :=
  (∀ (p : Port) (t : Tag) (s : State), s.Hears p → (∀ x ∈ (s.port p).slots, x.tag ≠ t) → (s.port p).slots.length < 4 →
     ((s.port p).session = .closed →
       let role := if s.role = none then some p else s.role
       exec (.openPort p t) s = .next
         ({ (s.modPort p fun c =>
             { c with session := .opened, closeReason := none, inFlight := 0, activeJob := false, lost := 0 }).modMap p fun m =>
             { m with present := .a, pendingSet := none, inFlight := 0 } with role := role }.reply p t 0x01 .ok
           (.session p (role == some p) s.config.quota[p] s.owned[p]))) ∧
     ((s.port p).session = .opened ∨ ((s.port p).session = .closing ∧ (s.port p).closeReason ≠ some .ejected) →
       exec (.openPort p t) s = .next (s.reply p t 0x01 .badState))) ∧
  ((∀ (p : Port) (t : Tag) (s : State), s.Hears p → (∀ x ∈ (s.port p).slots, x.tag ≠ t) → (s.port p).slots.length < 4 →
     ¬ ((s.port p).session = .closing ∧ (s.port p).closeReason = some .ejected) →
     exec (.info p t) s = .next (s.reply p t 0x03 .ok .info)) ∧
   ∀ t : Tag, (Message.reply t 0x03 .ok .info).body =
     [0x20 + BitVec.ofNat 8 t.val, 0x03, 0x00, 0x4D, 0x4F, 0x52, 0x50, 0x45, 0x4C, 0x4C, 0x00, 0x54, 0x46, 0x4B, 0x2D, 0x34,
      0x38, 0x32, 0x30, 1, 0x00, 0x08, 0x00, 0x10, 4, 64, 32, 8])

/-- CLAIM and HANDOVER (R194, R195). -/
def Obligations.RolePassesByClaimAndHandover : Prop :=
  ∀ (p : Port) (t : Tag) (s : State), s.Takes p t →
    (s.role = none → exec (.claim p t) s = .next ({ s with role := some p }.reply p t 0x04 .ok)) ∧
    (s.role = some p → exec (.claim p t) s = .next (s.reply p t 0x04 .ok)) ∧
    (∀ x, s.role = some x → x ≠ p → exec (.claim p t) s = .next (s.reply p t 0x04 .badState)) ∧
    (s.role = some p → ∀ target : Byte,
      (4 ≤ target.toNat → exec (.handover p t target) s = .next (s.reply p t 0x05 .bounds)) ∧
      ∀ x : Port, x.val = target.toNat →
        (x = p ∨ (s.port x).session ≠ .opened → exec (.handover p t target) s = .next (s.reply p t 0x05 .badState)) ∧
        (x ≠ p → (s.port x).session = .opened → exec (.handover p t target) s =
          .next (({ s with role := some x }.reply p t 0x05 .ok).modPort x (·.offerEvent .roleGained))))

/-- The three entries into CLOSING (R153, R157, R158, R200): CLOSE keeps its slot and is answered later, EJECT answers the
supervisor and refuses what it must, and a break on an OPEN port empties the queue first. An ejected port finds SESSION-END at
the tail of its own queue, if there is room, and nothing else new there (R157). That EJECT's OK stands before every message its
teardown offers to the supervisor is the model's (log entry 27). -/
def Obligations.ClosingIsEnteredThreeWays : Prop :=
  (∀ (p : Port) (t : Tag) (s : State), s.Takes p t →
    exec (.closePort p t) s = .next ((s.withSlot p t .closeSession .inFlight).enterClosing p .closed)) ∧
  (∀ (p : Port) (t : Tag) (target : Byte) (s : State), s.Takes p t → s.role = some p →
    (4 ≤ target.toNat → exec (.eject p t target) s = .next (s.reply p t 0x63 .bounds)) ∧
    ∀ x : Port, x.val = target.toNat →
      (x = p ∨ (s.port x).session ≠ .opened → exec (.eject p t target) s = .next (s.reply p t 0x63 .badState)) ∧
      (x ≠ p → (s.port x).session = .opened →
        exec (.eject p t target) s = .next ((s.reply p t 0x63 .ok).enterClosing x .ejected))) ∧
  (∀ (s : State) (x : Port), ((s.enterClosing x .ejected).port x).outbound =
    if (s.port x).outbound.length < 16 then (s.port x).outbound ++ [.event (.sessionEnd .ejected)]
    else (s.port x).outbound) ∧
  ∀ (p : Port) (s : State), s.Hears p → (s.port p).session = .opened → exec (.breakBegins p) s =
    .next ((s.modPort p fun c =>
      { c with rx := .resync, gap := none, breakInForce := true, outbound := [], tx := .stopped }).enterClosing p .linkLost)

/-- The teardown of an OPEN port, whatever its cause and in whatever order its shares are taken (R24 to R26, R46, R97, R120, R154,
R196): nothing of the port is left in any table but its accesses in flight and its ACTIVE job, marked for cancellation; each of
its pages is released or ORPHANED; what the other ports hold stands, and so do the pool, the bank queues, the in-flight
records and the port's own receiver. Its queue gains SESSION-END on ejection, and the reply of its CLOSE where CLOSED is reached at
once, each if there is room (R155, R157). -/
def Obligations.TeardownLeavesNothingOfThePort : Prop :=
  ∀ (s : State) (p : Port) (reason : CloseReason), s.DirectorySound → s.MapCountsExact → s.PinCountsExact → s.PortsBounded →
    s.LockTableSound → s.JobQueueSound → s.WaitersSound →
    (s.port p).session = .opened →
    let u := s.enterClosing p reason
    let queue := (s.port p).outbound
    let joined := fun m : Message => if queue.length < 16 then queue ++ [m] else queue
    u.TornDown s p ∧
    (reason = .linkLost → (u.port p).outbound = queue) ∧
    (reason = .ejected → (u.port p).outbound = joined (.event (.sessionEnd .ejected))) ∧
    (reason = .closed → (u.port p).session = .closing → (u.port p).outbound = queue) ∧
    ∀ before after t, reason = .closed → (u.port p).session = .closed →
      (s.port p).slots = before ++ { tag := t, request := .closeSession, state := .inFlight } :: after →
      (∀ x ∈ before, x.request ≠ .closeSession) → (u.port p).outbound = joined (.reply t 0x02 .ok .none)

/-- A port with no access in flight and no ACTIVE job is CLOSED in the step in which it enters CLOSING; otherwise it is CLOSING with
its reason (R154, R155). CLOSED_REACHED (R155, R161), and the same test inside other steps: with no access in flight and no
ACTIVE job a CLOSING port becomes CLOSED, a CLOSE is answered and its slot freed, and PORT-DOWN goes to the role holder.
Otherwise nothing happens (log entry 3). -/
def Obligations.ClosingEndsAtClosed : Prop :=
  (∀ (s : State) (p : Port) (reason : CloseReason), s.JobQueueSound → (s.port p).session = .opened →
     ((s.port p).inFlight = 0 ∧ (∀ j ∈ s.jobs, j.state = .active → j.port ≠ p) →
       ((s.enterClosing p reason).port p).session = .closed ∧ ((s.enterClosing p reason).port p).closeReason = none) ∧
     ((s.port p).inFlight ≠ 0 ∨ (∃ j ∈ s.jobs, j.state = .active ∧ j.port = p) →
       ((s.enterClosing p reason).port p).session = .closing ∧
         ((s.enterClosing p reason).port p).closeReason = some reason)) ∧
  ∀ (s : State) (p : Port), s.phase = .running →
    exec (.closedReached p) s = .next (s.closedCheck p) ∧
    (¬ ((s.port p).session = .closing ∧ (s.port p).inFlight = 0 ∧ (s.port p).activeJob = false) →
      exec (.closedReached p) s = .next s) ∧
    ((s.port p).session = .closing → (s.port p).inFlight = 0 → (s.port p).activeJob = false →
      ∀ reason, (s.port p).closeReason = some reason →
        let down := fun (u : State) => match s.role with
          | none => u
          | some x => if x = p then u else u.modPort x (·.offerEvent (.portDown p reason))
        (∀ before after t st, (s.port p).slots = before ++ { tag := t, request := .closeSession, state := st } :: after →
          (∀ x ∈ before, x.request ≠ .closeSession) → reason = .closed →
          exec (.closedReached p) s = .next (down (s.modPort p fun c =>
            { { c with session := .closed, closeReason := none,
                       slots := c.slots.filter (·.tag ≠ t) }.offerReply t 0x02 .ok .none with closeReason := none }))) ∧
        (reason ≠ .closed → exec (.closedReached p) s =
          .next (down (s.modPort p fun c => { c with session := .closed, closeReason := none }))))

/-! ## The page pool (chapter 1) -/

/-- ALLOC (R13, R14). -/
def Obligations.AllocTakesTheHeadOfTheFreeList : Prop :=
  ∀ (p : Port) (t : Tag) (count : Byte) (s : State), s.Takes p t →
    let n := count.toNat
    (n = 0 ∨ 8 < n → exec (.alloc p t count) s = .next (s.reply p t 0x10 .bounds)) ∧
    (1 ≤ n → n ≤ 8 → s.config.quota[p] < s.owned[p] + n → exec (.alloc p t count) s = .next (s.reply p t 0x10 .quota)) ∧
    (1 ≤ n → n ≤ 8 → s.owned[p] + n ≤ s.config.quota[p] → s.freeList.length < n →
      exec (.alloc p t count) s = .next (s.reply p t 0x10 .noSpace)) ∧
    (1 ≤ n → n ≤ 8 → s.owned[p] + n ≤ s.config.quota[p] → n ≤ s.freeList.length → s.DirectorySound →
      ∃ u, exec (.alloc p t count) s = .next u ∧ u.freeList = s.freeList.drop n ∧
        (∀ q, u.page q = if q ∈ s.freeList.take n then
          { state := .allocated, owner := some p, grants := noGrants, mapCount := 0, pinCount := 0, poisoned := false }
          else s.page q) ∧
        (∀ x, u.ownedBy x = if x = p then s.ownedBy x + n else s.ownedBy x) ∧
        (∀ b, u.bank b =
          { s.bank b with free := (s.bank b).free - ((s.freeList.take n).filter (bankOf · = b)).length,
                          allocated := (s.bank b).allocated + ((s.freeList.take n).filter (bankOf · = b)).length }) ∧
        u.ports = (s.reply p t 0x10 .ok (.pages (s.freeList.take n))).ports ∧
        u = { s with freeList := u.freeList, pages := u.pages, owned := u.owned, banks := u.banks, ports := u.ports })

/-- FREE (R10, R15, R16): the page's new place by its mark and its bank's state, then the bank checks. -/
def Obligations.FreeReleasesThePage : Prop :=
  ∀ (p : Port) (t : Tag) (page : Half) (s : State), s.Takes p t →
    (2048 ≤ page.toNat → exec (.free p t page) s = .next (s.reply p t 0x11 .bounds)) ∧
    ∀ q : PageNo, q.val = page.toNat →
      (¬ s.Owns p q → exec (.free p t page) s = .next (s.reply p t 0x11 .denied)) ∧
      (s.Owns p q → 0 < (s.page q).mapCount ∨ 0 < (s.page q).pinCount ∨ s.lockOf q ≠ none →
        exec (.free p t page) s = .next (s.reply p t 0x11 .inUse)) ∧
      (s.Owns p q → (s.page q).mapCount = 0 → (s.page q).pinCount = 0 → s.lockOf q = none →
        let new : PageState := if (s.page q).poisoned then .retired
          else if (s.bank (bankOf q)).state = .online then .free else .withheld
        let u := (((({ s with freeList := if new = .free then s.freeList ++ [q] else s.freeList } : State).modBank
            (bankOf q) fun b => (b.remove .allocated).insert new).modPage q fun r =>
            { r with state := new, owner := none, grants := noGrants }).modOwned p (· - 1)).reply p t 0x11 .ok
        exec (.free p t page) s = .next
          (if new = .free then u
           else if new = .retired ∧ (s.bank (bankOf q)).state = .online then u.retireLimitCheck (bankOf q)
           else u.bankOfflineCheck (bankOf q)))

/-- The release of a page (R10, R11): its lock entry is dissolved first, each holder on an OPEN port told LEASE-LOST and
each waiter answered NOT-FOUND, and the page goes where its mark and its bank send it. A claim that lowers a count releases the
page where it leaves an ORPHANED page without a use, with the bank checks of the release (R6 to R8). -/
def Obligations.ReleasePlacesThePage : Prop :=
  (∀ (s : State) (q : PageNo),
    let unpinned := s.modPage q fun r => { r with pinCount := r.pinCount - 1 }
    let unmapped := s.modPage q fun r => { r with mapCount := r.mapCount - 1 }
    (s.SurvivesUnpin q → s.unpinClaim q = unpinned) ∧
    (¬ s.SurvivesUnpin q → s.unpinClaim q = s.settleBank (unpinned.releasePage q) q) ∧
    (s.SurvivesUnmap q → s.unmapClaim q = unmapped) ∧
    (¬ s.SurvivesUnmap q → s.unmapClaim q = s.settleBank (unmapped.releasePage q) q)) ∧
  ∀ (s : State) (q : PageNo), s.LockTableSound →
    let u := s.releasePage q
    u.lockOf q = none ∧ (∀ x, x ≠ q → u.lockOf x = s.lockOf x ∧ u.page x = s.page x) ∧
    u.page q =
      { s.page q with
        state := if (s.page q).poisoned then .retired
                 else if (s.bank (bankOf q)).state = .online then .free else .withheld,
        owner := none, grants := noGrants } ∧
    u.freeList = (if (s.page q).poisoned = false ∧ (s.bank (bankOf q)).state = .online then s.freeList ++ [q]
      else s.freeList) ∧
    u.bank (bankOf q) = ((s.bank (bankOf q)).remove (s.page q).state).insert (u.page q).state ∧
    (∀ b, b ≠ bankOf q → u.bank b = s.bank b) ∧
    (∀ l, s.lockOf q = some l → ∀ p,
      (∀ h ∈ l.holders, h.port = p → u.port p = (s.port p).offerEvent (.leaseLost q)) ∧
      (∀ w ∈ l.waiters, w.port = p → u.port p =
        if (s.port p).session = .opened then
          { s.port p with slots := (s.port p).slots.filter (·.tag ≠ w.tag) }.offerReply w.tag 0x40 .notFound .none
        else { s.port p with slots := (s.port p).slots.filter (·.tag ≠ w.tag) }) ∧
      (l.holds p = false → l.waits p = false → u.port p = s.port p)) ∧
    (s.lockOf q = none → u.ports = s.ports) ∧
    u = { s with pages := u.pages, freeList := u.freeList, banks := u.banks, locks := u.locks, ports := u.ports }

/-- GRANT that raises or keeps a right, and GRANT's checks (R17, R18). -/
def Obligations.GrantRaisesARight : Prop :=
  ∀ (p : Port) (t : Tag) (page : Half) (target right : Byte) (s : State) (g : Right), s.Takes p t → rightOf right = some g →
    (2048 ≤ page.toNat ∨ 4 ≤ target.toNat →
      exec (.grant p t page target right) s = .next (s.reply p t 0x12 .bounds)) ∧
    ∀ (q : PageNo) (x : Port), q.val = page.toNat → x.val = target.toNat →
      (¬ s.Owns p q → exec (.grant p t page target right) s = .next (s.reply p t 0x12 .denied)) ∧
      (s.Owns p q → x = p ∨ (s.port x).session ≠ .opened →
        exec (.grant p t page target right) s = .next (s.reply p t 0x12 .badState)) ∧
      (s.Owns p q → x ≠ p → (s.port x).session = .opened → (s.page q).grants[x].code ≤ g.code →
        exec (.grant p t page target right) s =
          .next ((s.modPage q fun r => { r with grants := r.grants.set x g }).reply p t 0x12 .ok))

/-- GRANT that lowers a right (R19 to R21, R39): the target's entries naming the page are made READ-ONLY or disabled, set A
before set B in frame order, the owner is answered, and MAP-CHANGED lists the entries that changed, at most 64 in one
event. -/
def Obligations.GrantLowersARight : Prop :=
  ∀ (p : Port) (t : Tag) (page : Half) (target right : Byte) (s : State) (q : PageNo) (x : Port) (g : Right), s.Takes p t →
    rightOf right = some g → q.val = page.toNat → x.val = target.toNat → s.Owns p q → x ≠ p →
    (s.port x).session = .opened → g.code < (s.page q).grants[x].code →
    let hit : FrameEntry → Bool := fun e => match e with
      | none => false
      | some e => e.page == q && (g == .none || e.access == .readWrite)
    let change : MapChange := if g = .none then .removed else .readOnly
    let changed : List ChangedEntry :=
      ((List.finRange 64).filter fun f => hit (s.resolve x .a f)).map (fun f => { set := .a, frame := f, change := change }) ++
        ((List.finRange 64).filter fun f => hit (s.resolve x .b f)).map (fun f => { set := .b, frame := f, change := change })
    ∃ u, exec (.grant p t page target right) s = .next u ∧
      (∀ y set f, u.resolve y set f =
        if y = x ∧ hit (s.resolve y set f) = true then
          (if g = .none then none else (s.resolve y set f).map fun e => { e with access := .readOnly })
        else s.resolve y set f) ∧
      u.page q = { s.page q with grants := (s.page q).grants.set x g,
                                 mapCount := (s.page q).mapCount - (if g = .none then changed.length else 0) } ∧
      (∀ y, y ≠ q → u.page y = s.page y) ∧
      (∀ y, (u.map y).present = (s.map y).present ∧ (u.map y).pendingSet = (s.map y).pendingSet ∧
        (u.map y).inFlight = (s.map y).inFlight) ∧
      u.ports = (let v := s.reply p t 0x12 .ok
        if changed = [] then v
        else
          let v := v.modPort x (·.offerEvent (.mapChanged q (changed.take 64)))
          if changed.length ≤ 64 then v else v.modPort x (·.offerEvent (.mapChanged q (changed.drop 64)))).ports ∧
      u = { s with pages := u.pages, maps := u.maps, ports := u.ports }

/-- PAGE-QUERY, MAP-QUERY and POOL-QUERY (R23, R45, R201): a copy of the page record, of the entries asked for with the port's
selection, and of the pool's and the ports' records, as they stand. -/
def Obligations.QueriesReportWhatTheyAsk : Prop :=
  (∀ (p : Port) (t : Tag) (page : Half) (s : State), s.Takes p t →
     (2048 ≤ page.toNat → exec (.pageQuery p t page) s = .next (s.reply p t 0x13 .bounds)) ∧
     ∀ q : PageNo, q.val = page.toNat →
       exec (.pageQuery p t page) s = .next (s.reply p t 0x13 .ok (.pageRecord q (s.page q)))) ∧
  (∀ (p : Port) (t : Tag) (setCode first count : Byte) (s : State) (set : MapSet), s.Takes p t →
     mapSetOf setCode = some set →
     (64 ≤ first.toNat ∨ count.toNat = 0 ∨ 64 < count.toNat ∨ 64 < first.toNat + count.toNat →
       exec (.mapQuery p t setCode first count) s = .next (s.reply p t 0x23 .bounds)) ∧
     (1 ≤ count.toNat → first.toNat + count.toNat ≤ 64 → ∃ es : List FrameEntry, es.length = count.toNat ∧
       (∀ i (h : i < es.length), ∃ f : FrameNo, f.val = first.toNat + i ∧ es[i] = s.resolve p set f) ∧
       exec (.mapQuery p t setCode first count) s = .next (s.reply p t 0x23 .ok
         (.selection (s.map p).present (s.map p).pendingSet set first.toNat es)))) ∧
  (∀ (p : Port) (t : Tag) (s : State), s.Takes p t → s.role = some p →
     exec (.poolQuery p t) s = .next (s.reply p t 0x64 .ok (.pool s.freeList.length s.banks (some p)
       #v[(s.port 0).session, (s.port 1).session, (s.port 2).session, (s.port 3).session])))

/-! ## Frame maps (chapter 2) -/

/-- MAP (R34, R35): the checks, and the four cases of the write with their map count claims; the reply comes after the whole claim,
the release of a replaced page and its bank's move included (R8, R10). UNMAP (R37): the entry is disabled with its claim, and
the last use of an ORPHANED page releases it before the reply, which stands before a BANK-STATE of the release (R129). -/
def Obligations.MapAndUnmapWriteTheEntry : Prop :=
  (∀ (p : Port) (t : Tag) (setCode frame : Byte) (page : Half) (accessCode : Byte) (s : State) (set : MapSet) (a : Access),
     s.Takes p t → mapSetOf setCode = some set → accessOf accessCode = some a →
     (64 ≤ frame.toNat ∨ 2048 ≤ page.toNat →
       exec (.map p t setCode frame page accessCode) s = .next (s.reply p t 0x20 .bounds)) ∧
     ∀ (f : FrameNo) (q : PageNo), f.val = frame.toNat → q.val = page.toNat →
       let right := (s.page q).rightOf p
       let allowed := right = .readWrite ∨ right = .read ∧ a = .readOnly
       let written := s.setEntry p set f (some { page := q, access := a })
       let up := fun (r : PageRec) => { r with mapCount := r.mapCount + 1 }
       let down := fun (r : PageRec) => { r with mapCount := r.mapCount - 1 }
       (¬ allowed → exec (.map p t setCode frame page accessCode) s = .next (s.reply p t 0x20 .denied)) ∧
       (allowed →
         (s.resolve p set f = none → exec (.map p t setCode frame page accessCode) s =
           .next ((written.modPage q up).reply p t 0x20 .ok (.previous none))) ∧
         (∀ e, s.resolve p set f = some e → e.page = q → exec (.map p t setCode frame page accessCode) s =
           .next (written.reply p t 0x20 .ok (.previous (some q)))) ∧
         (∀ e, s.resolve p set f = some e → e.page ≠ q →
           (s.SurvivesUnmap e.page → exec (.map p t setCode frame page accessCode) s =
             .next (((written.modPage q up).modPage e.page down).reply p t 0x20 .ok (.previous (some e.page)))) ∧
           (¬ s.SurvivesUnmap e.page → exec (.map p t setCode frame page accessCode) s =
             .next ((s.settleBank (((written.modPage q up).modPage e.page down).releasePage e.page) e.page).reply p t 0x20 .ok
               (.previous (some e.page))))))) ∧
  (∀ (p : Port) (t : Tag) (setCode frame : Byte) (s : State) (set : MapSet), s.Takes p t → mapSetOf setCode = some set →
     (64 ≤ frame.toNat → exec (.unmap p t setCode frame) s = .next (s.reply p t 0x21 .bounds)) ∧
     ∀ f : FrameNo, f.val = frame.toNat →
       (s.resolve p set f = none → exec (.unmap p t setCode frame) s = .next (s.reply p t 0x21 .unmapped)) ∧
       ∀ e, s.resolve p set f = some e →
         let cleared := (s.setEntry p set f none).modPage e.page fun r => { r with mapCount := r.mapCount - 1 }
         (s.SurvivesUnmap e.page → exec (.unmap p t setCode frame) s =
           .next (cleared.reply p t 0x21 .ok (.previous (some e.page)))) ∧
         (¬ s.SurvivesUnmap e.page → exec (.unmap p t setCode frame) s =
           .next (s.settleBank ((cleared.releasePage e.page).reply p t 0x21 .ok (.previous (some e.page))) e.page)))

/-- SELECT (R41): the first case that applies. SWITCH (R43), and the same switch inside other steps: with a SELECT pending and no
access in flight the pending set becomes present, the SELECT is answered and its slot freed, and then the HELD requests go to
their units in the order they were taken. Otherwise nothing happens (log entry 3). -/
def Obligations.SelectAndSwitch : Prop :=
  (∀ (p : Port) (t : Tag) (setCode : Byte) (s : State) (set : MapSet), s.Takes p t → mapSetOf setCode = some set →
     ((s.map p).pendingSet ≠ none → exec (.selectSet p t setCode) s = .next (s.reply p t 0x22 .badState)) ∧
     ((s.map p).pendingSet = none → (s.map p).present = set →
       exec (.selectSet p t setCode) s = .next (s.reply p t 0x22 .ok)) ∧
     ((s.map p).pendingSet = none → (s.map p).present ≠ set → (s.map p).inFlight = 0 →
       exec (.selectSet p t setCode) s = .next ((s.modMap p fun m => { m with present := set }).reply p t 0x22 .ok)) ∧
     ((s.map p).pendingSet = none → (s.map p).present ≠ set → (s.map p).inFlight ≠ 0 →
       exec (.selectSet p t setCode) s =
         .next ((s.withSlot p t (.selectSet set) .inFlight).modMap p fun m => { m with pendingSet := some set }))) ∧
  ∀ (s : State) (p : Port), s.phase = .running →
    exec (.switch p) s = .next (s.switchCheck p) ∧
    ((s.map p).pendingSet = none ∨ (s.map p).inFlight ≠ 0 → exec (.switch p) s = .next s) ∧
    ∀ set t before after, (s.map p).pendingSet = some set → (s.map p).inFlight = 0 →
      (s.port p).slots = before ++ { tag := t, request := .selectSet set, state := .inFlight } :: after →
      (∀ x ∈ before ++ after, x.tag ≠ t ∧ (x.state = .inFlight → ∀ y, x.request ≠ .selectSet y)) →
      exec (.switch p) s = .next
        (((before ++ after).filter (·.state == .held)).foldl
          (fun u x => (u.modPort p (·.setSlot x.tag .inFlight)).handHeld p x.tag x.request)
          (((s.modMap p fun m => { m with present := set, pendingSet := none }).modPort p fun c =>
            { c with slots := before ++ after }).reply p t 0x22 .ok))

/-! ## Accesses (chapter 3) -/

/-- An access's checks in order (R48 to R52): BOUNDS, UNMAPPED, DENIED, MEDIA-ERROR, LOCKED; and the placement of one that passes
them (R53, R54): its in-flight record, its pin, its operation at the tail of its bank's queue, the two in-flight counts, and
its slot IN-FLIGHT. No reply is offered. WRITE and the five atomics write, READ and the five atomics read; their replies echo the
codes of Table 9-1. -/
def Obligations.AccessIsRefusedOrPlaced : Prop :=
  ((∀ n, (StoreKind.read n).writes = false ∧ (StoreKind.read n).reads = true) ∧
   (∀ data, (StoreKind.write data).writes = true ∧ (StoreKind.write data).reads = false) ∧
   (∀ op, (StoreKind.readThenWrite op).writes = true ∧ (StoreKind.readThenWrite op).reads = true) ∧
   (∀ n, (StoreKind.read n).code = 0x30) ∧ (∀ data, (StoreKind.write data).code = 0x31) ∧
   (∀ v, (StoreKind.readThenWrite (.swap v)).code = 0x32) ∧ (∀ e n, (StoreKind.readThenWrite (.cas e n)).code = 0x33) ∧
   (∀ d, (StoreKind.readThenWrite (.add d)).code = 0x34) ∧ (∀ i, (StoreKind.readThenWrite (.testclr i)).code = 0x35) ∧
   (StoreKind.readThenWrite .dectest).code = 0x36) ∧
  (∀ (c : Instr) (p : Port) (t : Tag) (frame : Byte) (offset : Half) (kind : StoreKind) (s : State),
     AccessCommand c p t frame offset kind → s.TakesAtOnce p t →
     let refused := fun st => exec c s = .next (s.reply p t kind.code st)
     (¬ AccessInRange frame offset kind → refused .bounds) ∧
     (AccessInRange frame offset kind → ∀ f : FrameNo, f.val = frame.toNat →
       (s.resolve p (s.map p).present f = none → refused .unmapped) ∧
       ∀ e, s.resolve p (s.map p).present f = some e →
         let denied := kind.writes = true ∧ e.access = .readOnly
         let poisoned := kind.reads = true ∧ (s.page e.page).poisoned = true
         (denied → refused .denied) ∧ (¬ denied → poisoned → refused .mediaError) ∧
         (¬ denied → ¬ poisoned → kind.writes = true → s.LockedAgainst e.page p → refused .locked))) ∧
  (∀ (c : Instr) (p : Port) (t : Tag) (frame : Byte) (offset : Half) (kind : StoreKind) (s : State) (f : FrameNo) (e : Entry),
     AccessCommand c p t frame offset kind → s.TakesAtOnce p t → AccessInRange frame offset kind → f.val = frame.toNat →
     s.resolve p (s.map p).present f = some e → ¬ (kind.writes = true ∧ e.access = .readOnly) →
     ¬ (kind.reads = true ∧ (s.page e.page).poisoned = true) → ¬ (kind.writes = true ∧ s.LockedAgainst e.page p) →
     exec c s = .next
       ((((({ s with accesses := s.accesses ++
               [{ port := p, tag := t, kind := kind, page := e.page, offset := offset.toNat }] } : State).modPage e.page fun r =>
           { r with pinCount := r.pinCount + 1 }).modQueue (bankOf e.page)
           (· ++ [{ origin := .access p t, kind := kind, page := e.page, offset := offset.toNat }])).modMap p fun m =>
           { m with inFlight := m.inFlight + 1 }).modPort p fun c =>
           { c with inFlight := c.inFlight + 1,
                    slots := c.slots ++ [{ tag := t, request := .access frame offset kind, state := .inFlight }] }))

/-- What a store operation that completes good does to the pool, byte by byte, and what its reply carries (R55 to R62, R66). A
write renews the check code of every word it touches, over the bytes it writes and the stored bytes it leaves; that a read which
repairs a word stores nothing is the model's choice (log entry 11). -/
def Obligations.StoreOperationsOnThePool : Prop :=
  ∀ (op : StoreOp) (m : Pool), m.wf = true →
    let u := op.store m
    let renews := fun n : Nat =>
      (∀ a, a < op.addr ∨ op.addr + n ≤ a → readByte u.cells a = readByte m.cells a) ∧
      ∀ w, ((∃ i < n, (op.addr + i) / 4 = w) → u.damageOf w = none) ∧
        ((∀ i < n, (op.addr + i) / 4 ≠ w) → u.damageOf w = m.damageOf w)
    (∀ n, op.kind = .read n → u = m ∧ op.result m = .bytes ((List.range n).map fun i => m.byte (op.addr + i))) ∧
    (∀ data, op.kind = .write data → op.result m = .none ∧ renews data.length ∧
      ∀ i (h : i < data.length), u.byte (op.addr + i) = data[i]) ∧
    ∀ a, op.kind = .readThenWrite a →
      let w := m.wordAt op.addr
      let stores := fun new => u.wordAt op.addr = new ∧ renews 4
      (op.addr % 4 = 0 → op.readable m = true → m.delivers (op.addr / 4) = some w) ∧
      (∀ v, a = .swap v → stores v ∧ op.result m = .old w) ∧
      (∀ expected new, a = .cas expected new →
        (w = expected → stores new ∧ op.result m = .oldSwapped w true) ∧
        (w ≠ expected → u = m ∧ op.result m = .oldSwapped w false)) ∧
      (∀ d, a = .add d → stores (w + d) ∧ op.result m = .old w) ∧
      (∀ bit, a = .testclr bit → bit < 32 →
        (w.getLsbD bit = true → op.result m = .priorBit true ∧ renews 4 ∧
          ∀ i, (u.wordAt op.addr).getLsbD i = (w.getLsbD i && decide (i ≠ bit))) ∧
        (w.getLsbD bit = false → u = m ∧ op.result m = .priorBit false)) ∧
      (a = .dectest →
        (w = 0 → u = m ∧ op.result m = .countdown 0 .wasZero) ∧
        (w = 1 → stores 0 ∧ op.result m = .countdown 0 .reachedZero) ∧
        (w ≠ 0 → w ≠ 1 → stores (w - 1) ∧ op.result m = .countdown (w - 1) .nonzero))

/-- Check codes and faults of the medium (R66): what a read delivers for a word, when a read is uncorrectable, and what a fault
leaves. Which faults arise, and which word an uncorrectable completion finds beyond repair where none has arisen before it, is
the model's choice (log entry 11); the statement holds for every list of faults. -/
def Obligations.FaultsOfTheMedium : Prop :=
  (∀ (m : Pool) (w : Nat),
    (m.damageOf w = none → m.delivers w = some (readWord m.cells (4 * w)) ∧
      ∀ i < 4, m.byte (4 * w + i) = readByte m.cells (4 * w + i)) ∧
    ∀ d, m.damageOf w = some d → m.delivers w = d.repaired ∧
      ∀ v, d.repaired = some v → ∀ i < 4, m.byte (4 * w + i) = (v >>> (8 * i)).setWidth 8) ∧
  (∀ (op : StoreOp) (m : Pool),
    (∀ data, op.kind = .write data → op.readable m = true) ∧
    (∀ n, op.kind = .read n → (op.readable m = true ↔ ∀ i < n, m.delivers ((op.addr + i) / 4) ≠ none)) ∧
    ∀ a, op.kind = .readThenWrite a → (op.readable m = true ↔ ∀ i < 4, m.delivers ((op.addr + i) / 4) ≠ none)) ∧
  (∀ (m : Pool) (f : WordFault), m.wf = true →
    readWord (m.strike f).cells (4 * f.word) = f.stored ∧
    (m.strike f).delivers f.word = (if f.repairable = true then m.delivers f.word else none) ∧
    ∀ w : Nat, w ≠ f.word → (m.strike f).delivers w = m.delivers w ∧
      readWord (m.strike f).cells (4 * w) = readWord m.cells (4 * w)) ∧
  ∀ s : State,
    (s.faults = [] → s.befall = s) ∧
    (∀ fs rest, s.faults = fs :: rest → s.befall = { s with pool := fs.foldl Pool.strike s.pool, faults := rest }) ∧
    ∀ op : StoreOp, s.PoolCanonical → op.offset < 4096 →
      (op.readable s.befall.pool = false → s.befallBad op = s.befall) ∧
      (op.readable s.befall.pool = true → s.befallBad op = { s.befall with pool := (s.befallBad op).pool } ∧
        (s.befallBad op).pool.cells = s.befall.pool.cells ∧
        ∀ w, (s.befallBad op).pool.delivers w = if w = op.addr / 4 then none else s.befall.pool.delivers w)

/-- The completion of an access (R65, R66, R68, R69, R71, R130). A good one performs its store; the record goes, the pin falls with
the release it may cause (R8, R10), the reply is offered to an OPEN port and discarded otherwise, the slot is freed, both
in-flight counts fall, and then the switch (R43) and the end of CLOSING (R155) are tested. An uncorrectable one, of an access
that reads, stores nothing, poisons the page first, and its reply is MEDIA-ERROR. An operation that reads a word beyond repair
does not complete good, and one that reads nothing does not complete uncorrectable (log entry 3). The model's are also the
messages of the release before the reply (log entry 24) and the faults of the medium before the operation (log entry 11). -/
def Obligations.CompletionsAnswerTheAccess : Prop :=
  ∀ (s : State) (b : BankNo) (op : StoreOp) (rest : List StoreOp) (p : Port) (t : Tag), s.phase = .running →
    s.queue b = op :: rest → op.origin = .access p t →
    let ends := fun (m : State) (st : Status) (pay : Payload) =>
      let claimed := ({ m with accesses := m.accesses.filter fun r => !(r.port == p && r.tag == t) }.modQueue b
        fun _ => rest).unpinClaim op.page
      let replied := if (s.port p).session = .opened then
          claimed.modPort p fun c => { c with slots := c.slots.filter (·.tag ≠ t) }.offerReply t op.kind.code st pay
        else claimed.modPort p fun c => { c with slots := c.slots.filter (·.tag ≠ t) }
      (((replied.modMap p fun m => { m with inFlight := m.inFlight - 1 }).modPort p fun c =>
        { c with inFlight := c.inFlight - 1 }).switchCheck p).closedCheck p
    (op.readable s.befall.pool = true → exec (.accessCompletionGood b) s =
      .next (ends { s.befall with pool := op.store s.befall.pool } .ok (op.result s.befall.pool))) ∧
    (op.readable s.befall.pool = false → exec (.accessCompletionGood b) s = .next s) ∧
    (op.kind.reads = true → exec (.accessCompletionUncorrectable b) s =
      .next (ends ((s.befallBad op).modPage op.page fun r => { r with poisoned := true }) .mediaError .none)) ∧
    (op.kind.reads = false → exec (.accessCompletionUncorrectable b) s = .next s)

/-! ## Page locks (chapter 4) -/

/-- ACQUIRE (R79, R81 to R84): the checks in order, the grant at once, and the wait. -/
def Obligations.AcquireGrantsOrWaits : Prop :=
  ∀ (p : Port) (t : Tag) (frame modeCode : Byte) (lease wait : Half) (s : State) (mode : LockMode), s.TakesAtOnce p t →
    lockModeOf modeCode = some mode →
    let c := Instr.acquire p t frame modeCode lease wait
    let refused := fun st => exec c s = .next (s.reply p t 0x40 st)
    let granted := if lease.toNat = 0 then s.config.defaultLease else lease.toNat
    let holder : Holder := { port := p, mode := mode, remaining := granted }
    (64 ≤ frame.toNat → refused .bounds) ∧
    ∀ f : FrameNo, f.val = frame.toNat →
      (s.resolve p (s.map p).present f = none → refused .unmapped) ∧
      ∀ e, s.resolve p (s.map p).present f = some e →
        (mode = .exclusive → e.access = .readOnly → refused .denied) ∧
        (¬ (mode = .exclusive ∧ e.access = .readOnly) →
          (s.lockOf e.page = none → 32 ≤ s.locks.length → refused .tableFull) ∧
          (s.lockOf e.page = none → s.locks.length < 32 → exec c s = .next
            (({ s with locks := s.locks ++ [{ page := e.page, holders := [holder], waiters := [] }] } : State).reply p t 0x40 .ok
              (.lease e.page granted))) ∧
          ∀ l, s.lockOf e.page = some l →
            let atOnce := mode = .shared ∧ l.waiters = [] ∧ ∀ h ∈ l.holders, h.mode = .shared
            (l.holds p = true ∨ l.waits p = true → refused .alreadyHeld) ∧
            (l.holds p = false → l.waits p = false →
              (atOnce → exec c s = .next ((s.modLock e.page fun l => { l with holders := l.holders ++ [holder] }).reply
                p t 0x40 .ok (.lease e.page granted))) ∧
              (¬ atOnce → wait.toNat = 0 → refused .contended) ∧
              (¬ atOnce → wait.toNat ≠ 0 → exec c s = .next
                ((s.modLock e.page fun l =>
                  { l with waiters := l.waiters ++
                      [{ port := p, mode := mode, tag := t, lease := lease,
                         remaining := if wait.toNat = 65535 then none else some wait.toNat }] }).withSlot p t
                  (.acquire frame mode lease wait) .waiting))))

/-- RELEASE and RENEW (R89, R90): a holder record goes, with the grant step on the lists that are left, or takes a new lease
with no grant step. -/
def Obligations.ReleaseAndRenewAnAcquiredLock : Prop :=
  ∀ (p : Port) (t : Tag) (page lease : Half) (s : State), s.Takes p t →
    let granted := if lease.toNat = 0 then s.config.defaultLease else lease.toNat
    (2048 ≤ page.toNat → exec (.release p t page) s = .next (s.reply p t 0x41 .bounds) ∧
      exec (.renew p t page lease) s = .next (s.reply p t 0x42 .bounds)) ∧
    ∀ q : PageNo, q.val = page.toNat →
      ((∀ l, s.lockOf q = some l → l.holds p = false) → exec (.release p t page) s = .next (s.reply p t 0x41 .notFound) ∧
        exec (.renew p t page lease) s = .next (s.reply p t 0x42 .notFound)) ∧
      ∀ l, s.lockOf q = some l → l.holds p = true → l.waits p = false →
        exec (.release p t page) s =
          .next ((s.regrant q (l.holders.filter (·.port ≠ p)) l.waiters).reply p t 0x41 .ok) ∧
        exec (.renew p t page lease) s =
          .next ((s.modLock q fun l =>
            { l with holders := l.holders.map fun h => if h.port = p then { h with remaining := granted } else h }).reply
              p t 0x42 .ok (.lease q granted))

/-- The grant step (R80): which waiters it grants, and what a grant does. GRANT_STEP on an entry at rest changes nothing
(R76). -/
def Obligations.GrantStepGrantsFromTheHead : Prop :=
  (∀ lease hs, grantWaiters lease hs [] = (hs, [], [])) ∧
  (∀ lease hs (w : Waiter) ws,
    let h : Holder := { port := w.port, mode := w.mode, remaining := lease w.lease }
    (w.mode = .exclusive → hs = [] → grantWaiters lease hs (w :: ws) = ([h], ws, [w])) ∧
    (w.mode = .exclusive → hs ≠ [] → grantWaiters lease hs (w :: ws) = (hs, w :: ws, [])) ∧
    (w.mode = .shared → (∀ x ∈ hs, x.mode = .shared) → grantWaiters lease hs (w :: ws) =
      ((grantWaiters lease (hs ++ [h]) ws).1, (grantWaiters lease (hs ++ [h]) ws).2.1,
        w :: (grantWaiters lease (hs ++ [h]) ws).2.2)) ∧
    (w.mode = .shared → (∃ x ∈ hs, x.mode = .exclusive) → grantWaiters lease hs (w :: ws) = (hs, w :: ws, []))) ∧
  (∀ (s : State) (q : PageNo), s.phase = .running → s.LockTableSound → exec (.grantStep q) s = .next s) ∧
  ∀ (s : State) (q : PageNo) (l : LockEntry), s.phase = .running → s.lockOf q = some l →
    exec (.grantStep q) s = .next
      ((grantWaiters s.leaseGranted l.holders l.waiters).2.2.foldl
        (fun u w => u.modPort w.port fun c =>
          { c with slots := c.slots.filter (·.tag ≠ w.tag) }.offerReply w.tag 0x40 .ok
            (.lease q (if w.lease.toNat = 0 then s.config.defaultLease else w.lease.toNat)))
        (s.modLock q fun l' =>
          { l' with holders := (grantWaiters s.leaseGranted l.holders l.waiters).1,
                    waiters := (grantWaiters s.leaseGranted l.holders l.waiters).2.1 }))

/-- LEASE_EXPIRY and WAIT_TIMEOUT (R87, R88): the record goes, the grant step runs on what is left, and the port is told. A
run-out that is not due has no effect (log entry 3). TICK (R86, R169): every lease, every wait that is not none and every gap
timer falls by 1, and nothing else changes; the run-outs still due from the tick before are taken first, those of the gap
timers of P0 to P3, then of the leases and then of the waits, in table order (log entry 9, the model's choice). -/
def Obligations.TimersRunOutAndAreLowered : Prop :=
  (∀ (s : State) (q : PageNo) (p : Port), s.phase = .running →
     ((∀ l, s.lockOf q = some l → ∀ h ∈ l.holders, h.port = p → h.remaining ≠ 0) →
       exec (.leaseExpiry q p) s = .next s) ∧
     ((∀ l, s.lockOf q = some l → ∀ w ∈ l.waiters, w.port = p → w.remaining ≠ some 0) →
       exec (.waitTimeout q p) s = .next s) ∧
     ∀ l, s.lockOf q = some l → l.Sound →
       (∀ h ∈ l.holders, h.port = p → h.remaining = 0 → exec (.leaseExpiry q p) s =
         .next ((s.regrant q (l.holders.filter (·.port ≠ p)) l.waiters).modPort p (·.offerEvent (.leaseLost q)))) ∧
       (∀ w ∈ l.waiters, w.port = p → w.remaining = some 0 → exec (.waitTimeout q p) s =
         .next ((s.modPort p fun c => { c with slots := c.slots.filter (·.tag ≠ w.tag) }.offerReply w.tag 0x40 .timeout
           .none).regrant q l.holders (l.waiters.filter (·.port ≠ p))))) ∧
  ∀ s : State, s.phase = .running → ∃ a b c u,
    runAll ([0, 1, 2, 3].flatMap fun p => [.gapTimerRunsOut p, .resyncEnd p]) s = .next a ∧
    runAll (a.locks.flatMap fun l => (l.holders.filter (·.remaining == 0)).map fun h => .leaseExpiry l.page h.port) a = .next b ∧
    runAll (b.locks.flatMap fun l => (l.waiters.filter (·.remaining == some 0)).map fun w => .waitTimeout l.page w.port) b =
      .next c ∧
    exec .tick s = .next u ∧
    u.locks = c.locks.map (fun l =>
      { l with holders := l.holders.map fun h => { h with remaining := h.remaining - 1 },
               waiters := l.waiters.map fun w => { w with remaining := w.remaining.map (· - 1) } }) ∧
    (∀ p, u.port p = { c.port p with gap := (c.port p).gap.map (· - 1) }) ∧
    u = { c with locks := u.locks, ports := u.ports } ∧
    ((∀ p, (s.port p).gap ≠ some 0) →
      (∀ l ∈ s.locks, (∀ h ∈ l.holders, h.remaining ≠ 0) ∧ ∀ w ∈ l.waiters, w.remaining ≠ some 0) → c = s)

/-! ## The copy engine (chapter 5) -/

/-- COPY and FILL (R102 to R106): the checks in order and the acceptance, with the choice where no job is ACTIVE. With a SELECT
pending this is so of a request that names A or B alone (R42); the others are HELD (RequestsAreHeldBehindASelect). -/
def Obligations.CopyAndFillAreAcceptedOrRefused : Prop :=
  (∀ (p : Port) (t : Tag) (ss sf : Byte) (so : Half) (ds df : Byte) (dOff : Half) (n : Word) (s : State) (x y : SetCode),
     s.Takes p t → setCodeOf ss = some x → setCodeOf ds = some y →
     ((s.map p).pendingSet = none ∨ x ≠ .present ∧ y ≠ .present) →
     let c := Instr.copy p t ss sf so ds df dOff n
     let refused := fun st => exec c s = .next (s.reply p t 0x50 st)
     let setOf := fun code : SetCode => match code with
       | .named z => z
       | .present => (s.map p).present
     (¬ (RangeInWindow sf so n ∧ RangeInWindow df dOff n) → refused .bounds) ∧
     (RangeInWindow sf so n → RangeInWindow df dOff n →
       ((∀ es, ¬ s.RangeResolves p (setOf x) sf so n es) ∨ (∀ es, ¬ s.RangeResolves p (setOf y) df dOff n es) →
         refused .unmapped) ∧
       ∀ src dst, s.RangeResolves p (setOf x) sf so n src → s.RangeResolves p (setOf y) df dOff n dst →
         let shared := SharePoolByte (src.map (·.page)) so.toNat (dst.map (·.page)) dOff.toNat n.toNat
         let denied := ∃ e ∈ dst, e.access = .readOnly
         (denied → refused .denied) ∧ (¬ denied → shared → refused .overlap) ∧
         (¬ denied → ¬ shared → s.QueueFull p → refused .queueFull) ∧
         (¬ denied → ¬ shared → ¬ s.QueueFull p → ∃ id, s.GivesId id ∧
           let u := s.accepted p t 0x50 (newJob id p (.copy (setOf x) (src.map (·.page)) so.toNat) (setOf y)
             (dst.map (·.page)) dOff.toNat n.toNat)
           exec c s = .next (if ∃ j ∈ s.jobs, j.state = .active then u else u.choose)))) ∧
  (∀ (p : Port) (t : Tag) (ds df : Byte) (dOff : Half) (n pattern : Word) (s : State) (y : SetCode), s.Takes p t →
     setCodeOf ds = some y → ((s.map p).pendingSet = none ∨ y ≠ .present) →
     let c := Instr.fill p t ds df dOff n pattern
     let refused := fun st => exec c s = .next (s.reply p t 0x51 st)
     let set := match y with
       | .named z => z
       | .present => (s.map p).present
     let inRange := RangeInWindow df dOff n ∧ dOff.toNat % 4 = 0 ∧ n.toNat % 4 = 0
     (¬ inRange → refused .bounds) ∧
     (inRange →
       ((∀ es, ¬ s.RangeResolves p set df dOff n es) → refused .unmapped) ∧
       ∀ dst, s.RangeResolves p set df dOff n dst →
         let denied := ∃ e ∈ dst, e.access = .readOnly
         (denied → refused .denied) ∧ (¬ denied → s.QueueFull p → refused .queueFull) ∧
         (¬ denied → ¬ s.QueueFull p → ∃ id, s.GivesId id ∧
           let u := s.accepted p t 0x51 (newJob id p (.fill pattern) set (dst.map (·.page)) dOff.toNat n.toNat)
           exec c s = .next (if ∃ j ∈ s.jobs, j.state = .active then u else u.choose))))

/-- The segment at a job's bytes done (R108): 1 to 64 bytes, inside the job, inside one page on each side, and as long as those
limits allow. A decision point (R111 to R113): the tests in order, DONE and CANCELLED first. -/
def Obligations.SegmentsAndDecisionPoints : Prop :=
  (∀ j : Job, j.bytesDone < j.length →
     let n := j.segmentLength
     let dst := (j.dstStart + j.bytesDone) % 4096
     1 ≤ n ∧ n ≤ 64 ∧ j.bytesDone + n ≤ j.length ∧ dst + n ≤ 4096 ∧
       (∀ set pages start, j.kind = .copy set pages start → (start + j.bytesDone) % 4096 + n ≤ 4096 ∧
         (n = 64 ∨ j.bytesDone + n = j.length ∨ dst + n = 4096 ∨ (start + j.bytesDone) % 4096 + n = 4096)) ∧
       ∀ pattern, j.kind = .fill pattern → n = 64 ∨ j.bytesDone + n = j.length ∨ dst + n = 4096) ∧
  ∀ (s : State) (j : Job),
    (j.bytesDone = j.length → s.decide j = .finish .done) ∧
    (j.bytesDone < j.length → j.cancel = true → s.decide j = .finish .cancelled) ∧
    ∀ dst, j.bytesDone < j.length → j.cancel = false → j.dstPages[(j.dstStart + j.bytesDone) / 4096]? = some dst →
      let offset := (j.dstStart + j.bytesDone) % 4096
      let locked := (j.bytesDone = 0 ∨ offset = 0) ∧ ∃ l, s.lockOf dst = some l ∧ ∃ h ∈ l.holders, h.port ≠ j.port
      (locked → s.decide j = .finish .locked) ∧
      (¬ locked →
        (∀ pattern, j.kind = .fill pattern →
          s.decide j = .place (.write (patternBytes pattern j.segmentLength)) (dst, offset)) ∧
        ∀ set pages start src, j.kind = .copy set pages start → pages[(start + j.bytesDone) / 4096]? = some src →
          ((s.page src).poisoned = true → s.decide j = .finish .mediaError) ∧
          ((s.page src).poisoned = false →
            s.decide j = .place (.read j.segmentLength) (src, (start + j.bytesDone) % 4096)))

/-- The bytes a FILL's segment writes, the pattern's bytes over and over, least significant first (R103, R110); and JOB_CHOICE
(R107): the job the choice takes becomes ACTIVE and its port last served, and its first decision point runs in the same step,
with a new choice if that ends it. A choice that is not due changes nothing (log entry 3, the model's choice). -/
def Obligations.ChoiceTakesTheNextPortsOldestJob : Prop :=
  (∀ (pattern : Word) (n : Nat), (patternBytes pattern n).length = n ∧
    ∀ i (h : i < (patternBytes pattern n).length), ∀ k < 8,
      ((patternBytes pattern n)[i]).getLsbD k = pattern.getLsbD (8 * (i % 4) + k)) ∧
  ∀ s : State, s.phase = .running →
    ((∃ j ∈ s.jobs, j.state = .active) → exec .jobChoice s = .next s) ∧
    ((∀ j ∈ s.jobs, j.state ≠ .queued) → exec .jobChoice s = .next s) ∧
    ((∀ j ∈ s.jobs, j.state = .queued) → ∀ j, s.Chooses j →
      let active := { j with state := .active }
      let jobs := s.jobs.map fun (x : Job) => if x.id = j.id then { x with state := JobState.active } else x
      let u := { s with jobs := jobs, lastServed := j.port }
      (∀ kind place, s.decide active = .place kind place → exec .jobChoice s =
        .next (u.modQueue (bankOf place.1)
          (· ++ [{ origin := .copy j.id, kind := kind, page := place.1, offset := place.2 }]))) ∧
      ∀ outcome, s.decide active = .finish outcome →
        exec .jobChoice s = .next (u.finishJob active outcome).choose)

/-- The end of a job (R114, R119, R120) but for the choice that follows: the record leaves, its pins fall, one claim for each place
with the release it may cause (R8, R10), and JOB-END goes to an OPEN port with the bytes moved; a port that is not OPEN gets
none, and its CLOSING ends if nothing of it is in flight (R155). Source places before destination places is the model's order
(log entry 22). -/
def Obligations.JobEndReportsTheBytesMoved : Prop :=
  ∀ (s : State) (j : Job) (outcome : JobOutcome),
    let u := j.pages.foldl State.unpinClaim { s with jobs := s.jobs.filter (·.id ≠ j.id) }
    (∀ set pages start, j.kind = .copy set pages start → j.pages = pages ++ j.dstPages) ∧
    (∀ pattern, j.kind = .fill pattern → j.pages = j.dstPages) ∧
    ((s.port j.port).session = .opened → s.finishJob j outcome =
      u.modPort j.port (·.offerEvent (.jobEnd j.id outcome j.bytesDone))) ∧
    ((s.port j.port).session ≠ .opened → s.finishJob j outcome =
      (u.modPort j.port fun c => { c with activeJob := false }).closedCheck j.port)

/-- COPY_READ_COMPLETE and COPY_READ_UNCORRECTABLE (R66, R109, R113): the bytes read go to the segment buffer and their write is
placed in the same step; or the page is poisoned and the job ends MEDIA-ERROR. A read of a word beyond repair does not complete
good (log entry 3); the faults of the medium before it are those of log entry 11. -/
def Obligations.CopyReadPlacesItsWrite : Prop :=
  ∀ (s : State) (b : BankNo) (op : StoreOp) (rest : List StoreOp) (id : Byte) (n : Nat) (before after : List Job) (j : Job),
    s.phase = .running → s.queue b = op :: rest → op.origin = .copy id → op.kind = .read n →
    s.jobs = before ++ j :: after → (∀ x ∈ before, x.state ≠ .active) → j.state = .active →
    (op.readable s.befall.pool = true → ∀ dst, j.dstPages[(j.dstStart + j.bytesDone) / 4096]? = some dst →
      let data := (List.range n).map fun i => s.befall.pool.byte (op.addr + i)
      exec (.copyReadComplete b) s = .next
        ((({ s.befall with segment := data } : State).modQueue b fun _ => rest).modQueue (bankOf dst)
          (· ++ [{ origin := .copy id, kind := .write data, page := dst,
                   offset := (j.dstStart + j.bytesDone) % 4096 }]))) ∧
    (op.readable s.befall.pool = false → exec (.copyReadComplete b) s = .next s) ∧
    exec (.copyReadUncorrectable b) s = .next
      (((((s.befallBad op).modPage op.page fun r => { r with poisoned := true }).modQueue b fun _ => rest).finishJob j
        .mediaError).choose)

/-- COPY_WRITE_COMPLETE (R109 to R111): the bytes are stored, bytes done rises by the segment's length, and the next decision
point places the next operation or ends the job. That the segment buffer is then empty is the model's choice (log entry 7),
and the faults of the medium before it are those of log entry 11. -/
def Obligations.CopyWriteRaisesBytesDone : Prop :=
  ∀ (s : State) (b : BankNo) (op : StoreOp) (rest : List StoreOp) (id : Byte) (data : List Byte) (before after : List Job)
    (j : Job), s.phase = .running → s.queue b = op :: rest → op.origin = .copy id → op.kind = .write data →
    s.jobs = before ++ j :: after → (∀ x ∈ before, x.state ≠ .active) → j.state = .active →
    let moved := { j with bytesDone := j.bytesDone + data.length }
    let jobs := s.jobs.map fun (x : Job) => if x.id = j.id then { x with bytesDone := x.bytesDone + data.length } else x
    let u := { s.befall with pool := op.store s.befall.pool, segment := [], jobs := jobs }.modQueue b fun _ => rest
    (∀ kind place, s.decide moved = .place kind place → exec (.copyWriteComplete b) s =
      .next (u.modQueue (bankOf place.1)
        (· ++ [{ origin := .copy j.id, kind := kind, page := place.1, offset := place.2 }]))) ∧
    ∀ outcome, s.decide moved = .finish outcome →
      exec (.copyWriteComplete b) s = .next (u.finishJob moved outcome).choose

/-- CANCEL and JOB-QUERY (R116, R118): of a QUEUED job the reply stands first and JOB-END last, the job's pins falling between them
with the releases they may cause. The model's are the reply before every message of these (log entry 12) and source places
before destination places (log entry 22). -/
def Obligations.CancelAndJobQuery : Prop :=
  ∀ (p : Port) (t : Tag) (id : Byte) (s : State), s.Takes p t →
    ((∀ j ∈ s.jobs, ¬ (j.id = id ∧ j.port = p)) → exec (.cancel p t id) s = .next (s.reply p t 0x52 .notFound) ∧
      exec (.jobQuery p t id) s = .next (s.reply p t 0x53 .notFound)) ∧
    ∀ before after j, s.jobs = before ++ j :: after → (∀ x ∈ before, ¬ (x.id = id ∧ x.port = p)) → j.id = id →
      j.port = p →
      exec (.jobQuery p t id) s = .next (s.reply p t 0x53 .ok (.job (before.length + 1) j)) ∧
      (j.state = .active → exec (.cancel p t id) s =
        .next ({ s with jobs := s.jobs.map fun (x : Job) => if x.id = id then { x with cancel := true } else x }.reply p t 0x52
          .ok)) ∧
      (j.state = .queued → exec (.cancel p t id) s =
        .next ((j.pages.foldl State.unpinClaim ({ s with jobs := s.jobs.filter (·.id ≠ id) }.reply p t 0x52 .ok)).modPort p
          (·.offerEvent (.jobEnd id .cancelled 0))))

/-! ## Banks (chapter 6) -/

/-- DRAIN (R124, R125): the bank's FREE pages leave the free list as WITHHELD, the reply stands before the BANK-STATE events,
and a bank with no page in use goes OFFLINE in the same step. RESTORE (R127): the WITHHELD pages join the tail of the free
list in ascending order, and the bank is ONLINE. -/
def Obligations.DrainAndRestoreMoveTheBanksPages : Prop :=
  (∀ (p : Port) (t : Tag) (bank : Byte) (s : State), s.Takes p t → s.role = some p →
     (4 ≤ bank.toNat → exec (.drain p t bank) s = .next (s.reply p t 0x61 .bounds)) ∧
     ∀ b : BankNo, b.val = bank.toNat →
       ((s.bank b).state ≠ .online → exec (.drain p t bank) s = .next (s.reply p t 0x61 .badState)) ∧
       ((s.bank b).state = .online →
         let empty := (s.bank b).allocated = 0 ∧ (s.bank b).orphaned = 0
         ∃ u, exec (.drain p t bank) s = .next u ∧ u.freeList = s.freeList.filter (bankOf · ≠ b) ∧
           (∀ q, u.page q = if bankOf q = b ∧ (s.page q).state = .free then { s.page q with state := .withheld }
             else s.page q) ∧
           u.bank b = { s.bank b with state := if empty then .offline else .draining, free := 0,
                                      withheld := (s.bank b).withheld + (s.bank b).free } ∧
           (∀ x, x ≠ b → u.bank x = s.bank x) ∧
           u.ports = (let v := (s.reply p t 0x61 .ok).modPort p (·.offerEvent (.bankState b .draining .drain))
             if empty then v.modPort p (·.offerEvent (.bankState b .offline .drained)) else v).ports ∧
           u = { s with freeList := u.freeList, pages := u.pages, banks := u.banks, ports := u.ports })) ∧
  (∀ (p : Port) (t : Tag) (bank : Byte) (s : State), s.Takes p t → s.role = some p →
     (4 ≤ bank.toNat → exec (.restore p t bank) s = .next (s.reply p t 0x62 .bounds)) ∧
     ∀ b : BankNo, b.val = bank.toNat →
       ((s.bank b).state = .online → exec (.restore p t bank) s = .next (s.reply p t 0x62 .badState)) ∧
       ((s.bank b).state ≠ .online → ∃ u returned, exec (.restore p t bank) s = .next u ∧
         returned.Pairwise (· < ·) ∧ (∀ q, q ∈ returned ↔ bankOf q = b ∧ (s.page q).state = .withheld) ∧
         u.freeList = s.freeList ++ returned ∧
         (∀ q, u.page q = if q ∈ returned then { s.page q with state := .free } else s.page q) ∧
         u.bank b = { s.bank b with state := .online, withheld := 0, free := (s.bank b).free + (s.bank b).withheld } ∧
         (∀ x, x ≠ b → u.bank x = s.bank x) ∧
         u.ports = ((s.reply p t 0x62 .ok).modPort p (·.offerEvent (.bankState b .online .restore))).ports ∧
         u = { s with freeList := u.freeList, pages := u.pages, banks := u.banks, ports := u.ports }))

/-- The bank-offline check, as BANK_OFFLINE and inside other steps, the retire-limit check, and which of them a release runs
(R10, R125, R129, R134). BANK-STATE goes to the role holder and to nobody while the role is vacant. -/
def Obligations.BankChecksMoveTheBank : Prop :=
  ∀ (s : State) (b : BankNo),
    let tell := fun (u : State) (e : Event) => match s.role with
      | none => u
      | some x => u.modPort x (·.offerEvent e)
    (s.phase = .running → exec (.bankOffline b) s = .next (s.bankOfflineCheck b)) ∧
    s.bankOfflineCheck b =
      (if (s.bank b).state = .draining ∧ (s.bank b).allocated = 0 ∧ (s.bank b).orphaned = 0 then
        tell (s.modBank b fun r => { r with state := .offline }) (.bankState b .offline .drained)
      else s) ∧
    s.retireLimitCheck b =
      (if (s.bank b).state = .online ∧ s.config.retireLimit ≤ (s.bank b).retired then
        (tell ((s.withholdBank b).modBank b fun r => { r with state := .draining })
          (.bankState b .draining .retireLimit)).bankOfflineCheck b
      else s) ∧
    (∀ (u : State) (q : PageNo), (s.page q).state = (u.page q).state → s.settleBank u q = u) ∧
    ∀ (u : State) (q : PageNo), (s.page q).state ≠ (u.page q).state →
      ((u.page q).state = .free → s.settleBank u q = u) ∧
      ((u.page q).state = .withheld → s.settleBank u q = u.bankOfflineCheck (bankOf q)) ∧
      ((u.page q).state = .retired → s.settleBank u q =
        if (u.bank (bankOf q)).state = .online then u.retireLimitCheck (bankOf q) else u.bankOfflineCheck (bankOf q))

/-! ## The supervisor role (chapter 10) -/

/-- CONFIGURE (R135, R198, R199): every BOUNDS condition, then every QUOTA condition; then the named fields are written, the
reply carries the record, and the retire-limit checks run when the limit is named. -/
def Obligations.ConfigureWritesTheNamedFields : Prop :=
  ∀ (p : Port) (t : Tag) (mask gap : Byte) (lease : Half) (limit : Byte) (q0 q1 q2 q3 : Half) (s : State), s.Takes p t →
    s.role = some p → mask.getLsbD 7 = false →
    let c := Instr.configure p t mask gap lease limit q0 q1 q2 q3
    let named := fun i => mask.getLsbD i = true
    let outOfRange := (named 0 ∧ gap.toNat = 0) ∨ (named 1 ∧ lease.toNat = 0) ∨
      (named 2 ∧ (limit.toNat = 0 ∨ 64 < limit.toNat)) ∨ (named 3 ∧ 2048 < q0.toNat) ∨ (named 4 ∧ 2048 < q1.toNat) ∨
      (named 5 ∧ 2048 < q2.toNat) ∨ (named 6 ∧ 2048 < q3.toNat)
    let tooLow := (named 3 ∧ q0.toNat < s.ownedBy 0) ∨ (named 4 ∧ q1.toNat < s.ownedBy 1) ∨
      (named 5 ∧ q2.toNat < s.ownedBy 2) ∨ (named 6 ∧ q3.toNat < s.ownedBy 3)
    let config : ConfigRec :=
      { gapTime := if named 0 then gap.toNat else s.config.gapTime
        defaultLease := if named 1 then lease.toNat else s.config.defaultLease
        retireLimit := if named 2 then limit.toNat else s.config.retireLimit
        quota := #v[if named 3 then q0.toNat else s.config.quota[0], if named 4 then q1.toNat else s.config.quota[1],
                    if named 5 then q2.toNat else s.config.quota[2], if named 6 then q3.toNat else s.config.quota[3]] }
    let u := { s with config := config }.reply p t 0x60 .ok (.config config)
    (outOfRange → exec c s = .next (s.reply p t 0x60 .bounds)) ∧
    (¬ outOfRange → tooLow → exec c s = .next (s.reply p t 0x60 .quota)) ∧
    (¬ outOfRange → ¬ tooLow → exec c s = .next
      (if named 2 then (((u.retireLimitCheck 0).retireLimitCheck 1).retireLimitCheck 2).retireLimitCheck 3 else u))

/-! ## Invariants -/

/-- The pool's cells and its damaged words keep their one canonical form through every step: the model's representation of the
pool (log entry 20), so that equal pools are equal data. -/
def Obligations.StepsKeepThePoolCanonical : Prop :=
  ∀ s u : State, s.PoolCanonical → step s = .next u → u.PoolCanonical

/-- Free list, bank counts, owned counts, quotas and page records keep agreeing through every step (R3, R5, R9, R12, R122, R123),
and in a sound state so do the poisoned marks with the page states (R131 to R133). -/
def Obligations.StepsKeepTheDirectorySound : Prop :=
  (∀ s u : State, s.DirectorySound → step s = .next u → u.DirectorySound) ∧
  ∀ s u : State, s.Sound → step s = .next u → u.MarksSound

/-- Every map count stays the number of entries naming the page through every step (R6, R12). -/
def Obligations.StepsKeepMapCountsExact : Prop :=
  ∀ s u : State, s.DirectorySound → s.MapCountsExact → step s = .next u → u.MapCountsExact

/-- Every pin count stays the accesses in flight on the page and its places in the jobs' lists; pages not in use keep pin count 0
and no lock entry, and an ORPHANED page a count above 0, through every step (R7, R8, R12). -/
def Obligations.StepsKeepPinCountsExact : Prop :=
  ∀ s u : State, s.Sound → step s = .next u → u.PinCountsExact

/-- Through every step, every Port Controller keeps its bounds (R147, R175), and every transmitter keeps following its line and
its queue (R179, R180). -/
def Obligations.StepsKeepPortsBoundedAndFollowing : Prop :=
  (∀ s u : State, s.PortsBounded → step s = .next u → u.PortsBounded) ∧
  (∀ s u : State, s.TransmittersFollow → step s = .next u → u.TransmittersFollow)

/-- The role stays vacant or with an OPEN port through every step (R192). -/
def Obligations.StepsKeepTheHolderOpen : Prop :=
  ∀ s u : State, s.HolderOpen → step s = .next u → u.HolderOpen

/-- The lock table keeps its form through every step (R73 to R76). -/
def Obligations.StepsKeepTheLockTableSound : Prop :=
  ∀ s u : State, s.LockTableSound → step s = .next u → u.LockTableSound

/-- The copy queue keeps its bounds through every step (R99, R101). -/
def Obligations.StepsKeepTheJobQueueSound : Prop :=
  ∀ s u : State, s.JobQueueSound → step s = .next u → u.JobQueueSound

/-- In-flight records, both in-flight counts, bank queues and jobs keep agreeing through every step: one queued operation for
each record, and exactly one outstanding for the ACTIVE job (R40, R54, R63, R64, R107, R111, R138). They do so because the
device stays in RESET while the reset line is asserted or the supply is down (R203, R205), which every step keeps as well. -/
def Obligations.StepsKeepWorkInFlightSound : Prop :=
  (∀ s u : State, s.PhaseSound → step s = .next u → u.PhaseSound) ∧
  ∀ s u : State, s.Sound → step s = .next u → u.WorkSound

/-- What sessions and occupied slots say of the other tables stays true through every step: WAITING slots are the waiter records,
HELD slots stand only behind a pending SELECT, IN-FLIGHT slots are accesses, the deferred SELECT or the CLOSE, and a CLOSED
port has none (R138, R148, R154, R155). -/
def Obligations.StepsKeepSessionsAndSlotsSound : Prop :=
  ∀ s u : State, s.Sound → step s = .next u → u.SessionsSound ∧ u.WaitersSound ∧ u.SlotsSound

/-- Every invariant holds of the device after reset. -/
def Obligations.ResetMeetsEveryInvariant : Prop := State.reset.Sound

end
end

