-- ==== Sys2Proof/Laws/State.lean ====
section
/-! SUPPORT. What each register-file update leaves in each field of State: one lemma per field per update, and the reads of
the six register files after the six updates. No later proof unfolds a record update. -/

namespace Sys2Proof.Machine

/-! ## modPort -/

section modPort
variable (s : State) (p : Port) (f : PortCtl → PortCtl)

@[simp] theorem State.modPort_phase : (s.modPort p f).phase = s.phase := rfl
@[simp] theorem State.modPort_supplyGood : (s.modPort p f).supplyGood = s.supplyGood := rfl
@[simp] theorem State.modPort_resetAsserted : (s.modPort p f).resetAsserted = s.resetAsserted := rfl
@[simp] theorem State.modPort_nextStart : (s.modPort p f).nextStart = s.nextStart := rfl
@[simp] theorem State.modPort_straps : (s.modPort p f).straps = s.straps := rfl
@[simp] theorem State.modPort_ports : (s.modPort p f).ports = s.ports.set p (f (s.port p)) := rfl
@[simp] theorem State.modPort_pages : (s.modPort p f).pages = s.pages := rfl
@[simp] theorem State.modPort_freeList : (s.modPort p f).freeList = s.freeList := rfl
@[simp] theorem State.modPort_owned : (s.modPort p f).owned = s.owned := rfl
@[simp] theorem State.modPort_banks : (s.modPort p f).banks = s.banks := rfl
@[simp] theorem State.modPort_maps : (s.modPort p f).maps = s.maps := rfl
@[simp] theorem State.modPort_accesses : (s.modPort p f).accesses = s.accesses := rfl
@[simp] theorem State.modPort_queues : (s.modPort p f).queues = s.queues := rfl
@[simp] theorem State.modPort_pool : (s.modPort p f).pool = s.pool := rfl
@[simp] theorem State.modPort_locks : (s.modPort p f).locks = s.locks := rfl
@[simp] theorem State.modPort_jobs : (s.modPort p f).jobs = s.jobs := rfl
@[simp] theorem State.modPort_lastServed : (s.modPort p f).lastServed = s.lastServed := rfl
@[simp] theorem State.modPort_nextJobId : (s.modPort p f).nextJobId = s.nextJobId := rfl
@[simp] theorem State.modPort_segment : (s.modPort p f).segment = s.segment := rfl
@[simp] theorem State.modPort_role : (s.modPort p f).role = s.role := rfl
@[simp] theorem State.modPort_config : (s.modPort p f).config = s.config := rfl
@[simp] theorem State.modPort_schedule : (s.modPort p f).schedule = s.schedule := rfl
@[simp] theorem State.modPort_faults : (s.modPort p f).faults = s.faults := rfl
@[simp] theorem State.modPort_pending : (s.modPort p f).pending = s.pending := rfl
@[simp] theorem State.page_modPort (x : PageNo) : (s.modPort p f).page x = s.page x := rfl
@[simp] theorem State.bank_modPort (x : BankNo) : (s.modPort p f).bank x = s.bank x := rfl
@[simp] theorem State.map_modPort (x : Port) : (s.modPort p f).map x = s.map x := rfl
@[simp] theorem State.queue_modPort (x : BankNo) : (s.modPort p f).queue x = s.queue x := rfl
@[simp] theorem State.ownedBy_modPort (x : Port) : (s.modPort p f).ownedBy x = s.ownedBy x := rfl

theorem State.port_modPort (x : Port) : (s.modPort p f).port x = if x = p then f (s.port p) else s.port x := by
  simp only [State.port, State.modPort, Fin.getElem_fin, Vector.getElem_set]
  by_cases h : x = p
  · simp [h]
  · have : ¬ (p.val = x.val) := fun e => h (Fin.ext e.symm)
    simp [h, this]

@[simp] theorem State.port_modPort_same : (s.modPort p f).port p = f (s.port p) := by simp [State.port_modPort]

theorem State.port_modPort_ne {x : Port} (h : x ≠ p) : (s.modPort p f).port x = s.port x := by simp [State.port_modPort, h]

end modPort

/-! ## modPage -/

section modPage
variable (s : State) (q : PageNo) (f : PageRec → PageRec)

@[simp] theorem State.modPage_phase : (s.modPage q f).phase = s.phase := rfl
@[simp] theorem State.modPage_supplyGood : (s.modPage q f).supplyGood = s.supplyGood := rfl
@[simp] theorem State.modPage_resetAsserted : (s.modPage q f).resetAsserted = s.resetAsserted := rfl
@[simp] theorem State.modPage_nextStart : (s.modPage q f).nextStart = s.nextStart := rfl
@[simp] theorem State.modPage_straps : (s.modPage q f).straps = s.straps := rfl
@[simp] theorem State.modPage_ports : (s.modPage q f).ports = s.ports := rfl
@[simp] theorem State.modPage_pages : (s.modPage q f).pages = s.pages.set q (f (s.page q)) := rfl
@[simp] theorem State.modPage_freeList : (s.modPage q f).freeList = s.freeList := rfl
@[simp] theorem State.modPage_owned : (s.modPage q f).owned = s.owned := rfl
@[simp] theorem State.modPage_banks : (s.modPage q f).banks = s.banks := rfl
@[simp] theorem State.modPage_maps : (s.modPage q f).maps = s.maps := rfl
@[simp] theorem State.modPage_accesses : (s.modPage q f).accesses = s.accesses := rfl
@[simp] theorem State.modPage_queues : (s.modPage q f).queues = s.queues := rfl
@[simp] theorem State.modPage_pool : (s.modPage q f).pool = s.pool := rfl
@[simp] theorem State.modPage_locks : (s.modPage q f).locks = s.locks := rfl
@[simp] theorem State.modPage_jobs : (s.modPage q f).jobs = s.jobs := rfl
@[simp] theorem State.modPage_lastServed : (s.modPage q f).lastServed = s.lastServed := rfl
@[simp] theorem State.modPage_nextJobId : (s.modPage q f).nextJobId = s.nextJobId := rfl
@[simp] theorem State.modPage_segment : (s.modPage q f).segment = s.segment := rfl
@[simp] theorem State.modPage_role : (s.modPage q f).role = s.role := rfl
@[simp] theorem State.modPage_config : (s.modPage q f).config = s.config := rfl
@[simp] theorem State.modPage_schedule : (s.modPage q f).schedule = s.schedule := rfl
@[simp] theorem State.modPage_faults : (s.modPage q f).faults = s.faults := rfl
@[simp] theorem State.modPage_pending : (s.modPage q f).pending = s.pending := rfl
@[simp] theorem State.port_modPage (x : Port) : (s.modPage q f).port x = s.port x := rfl
@[simp] theorem State.bank_modPage (x : BankNo) : (s.modPage q f).bank x = s.bank x := rfl
@[simp] theorem State.map_modPage (x : Port) : (s.modPage q f).map x = s.map x := rfl
@[simp] theorem State.queue_modPage (x : BankNo) : (s.modPage q f).queue x = s.queue x := rfl
@[simp] theorem State.ownedBy_modPage (x : Port) : (s.modPage q f).ownedBy x = s.ownedBy x := rfl

theorem State.page_modPage (x : PageNo) : (s.modPage q f).page x = if x = q then f (s.page q) else s.page x := by
  simp only [State.page, State.modPage, Fin.getElem_fin, Vector.getElem_set]
  by_cases h : x = q
  · simp [h]
  · have : ¬ (q.val = x.val) := fun e => h (Fin.ext e.symm)
    simp [h, this]

@[simp] theorem State.page_modPage_same : (s.modPage q f).page q = f (s.page q) := by simp [State.page_modPage]

theorem State.page_modPage_ne {x : PageNo} (h : x ≠ q) : (s.modPage q f).page x = s.page x := by simp [State.page_modPage, h]

end modPage

/-! ## modBank -/

section modBank
variable (s : State) (b : BankNo) (f : BankRec → BankRec)

@[simp] theorem State.modBank_phase : (s.modBank b f).phase = s.phase := rfl
@[simp] theorem State.modBank_supplyGood : (s.modBank b f).supplyGood = s.supplyGood := rfl
@[simp] theorem State.modBank_resetAsserted : (s.modBank b f).resetAsserted = s.resetAsserted := rfl
@[simp] theorem State.modBank_nextStart : (s.modBank b f).nextStart = s.nextStart := rfl
@[simp] theorem State.modBank_straps : (s.modBank b f).straps = s.straps := rfl
@[simp] theorem State.modBank_ports : (s.modBank b f).ports = s.ports := rfl
@[simp] theorem State.modBank_pages : (s.modBank b f).pages = s.pages := rfl
@[simp] theorem State.modBank_freeList : (s.modBank b f).freeList = s.freeList := rfl
@[simp] theorem State.modBank_owned : (s.modBank b f).owned = s.owned := rfl
@[simp] theorem State.modBank_banks : (s.modBank b f).banks = s.banks.set b (f (s.bank b)) := rfl
@[simp] theorem State.modBank_maps : (s.modBank b f).maps = s.maps := rfl
@[simp] theorem State.modBank_accesses : (s.modBank b f).accesses = s.accesses := rfl
@[simp] theorem State.modBank_queues : (s.modBank b f).queues = s.queues := rfl
@[simp] theorem State.modBank_pool : (s.modBank b f).pool = s.pool := rfl
@[simp] theorem State.modBank_locks : (s.modBank b f).locks = s.locks := rfl
@[simp] theorem State.modBank_jobs : (s.modBank b f).jobs = s.jobs := rfl
@[simp] theorem State.modBank_lastServed : (s.modBank b f).lastServed = s.lastServed := rfl
@[simp] theorem State.modBank_nextJobId : (s.modBank b f).nextJobId = s.nextJobId := rfl
@[simp] theorem State.modBank_segment : (s.modBank b f).segment = s.segment := rfl
@[simp] theorem State.modBank_role : (s.modBank b f).role = s.role := rfl
@[simp] theorem State.modBank_config : (s.modBank b f).config = s.config := rfl
@[simp] theorem State.modBank_schedule : (s.modBank b f).schedule = s.schedule := rfl
@[simp] theorem State.modBank_faults : (s.modBank b f).faults = s.faults := rfl
@[simp] theorem State.modBank_pending : (s.modBank b f).pending = s.pending := rfl
@[simp] theorem State.port_modBank (x : Port) : (s.modBank b f).port x = s.port x := rfl
@[simp] theorem State.page_modBank (x : PageNo) : (s.modBank b f).page x = s.page x := rfl
@[simp] theorem State.map_modBank (x : Port) : (s.modBank b f).map x = s.map x := rfl
@[simp] theorem State.queue_modBank (x : BankNo) : (s.modBank b f).queue x = s.queue x := rfl
@[simp] theorem State.ownedBy_modBank (x : Port) : (s.modBank b f).ownedBy x = s.ownedBy x := rfl

theorem State.bank_modBank (x : BankNo) : (s.modBank b f).bank x = if x = b then f (s.bank b) else s.bank x := by
  simp only [State.bank, State.modBank, Fin.getElem_fin, Vector.getElem_set]
  by_cases h : x = b
  · simp [h]
  · have : ¬ (b.val = x.val) := fun e => h (Fin.ext e.symm)
    simp [h, this]

@[simp] theorem State.bank_modBank_same : (s.modBank b f).bank b = f (s.bank b) := by simp [State.bank_modBank]

theorem State.bank_modBank_ne {x : BankNo} (h : x ≠ b) : (s.modBank b f).bank x = s.bank x := by simp [State.bank_modBank, h]

end modBank

/-! ## modMap -/

section modMap
variable (s : State) (p : Port) (f : PortMaps → PortMaps)

@[simp] theorem State.modMap_phase : (s.modMap p f).phase = s.phase := rfl
@[simp] theorem State.modMap_supplyGood : (s.modMap p f).supplyGood = s.supplyGood := rfl
@[simp] theorem State.modMap_resetAsserted : (s.modMap p f).resetAsserted = s.resetAsserted := rfl
@[simp] theorem State.modMap_nextStart : (s.modMap p f).nextStart = s.nextStart := rfl
@[simp] theorem State.modMap_straps : (s.modMap p f).straps = s.straps := rfl
@[simp] theorem State.modMap_ports : (s.modMap p f).ports = s.ports := rfl
@[simp] theorem State.modMap_pages : (s.modMap p f).pages = s.pages := rfl
@[simp] theorem State.modMap_freeList : (s.modMap p f).freeList = s.freeList := rfl
@[simp] theorem State.modMap_owned : (s.modMap p f).owned = s.owned := rfl
@[simp] theorem State.modMap_banks : (s.modMap p f).banks = s.banks := rfl
@[simp] theorem State.modMap_maps : (s.modMap p f).maps = s.maps.set p (f (s.map p)) := rfl
@[simp] theorem State.modMap_accesses : (s.modMap p f).accesses = s.accesses := rfl
@[simp] theorem State.modMap_queues : (s.modMap p f).queues = s.queues := rfl
@[simp] theorem State.modMap_pool : (s.modMap p f).pool = s.pool := rfl
@[simp] theorem State.modMap_locks : (s.modMap p f).locks = s.locks := rfl
@[simp] theorem State.modMap_jobs : (s.modMap p f).jobs = s.jobs := rfl
@[simp] theorem State.modMap_lastServed : (s.modMap p f).lastServed = s.lastServed := rfl
@[simp] theorem State.modMap_nextJobId : (s.modMap p f).nextJobId = s.nextJobId := rfl
@[simp] theorem State.modMap_segment : (s.modMap p f).segment = s.segment := rfl
@[simp] theorem State.modMap_role : (s.modMap p f).role = s.role := rfl
@[simp] theorem State.modMap_config : (s.modMap p f).config = s.config := rfl
@[simp] theorem State.modMap_schedule : (s.modMap p f).schedule = s.schedule := rfl
@[simp] theorem State.modMap_faults : (s.modMap p f).faults = s.faults := rfl
@[simp] theorem State.modMap_pending : (s.modMap p f).pending = s.pending := rfl
@[simp] theorem State.port_modMap (x : Port) : (s.modMap p f).port x = s.port x := rfl
@[simp] theorem State.page_modMap (x : PageNo) : (s.modMap p f).page x = s.page x := rfl
@[simp] theorem State.bank_modMap (x : BankNo) : (s.modMap p f).bank x = s.bank x := rfl
@[simp] theorem State.queue_modMap (x : BankNo) : (s.modMap p f).queue x = s.queue x := rfl
@[simp] theorem State.ownedBy_modMap (x : Port) : (s.modMap p f).ownedBy x = s.ownedBy x := rfl

theorem State.map_modMap (x : Port) : (s.modMap p f).map x = if x = p then f (s.map p) else s.map x := by
  simp only [State.map, State.modMap, Fin.getElem_fin, Vector.getElem_set]
  by_cases h : x = p
  · simp [h]
  · have : ¬ (p.val = x.val) := fun e => h (Fin.ext e.symm)
    simp [h, this]

@[simp] theorem State.map_modMap_same : (s.modMap p f).map p = f (s.map p) := by simp [State.map_modMap]

theorem State.map_modMap_ne {x : Port} (h : x ≠ p) : (s.modMap p f).map x = s.map x := by simp [State.map_modMap, h]

end modMap

/-! ## modQueue -/

section modQueue
variable (s : State) (b : BankNo) (f : List StoreOp → List StoreOp)

@[simp] theorem State.modQueue_phase : (s.modQueue b f).phase = s.phase := rfl
@[simp] theorem State.modQueue_supplyGood : (s.modQueue b f).supplyGood = s.supplyGood := rfl
@[simp] theorem State.modQueue_resetAsserted : (s.modQueue b f).resetAsserted = s.resetAsserted := rfl
@[simp] theorem State.modQueue_nextStart : (s.modQueue b f).nextStart = s.nextStart := rfl
@[simp] theorem State.modQueue_straps : (s.modQueue b f).straps = s.straps := rfl
@[simp] theorem State.modQueue_ports : (s.modQueue b f).ports = s.ports := rfl
@[simp] theorem State.modQueue_pages : (s.modQueue b f).pages = s.pages := rfl
@[simp] theorem State.modQueue_freeList : (s.modQueue b f).freeList = s.freeList := rfl
@[simp] theorem State.modQueue_owned : (s.modQueue b f).owned = s.owned := rfl
@[simp] theorem State.modQueue_banks : (s.modQueue b f).banks = s.banks := rfl
@[simp] theorem State.modQueue_maps : (s.modQueue b f).maps = s.maps := rfl
@[simp] theorem State.modQueue_accesses : (s.modQueue b f).accesses = s.accesses := rfl
@[simp] theorem State.modQueue_queues : (s.modQueue b f).queues = s.queues.set b (f (s.queue b)) := rfl
@[simp] theorem State.modQueue_pool : (s.modQueue b f).pool = s.pool := rfl
@[simp] theorem State.modQueue_locks : (s.modQueue b f).locks = s.locks := rfl
@[simp] theorem State.modQueue_jobs : (s.modQueue b f).jobs = s.jobs := rfl
@[simp] theorem State.modQueue_lastServed : (s.modQueue b f).lastServed = s.lastServed := rfl
@[simp] theorem State.modQueue_nextJobId : (s.modQueue b f).nextJobId = s.nextJobId := rfl
@[simp] theorem State.modQueue_segment : (s.modQueue b f).segment = s.segment := rfl
@[simp] theorem State.modQueue_role : (s.modQueue b f).role = s.role := rfl
@[simp] theorem State.modQueue_config : (s.modQueue b f).config = s.config := rfl
@[simp] theorem State.modQueue_schedule : (s.modQueue b f).schedule = s.schedule := rfl
@[simp] theorem State.modQueue_faults : (s.modQueue b f).faults = s.faults := rfl
@[simp] theorem State.modQueue_pending : (s.modQueue b f).pending = s.pending := rfl
@[simp] theorem State.port_modQueue (x : Port) : (s.modQueue b f).port x = s.port x := rfl
@[simp] theorem State.page_modQueue (x : PageNo) : (s.modQueue b f).page x = s.page x := rfl
@[simp] theorem State.bank_modQueue (x : BankNo) : (s.modQueue b f).bank x = s.bank x := rfl
@[simp] theorem State.map_modQueue (x : Port) : (s.modQueue b f).map x = s.map x := rfl
@[simp] theorem State.ownedBy_modQueue (x : Port) : (s.modQueue b f).ownedBy x = s.ownedBy x := rfl

theorem State.queue_modQueue (x : BankNo) : (s.modQueue b f).queue x = if x = b then f (s.queue b) else s.queue x := by
  simp only [State.queue, State.modQueue, Fin.getElem_fin, Vector.getElem_set]
  by_cases h : x = b
  · simp [h]
  · have : ¬ (b.val = x.val) := fun e => h (Fin.ext e.symm)
    simp [h, this]

@[simp] theorem State.queue_modQueue_same : (s.modQueue b f).queue b = f (s.queue b) := by simp [State.queue_modQueue]

theorem State.queue_modQueue_ne {x : BankNo} (h : x ≠ b) : (s.modQueue b f).queue x = s.queue x := by simp [State.queue_modQueue, h]

end modQueue

/-! ## modOwned -/

section modOwned
variable (s : State) (p : Port) (f : Nat → Nat)

@[simp] theorem State.modOwned_phase : (s.modOwned p f).phase = s.phase := rfl
@[simp] theorem State.modOwned_supplyGood : (s.modOwned p f).supplyGood = s.supplyGood := rfl
@[simp] theorem State.modOwned_resetAsserted : (s.modOwned p f).resetAsserted = s.resetAsserted := rfl
@[simp] theorem State.modOwned_nextStart : (s.modOwned p f).nextStart = s.nextStart := rfl
@[simp] theorem State.modOwned_straps : (s.modOwned p f).straps = s.straps := rfl
@[simp] theorem State.modOwned_ports : (s.modOwned p f).ports = s.ports := rfl
@[simp] theorem State.modOwned_pages : (s.modOwned p f).pages = s.pages := rfl
@[simp] theorem State.modOwned_freeList : (s.modOwned p f).freeList = s.freeList := rfl
@[simp] theorem State.modOwned_owned : (s.modOwned p f).owned = s.owned.set p (f (s.ownedBy p)) := rfl
@[simp] theorem State.modOwned_banks : (s.modOwned p f).banks = s.banks := rfl
@[simp] theorem State.modOwned_maps : (s.modOwned p f).maps = s.maps := rfl
@[simp] theorem State.modOwned_accesses : (s.modOwned p f).accesses = s.accesses := rfl
@[simp] theorem State.modOwned_queues : (s.modOwned p f).queues = s.queues := rfl
@[simp] theorem State.modOwned_pool : (s.modOwned p f).pool = s.pool := rfl
@[simp] theorem State.modOwned_locks : (s.modOwned p f).locks = s.locks := rfl
@[simp] theorem State.modOwned_jobs : (s.modOwned p f).jobs = s.jobs := rfl
@[simp] theorem State.modOwned_lastServed : (s.modOwned p f).lastServed = s.lastServed := rfl
@[simp] theorem State.modOwned_nextJobId : (s.modOwned p f).nextJobId = s.nextJobId := rfl
@[simp] theorem State.modOwned_segment : (s.modOwned p f).segment = s.segment := rfl
@[simp] theorem State.modOwned_role : (s.modOwned p f).role = s.role := rfl
@[simp] theorem State.modOwned_config : (s.modOwned p f).config = s.config := rfl
@[simp] theorem State.modOwned_schedule : (s.modOwned p f).schedule = s.schedule := rfl
@[simp] theorem State.modOwned_faults : (s.modOwned p f).faults = s.faults := rfl
@[simp] theorem State.modOwned_pending : (s.modOwned p f).pending = s.pending := rfl
@[simp] theorem State.port_modOwned (x : Port) : (s.modOwned p f).port x = s.port x := rfl
@[simp] theorem State.page_modOwned (x : PageNo) : (s.modOwned p f).page x = s.page x := rfl
@[simp] theorem State.bank_modOwned (x : BankNo) : (s.modOwned p f).bank x = s.bank x := rfl
@[simp] theorem State.map_modOwned (x : Port) : (s.modOwned p f).map x = s.map x := rfl
@[simp] theorem State.queue_modOwned (x : BankNo) : (s.modOwned p f).queue x = s.queue x := rfl

theorem State.ownedBy_modOwned (x : Port) : (s.modOwned p f).ownedBy x = if x = p then f (s.ownedBy p) else s.ownedBy x := by
  simp only [State.ownedBy, State.modOwned, Fin.getElem_fin, Vector.getElem_set]
  by_cases h : x = p
  · simp [h]
  · have : ¬ (p.val = x.val) := fun e => h (Fin.ext e.symm)
    simp [h, this]

@[simp] theorem State.ownedBy_modOwned_same : (s.modOwned p f).ownedBy p = f (s.ownedBy p) := by simp [State.ownedBy_modOwned]

theorem State.ownedBy_modOwned_ne {x : Port} (h : x ≠ p) : (s.modOwned p f).ownedBy x = s.ownedBy x := by simp [State.ownedBy_modOwned, h]

end modOwned

/-! ## Two updates of one register, and an update that changes nothing -/

theorem State.modPort_modPort (s : State) (p : Port) (f g : PortCtl → PortCtl) :
    (s.modPort p f).modPort p g = s.modPort p fun x => g (f x) := by
  simp [State.modPort, State.port]

theorem State.modPort_congr {s : State} {p : Port} {f g : PortCtl → PortCtl} (h : f (s.port p) = g (s.port p)) :
    s.modPort p f = s.modPort p g := by
  simp [State.modPort, h]

theorem State.modPort_id {s : State} {p : Port} {f : PortCtl → PortCtl} (h : f (s.port p) = s.port p) : s.modPort p f = s := by
  rw [State.modPort, h]; simp [State.port]

theorem State.modPage_modPage (s : State) (q : PageNo) (f g : PageRec → PageRec) :
    (s.modPage q f).modPage q g = s.modPage q fun x => g (f x) := by
  simp [State.modPage, State.page]

theorem State.modPage_congr {s : State} {q : PageNo} {f g : PageRec → PageRec} (h : f (s.page q) = g (s.page q)) :
    s.modPage q f = s.modPage q g := by
  simp [State.modPage, h]

theorem State.modPage_id {s : State} {q : PageNo} {f : PageRec → PageRec} (h : f (s.page q) = s.page q) : s.modPage q f = s := by
  rw [State.modPage, h]; simp [State.page]

theorem State.modBank_modBank (s : State) (b : BankNo) (f g : BankRec → BankRec) :
    (s.modBank b f).modBank b g = s.modBank b fun x => g (f x) := by
  simp [State.modBank, State.bank]

theorem State.modBank_congr {s : State} {b : BankNo} {f g : BankRec → BankRec} (h : f (s.bank b) = g (s.bank b)) :
    s.modBank b f = s.modBank b g := by
  simp [State.modBank, h]

theorem State.modBank_id {s : State} {b : BankNo} {f : BankRec → BankRec} (h : f (s.bank b) = s.bank b) : s.modBank b f = s := by
  rw [State.modBank, h]; simp [State.bank]

theorem State.modMap_modMap (s : State) (p : Port) (f g : PortMaps → PortMaps) :
    (s.modMap p f).modMap p g = s.modMap p fun x => g (f x) := by
  simp [State.modMap, State.map]

theorem State.modMap_congr {s : State} {p : Port} {f g : PortMaps → PortMaps} (h : f (s.map p) = g (s.map p)) :
    s.modMap p f = s.modMap p g := by
  simp [State.modMap, h]

theorem State.modMap_id {s : State} {p : Port} {f : PortMaps → PortMaps} (h : f (s.map p) = s.map p) : s.modMap p f = s := by
  rw [State.modMap, h]; simp [State.map]

theorem State.modQueue_modQueue (s : State) (b : BankNo) (f g : List StoreOp → List StoreOp) :
    (s.modQueue b f).modQueue b g = s.modQueue b fun x => g (f x) := by
  simp [State.modQueue, State.queue]

theorem State.modQueue_congr {s : State} {b : BankNo} {f g : List StoreOp → List StoreOp} (h : f (s.queue b) = g (s.queue b)) :
    s.modQueue b f = s.modQueue b g := by
  simp [State.modQueue, h]

theorem State.modQueue_id {s : State} {b : BankNo} {f : List StoreOp → List StoreOp} (h : f (s.queue b) = s.queue b) : s.modQueue b f = s := by
  rw [State.modQueue, h]; simp [State.queue]

theorem State.modOwned_modOwned (s : State) (p : Port) (f g : Nat → Nat) :
    (s.modOwned p f).modOwned p g = s.modOwned p fun x => g (f x) := by
  simp [State.modOwned, State.ownedBy]

theorem State.modOwned_congr {s : State} {p : Port} {f g : Nat → Nat} (h : f (s.ownedBy p) = g (s.ownedBy p)) :
    s.modOwned p f = s.modOwned p g := by
  simp [State.modOwned, h]

theorem State.modOwned_id {s : State} {p : Port} {f : Nat → Nat} (h : f (s.ownedBy p) = s.ownedBy p) : s.modOwned p f = s := by
  rw [State.modOwned, h]; simp [State.ownedBy]

end Sys2Proof.Machine
end

