-- ==== Sys2Proof/Laws/Moves.lean ====
section
/-! SUPPORT. What a step of the device can do, said once: a list of moves on one block each, with what holds when a command
makes the move. Laws/Steps.lean shows that every command is a sequence of moves, so that a property which every move keeps
is kept by every step. -/

namespace Sys2Proof.Machine

/-- A move of one Port Controller that leaves its session alone. -/
inductive PortMove : PortCtl → PortCtl → Prop
  | answer (c : PortCtl) (t : Tag) (code : Byte) (st : Status) (pay : Payload) :
      PortMove c ((c.freeSlot t).offerReply t code st pay)
  | refuse (c : PortCtl) (t : Tag) (code : Byte) (st : Status) : PortMove c (c.offerReply t code st .none)
  | event (c : PortCtl) (e : Event) : PortMove c (c.offerEvent e)
  | freeSlot (c : PortCtl) (t : Tag) : PortMove c (c.freeSlot t)
  | setSlot (c : PortCtl) (t : Tag) (st : SlotState) : PortMove c (c.setSlot t st)
  | occupy (c : PortCtl) (x : Slot) (free : ∀ y ∈ c.slots, y.tag ≠ x.tag) (room : c.slots.length < Config.slotPlaces) :
      PortMove c { c with slots := c.slots ++ [x] }
  | inFlight (c : PortCtl) (n : Nat) : PortMove c { c with inFlight := n }
  | activeJob (c : PortCtl) (b : Bool) : PortMove c { c with activeJob := b }
  | closeReason (c : PortCtl) (r : Option CloseReason) : PortMove c { c with closeReason := r }
  | receiver (c : PortCtl) (rx : RxState) (gap : Option Nat) : PortMove c { c with rx := rx, gap := gap }
  | breakOff (c : PortCtl) : PortMove c c.breakOff
  | breakOver (c : PortCtl) (gapTime : Nat) : PortMove c (c.breakOver gapTime)
  | sent (c : PortCtl) (sending : c.tx = .sending) : PortMove c c.sent

/-- A move of the device. -/
inductive Move : State → State → Prop
  /- Port Controllers and the Supervisor Unit -/
  | port {s : State} (p : Port) (f : PortCtl → PortCtl) (h : PortMove (s.port p) (f (s.port p))) : Move s (s.modPort p f)
  | openSession {s : State} (p : Port) (closed : (s.port p).session = .closed) : Move s (s.openSession p)
  | beginClosing {s : State} (p : Port) (reason : CloseReason) (opened : (s.port p).session = .opened) :
      Move s (s.beginClosing p reason)
  | closed {s : State} (p : Port) (closing : (s.port p).session = .closing) :
      Move s (s.modPort p fun c => { c with session := .closed })
  | role {s : State} (p : Port) (opened : (s.port p).session = .opened) : Move s { s with role := some p }
  | config {s : State} (c : ConfigRec) : Move s { s with config := c }
  /- the Frame Map Unit -/
  | enable {s : State} (p : Port) (set : MapSet) (f : FrameNo) (q : PageNo) (a : Access)
      (disabled : s.resolve p set f = none) (used : (s.page q).inUse) :
      Move s ((s.setEntry p set f (some { page := q, access := a })).mapUp q)
  | replace {s : State} (p : Port) (set : MapSet) (f : FrameNo) (e : Entry) (q : PageNo) (a : Access)
      (enabled : s.resolve p set f = some e) (other : e.page ≠ q) (used : (s.page q).inUse) :
      Move s (((s.setEntry p set f (some { page := q, access := a })).mapUp q).modPage e.page fun r =>
        { r with mapCount := r.mapCount - 1 })
  | disable {s : State} (p : Port) (set : MapSet) (f : FrameNo) (e : Entry) (enabled : s.resolve p set f = some e) :
      Move s ((s.setEntry p set f none).modPage e.page fun r => { r with mapCount := r.mapCount - 1 })
  | entryAccess {s : State} (p : Port) (set : MapSet) (f : FrameNo) (e : FrameEntry)
      (samePage : e.map (·.page) = (s.resolve p set f).map (·.page)) : Move s (s.setEntry p set f e)
  | selection {s : State} (p : Port) (f : PortMaps → PortMaps) (setA : (f (s.map p)).setA = (s.map p).setA)
      (setB : (f (s.map p)).setB = (s.map p).setB) : Move s (s.modMap p f)
  /- the Page Directory -/
  | pins {s : State} (q : PageNo) (n : Nat) : Move s (s.modPage q fun r => { r with pinCount := n })
  | poison {s : State} (q : PageNo) : Move s (s.poison q)
  | setGrant {s : State} (q : PageNo) (target : Port) (right : Right) (allocated : (s.page q).state = .allocated) :
      Move s (s.setGrant q target right)
  | clearGrants {s : State} (p : Port) : Move s (s.clearGrants p)
  | take {s : State} (p : Port) (n : Nat) (enough : n ≤ s.freeList.length) : Move s (s.takePages p n)
  | releaseOrphan {s : State} (q : PageNo) (orphaned : (s.page q).state = .orphaned) (unmapped : (s.page q).mapCount = 0)
      (unpinned : (s.page q).pinCount = 0) : Move s (s.placeReleased q)
  | releaseOwned {s : State} (p : Port) (q : PageNo) (owned : s.owns p q = true) (unmapped : (s.page q).mapCount = 0)
      (unpinned : (s.page q).pinCount = 0) : Move s ((s.placeReleased q).modOwned p (· - 1))
  | orphan {s : State} (p : Port) (q : PageNo) (owned : s.owns p q = true) :
      Move s ((s.changePage q .orphaned fun r => { r with owner := none }).modOwned p (· - 1))
  | drain {s : State} (b : BankNo) (online : (s.bank b).state = .online) :
      Move s ((s.withholdBank b).modBank b fun r => { r with state := .draining })
  | offline {s : State} (b : BankNo) (draining : (s.bank b).state = .draining) (noAllocated : (s.bank b).allocated = 0)
      (noOrphaned : (s.bank b).orphaned = 0) : Move s (s.modBank b fun r => { r with state := .offline })
  | restore {s : State} (b : BankNo) (drained : (s.bank b).state ≠ .online) :
      Move s ((s.returnBank b).modBank b fun r => { r with state := .online })
  /- the Lock Unit -/
  | newLock {s : State} (q : PageNo) (h : Holder) (noEntry : s.lockOf q = none) (room : s.locks.length < Config.lockPlaces) :
      Move s { s with locks := s.locks ++ [{ page := q, holders := [h], waiters := [] }] }
  | addHolder {s : State} (q : PageNo) (l : LockEntry) (h : Holder) (entry : s.lockOf q = some l)
      (absent : l.holds h.port = false ∧ l.waits h.port = false) (shared : h.mode = .shared)
      (noWaiter : l.waiters = []) (allShared : ∀ x ∈ l.holders, x.mode = .shared) :
      Move s (s.modLock q fun l => { l with holders := l.holders ++ [h] })
  | addWaiter {s : State} (q : PageNo) (l : LockEntry) (w : Waiter) (entry : s.lockOf q = some l)
      (absent : l.holds w.port = false ∧ l.waits w.port = false) :
      Move s (s.modLock q fun l => { l with waiters := l.waiters ++ [w] })
  | regrant {s : State} (q : PageNo) (l : LockEntry) (lease : Half → Nat) (hs : List Holder) (ws : List Waiter)
      (entry : s.lockOf q = some l) (fewerHolders : hs.Sublist l.holders) (fewerWaiters : ws.Sublist l.waiters) :
      Move s (s.modLock q fun l =>
        { l with holders := (grantWaiters lease hs ws).1, waiters := (grantWaiters lease hs ws).2.1 })
  | dropLock {s : State} (q : PageNo) : Move s (s.dropLock q)
  | setLease {s : State} (q : PageNo) (p : Port) (lease : Nat) : Move s (s.setLease q p lease)
  | lowerTimers {s : State} : Move s s.lowerTimers
  /- the Access Unit and the Bank Controllers -/
  | accesses {s : State} (l : List AccessRec) : Move s { s with accesses := l }
  | place {s : State} (op : StoreOp) : Move s (s.modQueue (bankOf op.page) (· ++ [op]))
  | strike {s : State} (fs : List WordFault) (rest : List (List WordFault)) :
      Move s { s with pool := fs.foldl Pool.strike s.pool, faults := rest }
  | spoil {s : State} (w : WordNo) : Move s { s with pool := s.pool.spoil w }
  | pop {s : State} (b : BankNo) (op : StoreOp) (rest : List StoreOp) (m : Pool) (head : s.queue b = op :: rest)
      (performed : m = s.pool ∨ m = op.store s.pool) : Move s (s.popOp b m)
  | carry {s : State} (b : BankNo) (op : StoreOp) (rest : List StoreOp) (head : s.queue b = op :: rest) :
      Move s ({ s with pool := op.perform s.pool }.modQueue b List.tail)
  /- the Copy Engine -/
  | segment {s : State} (l : List Byte) : Move s { s with segment := l }
  | addJob {s : State} (j : Job) (counter : Byte) (room : s.jobs.length < Config.jobPlaces)
      (roomOfPort : (s.jobs.filter (·.port == j.port)).length < Config.jobsPerPort) (fresh : s.idInUse j.id = false)
      (queued : j.state = .queued) : Move s { s with jobs := s.jobs ++ [j], nextJobId := counter }
  | removeJob {s : State} (id : Byte) : Move s (s.removeJob id)
  | cancelJob {s : State} (id : Byte) : Move s (s.modJob id fun x => { x with cancel := true })
  | jobBytes {s : State} (id : Byte) (n : Nat) : Move s (s.modJob id fun x => { x with bytesDone := x.bytesDone + n })
  | activate {s : State} (j : Job) (idle : s.activeJob = none) (queued : j ∈ s.jobs) : Move s (s.activate j)
  /- the device -/
  | lineBreak {s : State} (p : Port) (b : Bool) (silent : s.phase ≠ .running) :
      Move s (s.modPort p fun c => { c with breakInForce := b })
  | halt {s : State} (good asserted : Bool) (start : ResetKind) :
      Move s { s.haltDevice with supplyGood := good, resetAsserted := asserted, nextStart := start }
  | clear {s : State} (good asserted : Bool) (start : ResetKind) :
      Move s { s.powerOnTables with phase := .clearing, supplyGood := good, resetAsserted := asserted, nextStart := start }
  | released {s : State} : Move s { s with resetAsserted := false }
  | resetLine {s : State} : Move s s.resetLineTables
  | enter {s : State} (straps : Vector Straps 4) :
      Move s { s with phase := .running, straps := straps, ports := mapEach s.ports (fun _ c => c.silence) }
  /- the model's own -/
  | schedule {s : State} (l : List Nat) : Move s { s with schedule := l }

/-- A sequence of moves. -/
abbrev Moves : State → State → Prop := Relation.ReflTransGen Move

/-- A property that every move keeps is kept by every sequence of moves. -/
theorem Moves.keeps {P : State → Prop} (keep : ∀ s u, Move s u → P s → P u) {s u : State} (h : Moves s u) (hs : P s) : P u := by
  induction h with
  | refl => exact hs
  | tail _ m ih => exact keep _ _ m ih

theorem Moves.one {s u : State} (h : Move s u) : Moves s u := .single h

/-- A fold each of whose rounds is a sequence of moves. -/
theorem Moves.foldl {α : Type} {f : State → α → State} (h : ∀ s x, Moves s (f s x)) (l : List α) (s : State) :
    Moves s (l.foldl f s) := by
  induction l generalizing s with
  | nil => exact .refl
  | cons x l ih => exact (h s x).trans (ih _)

end Sys2Proof.Machine
end

