-- ==== Sys2Proof/Laws/PerInstr.lean ====
section
/-! SUPPORT. A fact about every command as syntax: a request that fits its message has a body of 2 to 252 bytes whose first
byte says request (R166, R183, R184), so that its frame has a length the receiver takes. One lemma for each command. -/

namespace Sys2Proof.Laws.RequestBody

open Sys2Proof.Machine

/-- The body of a command, when it has one and the command is well formed, is one that a frame can carry as a request. -/
def Statement (i : Instr) : Prop :=
  i.wellFormed = true → ∀ p body, requestBody i = some (p, body) →
    2 ≤ body.length ∧ body.length ≤ 252 ∧ body.head?.map isRequestKind = some true

/-- The first byte of a request says request, whatever its tag. -/
theorem isRequestKind_kindAndTag : ∀ t : Tag, isRequestKind (kindAndTag 1 t) = true := by decide

/-- A body in its pieces. -/
theorem of_body {p : Port} {t : Tag} {code : Byte} {fields : List Byte} (h : fields.length ≤ 250) {q : Port} {body : List Byte}
    (e : (some (p, kindAndTag 1 t :: code :: fields) : Option (Port × List Byte)) = some (q, body)) :
    2 ≤ body.length ∧ body.length ≤ 252 ∧ body.head?.map isRequestKind = some true := by
  obtain ⟨-, rfl⟩ := Prod.mk.inj (Option.some.inj e)
  exact ⟨by simp, by simp only [List.length_cons]; omega, by simp [isRequestKind_kindAndTag]⟩

theorem openPort : ∀ a b, Statement (.openPort a b) :=
  fun _ _ _ _ _ e => of_body (Nat.le_of_ble_eq_true rfl) e

theorem closePort : ∀ a b, Statement (.closePort a b) :=
  fun _ _ _ _ _ e => of_body (Nat.le_of_ble_eq_true rfl) e

theorem info : ∀ a b, Statement (.info a b) :=
  fun _ _ _ _ _ e => of_body (Nat.le_of_ble_eq_true rfl) e

theorem claim : ∀ a b, Statement (.claim a b) :=
  fun _ _ _ _ _ e => of_body (Nat.le_of_ble_eq_true rfl) e

theorem handover : ∀ a b c, Statement (.handover a b c) :=
  fun _ _ _ _ _ _ e => of_body (Nat.le_of_ble_eq_true rfl) e

theorem alloc : ∀ a b c, Statement (.alloc a b c) :=
  fun _ _ _ _ _ _ e => of_body (Nat.le_of_ble_eq_true rfl) e

theorem free : ∀ a b c, Statement (.free a b c) :=
  fun _ _ _ _ _ _ e => of_body (Nat.le_of_ble_eq_true rfl) e

theorem grant : ∀ a b c d e, Statement (.grant a b c d e) :=
  fun _ _ _ _ _ _ _ _ e => of_body (Nat.le_of_ble_eq_true rfl) e

theorem pageQuery : ∀ a b c, Statement (.pageQuery a b c) :=
  fun _ _ _ _ _ _ e => of_body (Nat.le_of_ble_eq_true rfl) e

theorem map : ∀ a b c d e f, Statement (.map a b c d e f) :=
  fun _ _ _ _ _ _ _ _ _ e => of_body (Nat.le_of_ble_eq_true rfl) e

theorem unmap : ∀ a b c d, Statement (.unmap a b c d) :=
  fun _ _ _ _ _ _ _ e => of_body (Nat.le_of_ble_eq_true rfl) e

theorem selectSet : ∀ a b c, Statement (.selectSet a b c) :=
  fun _ _ _ _ _ _ e => of_body (Nat.le_of_ble_eq_true rfl) e

theorem mapQuery : ∀ a b c d e, Statement (.mapQuery a b c d e) :=
  fun _ _ _ _ _ _ _ _ e => of_body (Nat.le_of_ble_eq_true rfl) e

theorem read : ∀ a b c d e, Statement (.read a b c d e) :=
  fun _ _ _ _ _ _ _ _ e => of_body (Nat.le_of_ble_eq_true rfl) e

theorem write : ∀ a b c d e, Statement (.write a b c d e) := by
  intro p t frame offset data wf q body e
  have short : data.length ≤ 247 := by simpa [Instr.wellFormed] using wf
  exact of_body (by simp [halfBytes]; omega) e

theorem swap : ∀ a b c d e, Statement (.swap a b c d e) :=
  fun _ _ _ _ _ _ _ _ e => of_body (Nat.le_of_ble_eq_true rfl) e

theorem cas : ∀ a b c d e f, Statement (.cas a b c d e f) :=
  fun _ _ _ _ _ _ _ _ _ e => of_body (Nat.le_of_ble_eq_true rfl) e

theorem add : ∀ a b c d e, Statement (.add a b c d e) :=
  fun _ _ _ _ _ _ _ _ e => of_body (Nat.le_of_ble_eq_true rfl) e

theorem testclr : ∀ a b c d e, Statement (.testclr a b c d e) :=
  fun _ _ _ _ _ _ _ _ e => of_body (Nat.le_of_ble_eq_true rfl) e

theorem dectest : ∀ a b c d, Statement (.dectest a b c d) :=
  fun _ _ _ _ _ _ _ e => of_body (Nat.le_of_ble_eq_true rfl) e

theorem acquire : ∀ a b c d e f, Statement (.acquire a b c d e f) :=
  fun _ _ _ _ _ _ _ _ _ e => of_body (Nat.le_of_ble_eq_true rfl) e

theorem release : ∀ a b c, Statement (.release a b c) :=
  fun _ _ _ _ _ _ e => of_body (Nat.le_of_ble_eq_true rfl) e

theorem renew : ∀ a b c d, Statement (.renew a b c d) :=
  fun _ _ _ _ _ _ _ e => of_body (Nat.le_of_ble_eq_true rfl) e

theorem copy : ∀ a b c d e f g h i, Statement (.copy a b c d e f g h i) :=
  fun _ _ _ _ _ _ _ _ _ _ _ _ e => of_body (Nat.le_of_ble_eq_true rfl) e

theorem fill : ∀ a b c d e f g, Statement (.fill a b c d e f g) :=
  fun _ _ _ _ _ _ _ _ _ _ e => of_body (Nat.le_of_ble_eq_true rfl) e

theorem cancel : ∀ a b c, Statement (.cancel a b c) :=
  fun _ _ _ _ _ _ e => of_body (Nat.le_of_ble_eq_true rfl) e

theorem jobQuery : ∀ a b c, Statement (.jobQuery a b c) :=
  fun _ _ _ _ _ _ e => of_body (Nat.le_of_ble_eq_true rfl) e

theorem configure : ∀ a b c d e f g h i j, Statement (.configure a b c d e f g h i j) := by
  intro p t mask gap lease limit q0 q1 q2 q3 _ q body e
  refine of_body ?_ e
  simp only [halfBytes]
  split_ifs <;> exact Nat.le_of_ble_eq_true rfl

theorem drain : ∀ a b c, Statement (.drain a b c) :=
  fun _ _ _ _ _ _ e => of_body (Nat.le_of_ble_eq_true rfl) e

theorem restore : ∀ a b c, Statement (.restore a b c) :=
  fun _ _ _ _ _ _ e => of_body (Nat.le_of_ble_eq_true rfl) e

theorem eject : ∀ a b c, Statement (.eject a b c) :=
  fun _ _ _ _ _ _ e => of_body (Nat.le_of_ble_eq_true rfl) e

theorem poolQuery : ∀ a b, Statement (.poolQuery a b) :=
  fun _ _ _ _ _ e => of_body (Nat.le_of_ble_eq_true rfl) e

theorem byteReceived : ∀ a b, Statement (.byteReceived a b) :=
  fun _ _ _ _ _ h => nomatch h

theorem characterError : ∀ a, Statement (.characterError a) :=
  fun _ _ _ _ h => nomatch h

theorem breakBegins : ∀ a, Statement (.breakBegins a) :=
  fun _ _ _ _ h => nomatch h

theorem breakEnds : ∀ a, Statement (.breakEnds a) :=
  fun _ _ _ _ h => nomatch h

theorem gapTimerRunsOut : ∀ a, Statement (.gapTimerRunsOut a) :=
  fun _ _ _ _ h => nomatch h

theorem resyncEnd : ∀ a, Statement (.resyncEnd a) :=
  fun _ _ _ _ h => nomatch h

theorem lastByteSent : ∀ a, Statement (.lastByteSent a) :=
  fun _ _ _ _ h => nomatch h

theorem tick : Statement (.tick) :=
  fun _ _ _ h => nomatch h

theorem leaseExpiry : ∀ a b, Statement (.leaseExpiry a b) :=
  fun _ _ _ _ _ h => nomatch h

theorem waitTimeout : ∀ a b, Statement (.waitTimeout a b) :=
  fun _ _ _ _ _ h => nomatch h

theorem grantStep : ∀ a, Statement (.grantStep a) :=
  fun _ _ _ _ h => nomatch h

theorem accessCompletionGood : ∀ a, Statement (.accessCompletionGood a) :=
  fun _ _ _ _ h => nomatch h

theorem accessCompletionUncorrectable : ∀ a, Statement (.accessCompletionUncorrectable a) :=
  fun _ _ _ _ h => nomatch h

theorem switch : ∀ a, Statement (.switch a) :=
  fun _ _ _ _ h => nomatch h

theorem bankOffline : ∀ a, Statement (.bankOffline a) :=
  fun _ _ _ _ h => nomatch h

theorem jobChoice : Statement (.jobChoice) :=
  fun _ _ _ h => nomatch h

theorem copyReadComplete : ∀ a, Statement (.copyReadComplete a) :=
  fun _ _ _ _ h => nomatch h

theorem copyReadUncorrectable : ∀ a, Statement (.copyReadUncorrectable a) :=
  fun _ _ _ _ h => nomatch h

theorem copyWriteComplete : ∀ a, Statement (.copyWriteComplete a) :=
  fun _ _ _ _ h => nomatch h

theorem closedReached : ∀ a, Statement (.closedReached a) :=
  fun _ _ _ _ h => nomatch h

theorem powerOn : Statement (.powerOn) :=
  fun _ _ _ h => nomatch h

theorem supplyFails : Statement (.supplyFails) :=
  fun _ _ _ h => nomatch h

theorem resetAsserted : Statement (.resetAsserted) :=
  fun _ _ _ h => nomatch h

theorem resetReleased : Statement (.resetReleased) :=
  fun _ _ _ h => nomatch h

theorem runningEntry : ∀ a b c d, Statement (.runningEntry a b c d) :=
  fun _ _ _ _ _ _ _ h => nomatch h

theorem operationCarriedToEnd : ∀ a b, Statement (.operationCarriedToEnd a b) :=
  fun _ _ _ _ _ h => nomatch h

end Sys2Proof.Laws.RequestBody
end

