-- ==== Sys2Proof/Laws/Pool.lean ====
section
/-! SUPPORT. The pool as a cell list: reading after writing, and that every write keeps the canonical form. -/

namespace Sys2Proof.Machine

/-! ## One byte -/

@[simp] theorem readByte_nil (a : Nat) : readByte [] a = poolUnlisted := rfl

/-- A byte below every cell of a rising list is unlisted. -/
theorem readByte_of_forall_lt {m : List Host.Cell} {a : Nat} (h : ∀ c ∈ m, a < c.1) : readByte m a = poolUnlisted := by
  induction m with
  | nil => rfl
  | cons c m ih =>
    have hc := h c (by simp)
    rw [readByte, if_neg (by omega)]
    exact ih fun x hx => h x (by simp [hx])

/-- Rising addresses. -/
def Rising (m : List Host.Cell) : Prop := m.Pairwise fun x y => x.1 < y.1

theorem rising_nil : Rising [] := List.Pairwise.nil

theorem rising_cons {c : Host.Cell} {m : List Host.Cell} : Rising (c :: m) ↔ (∀ x ∈ m, c.1 < x.1) ∧ Rising m :=
  List.pairwise_cons

/-- The canonical form, as a proposition. -/
theorem wf_iff {m : List Host.Cell} :
    Memory.wf m = true ↔ Rising m ∧ ∀ c ∈ m, c.2 ≠ poolUnlisted := by
  simp [Memory.wf, Rising, List.pairwise_map]

/-- Every cell after a write is an old one or the one written, which does not say what an unlisted one says. -/
theorem mem_writeByte {m : List Host.Cell} {a : Nat} {b : Byte} {c : Host.Cell} (h : c ∈ writeByte m a b) :
    c ∈ m ∨ c = (a, b) ∧ b ≠ poolUnlisted := by
  induction m with
  | nil =>
    rw [writeByte] at h
    split at h <;> simp_all
  | cons x m ih =>
    rw [writeByte] at h
    split at h
    · split at h
      · exact .inl h
      · rcases List.mem_cons.mp h with h | h
        · exact .inr ⟨h, by assumption⟩
        · exact .inl h
    · split at h
      · split at h
        · exact .inl (by simp [h])
        · rcases List.mem_cons.mp h with h | h
          · exact .inr ⟨h, by assumption⟩
          · exact .inl (by simp [h])
      · rcases List.mem_cons.mp h with h | h
        · exact .inl (by simp [h])
        · rcases ih h with h | h
          · exact .inl (by simp [h])
          · exact .inr h

theorem rising_writeByte {m : List Host.Cell} (h : Rising m) (a : Nat) (b : Byte) : Rising (writeByte m a b) := by
  induction m with
  | nil => rw [writeByte]; split <;> simp [Rising]
  | cons x m ih =>
    obtain ⟨hx, hm⟩ := rising_cons.mp h
    rw [writeByte]
    split
    · split
      · exact h
      · refine rising_cons.mpr ⟨fun y hy => ?_, h⟩
        rcases List.mem_cons.mp hy with rfl | hy
        · assumption
        · exact Nat.lt_trans (by assumption) (hx y hy)
    · split
      · split
        · exact hm
        · subst_vars; exact rising_cons.mpr ⟨hx, hm⟩
      · refine rising_cons.mpr ⟨fun y hy => ?_, ih hm⟩
        rcases mem_writeByte hy with hy | ⟨rfl, _⟩
        · exact hx y hy
        · show x.1 < a; omega

/-- Reading after a write: the byte written at its address, the old byte elsewhere. -/
theorem readByte_writeByte {m : List Host.Cell} (h : Rising m) (a : Nat) (b : Byte) (x : Nat) :
    readByte (writeByte m a b) x = if x = a then b else readByte m x := by
  induction m with
  | nil =>
    rw [writeByte]
    split
    · subst_vars; simp
    · by_cases e : x = a
      · simp [readByte, e]
      · simp [readByte, e, Ne.symm e]
  | cons c m ih =>
    obtain ⟨hc, hm⟩ := rising_cons.mp h
    rw [writeByte]
    have hlow : a < c.1 → readByte (c :: m) a = poolUnlisted := fun hl =>
      readByte_of_forall_lt fun y hy => by
        rcases List.mem_cons.mp hy with rfl | hy
        · exact hl
        · exact Nat.lt_trans hl (hc y hy)
    split
    · next hl =>
      split
      · next hb =>
        by_cases e : x = a
        · subst e; rw [if_pos rfl, hb]; exact hlow hl
        · simp [e]
      · by_cases e : x = a
        · simp [readByte, e]
        · rw [if_neg e, readByte, if_neg (Ne.symm e)]
    · split
      · next hl he =>
        subst he
        split
        · next hb =>
          by_cases e : x = c.1
          · subst e; rw [if_pos rfl, hb]; exact readByte_of_forall_lt hc
          · rw [if_neg e, readByte, if_neg (Ne.symm e)]
        · by_cases e : x = c.1
          · subst e; simp [readByte]
          · rw [if_neg e, readByte, if_neg (Ne.symm e), readByte, if_neg (Ne.symm e)]
      · next hl he =>
        rw [readByte, readByte, ih hm]
        by_cases e : c.1 = x
        · subst e; simp [Ne.symm he]
        · simp [e]

theorem wf_writeByte {m : List Host.Cell} (h : Memory.wf m = true) (a : Nat) (b : Byte) :
    Memory.wf (writeByte m a b) = true := by
  obtain ⟨hr, hc⟩ := wf_iff.mp h
  refine wf_iff.mpr ⟨rising_writeByte hr a b, fun c h => ?_⟩
  rcases mem_writeByte h with h | ⟨rfl, hb⟩
  · exact hc c h
  · exact hb

/-! ## Several bytes, and words -/

theorem rising_writeBytes {m : List Host.Cell} (h : Rising m) (a : Nat) (bs : List Byte) : Rising (writeBytes m a bs) := by
  induction bs generalizing m a with
  | nil => exact h
  | cons b bs ih => exact ih (rising_writeByte h a b) _

/-- Reading after several bytes are written. -/
theorem readByte_writeBytes {m : List Host.Cell} (h : Rising m) (a : Nat) (bs : List Byte) (x : Nat) :
    readByte (writeBytes m a bs) x =
      if a ≤ x ∧ x < a + bs.length then (bs[x - a]?).getD 0 else readByte m x := by
  induction bs generalizing m a with
  | nil => simp [writeBytes]
  | cons b bs ih =>
    rw [writeBytes, ih (rising_writeByte h a b), readByte_writeByte h]
    simp only [List.length_cons]
    by_cases e : x = a
    · subst e; simp
    · by_cases e1 : a + 1 ≤ x ∧ x < a + 1 + bs.length
      · have e2 : a ≤ x ∧ x < a + (bs.length + 1) := by omega
        have e3 : x - a = (x - (a + 1)) + 1 := by omega
        rw [if_pos e1, if_pos e2, e3, List.getElem?_cons_succ]
      · have e2 : ¬ (a ≤ x ∧ x < a + (bs.length + 1)) := by omega
        rw [if_neg e1, if_neg e, if_neg e2]

theorem wf_writeBytes {m : List Host.Cell} (h : Memory.wf m = true) (a : Nat) (bs : List Byte) :
    Memory.wf (writeBytes m a bs) = true := by
  induction bs generalizing m a with
  | nil => exact h
  | cons b bs ih => exact ih (wf_writeByte h a b) _

@[simp] theorem length_wordBytes (w : Word) : (wordBytes w).length = 4 := rfl
@[simp] theorem length_halfBytes (h : Half) : (halfBytes h).length = 2 := rfl
@[simp] theorem length_bytes (m : Pool) (a n : Nat) : (m.bytes a n).length = n := by simp [Pool.bytes]

/-- A pool address in a page. -/
theorem poolAddr_add_le {q : PageNo} {offset n : Nat} (h : offset + n ≤ Config.pageBytes) :
    poolAddr q offset + n ≤ Config.poolBytes := by
  have := q.isLt
  simp only [poolAddr, Config.pageBytes, Config.poolBytes] at *
  omega

/-- The empty pool has the canonical form. -/
theorem wf_nil : Memory.wf [] = true := by decide

/-! ## Bytes of numbers -/

@[simp] theorem halfOf_bytes (h : Half) : halfOf (h.setWidth 8) ((h >>> 8).setWidth 8) = h := by
  apply BitVec.eq_of_getLsbD_eq
  intro i hi
  simp only [halfOf, BitVec.getLsbD_append, BitVec.getLsbD_setWidth, BitVec.getLsbD_ushiftRight]
  by_cases h8 : i < 8
  · simp [h8]
  · have : i - 8 < 8 := by omega
    simp [h8, this, show 8 + (i - 8) = i by omega]

@[simp] theorem wordOf_bytes (w : Word) :
    wordOf (w.setWidth 8) ((w >>> 8).setWidth 8) ((w >>> 16).setWidth 8) ((w >>> 24).setWidth 8) = w := by
  apply BitVec.eq_of_getLsbD_eq
  intro i hi
  simp only [wordOf, BitVec.getLsbD_append, BitVec.getLsbD_setWidth, BitVec.getLsbD_ushiftRight]
  by_cases h16 : i < 16
  · by_cases h8 : i < 8
    · simp [h16, h8]
    · have : i - 8 < 8 := by omega
      simp [h16, h8, this, show 8 + (i - 8) = i by omega]
  · by_cases h8 : i - 16 < 8
    · simp [h16, h8, show 16 + (i - 16) = i by omega]
    · have : i - 16 - 8 < 8 := by omega
      simp [h16, h8, this, show 24 + (i - 16 - 8) = i by omega]

/-! ## The pool with its check codes (R66) -/

/-- A word whose bytes no write touches is read as before. -/
theorem readWord_writeBytes {m : List Host.Cell} (h : Rising m) {a w : Nat} {bs : List Byte}
    (apart : ∀ i < bs.length, (a + i) / 4 ≠ w) : readWord (writeBytes m a bs) (4 * w) = readWord m (4 * w) := by
  have one : ∀ k < 4, readByte (writeBytes m a bs) (4 * w + k) = readByte m (4 * w + k) := fun k hk => by
    rw [readByte_writeBytes h, if_neg]
    rintro ⟨lo, hi⟩
    exact apart (4 * w + k - a) (by omega) (by omega)
  simp only [readWord]
  rw [one 1 (by omega), one 2 (by omega), one 3 (by omega), show 4 * w = 4 * w + 0 from rfl, one 0 (by omega)]

/-- A word written is the word read. -/
theorem readWord_writeWord {m : List Host.Cell} (h : Rising m) (a : Nat) (w : Word) :
    readWord (writeBytes m a (wordBytes w)) a = w := by
  simp only [readWord, readByte_writeBytes h, wordBytes]
  simp [show a + 1 - a = 1 by omega, show a + 2 - a = 2 by omega, show a + 3 - a = 3 by omega, wordOf_bytes]

/-- The canonical form of the pool, as a proposition. -/
theorem Pool.wf_iff {m : Pool} : m.wf = true ↔ Memory.wf m.cells = true ∧ m.damage.Pairwise (·.word < ·.word) ∧
    ∀ d ∈ m.damage, d.repaired ≠ some (readWord m.cells (4 * d.word)) := by
  simp [Pool.wf, List.pairwise_map]

theorem mem_insertDamage {d x : DamagedWord} {l : List DamagedWord} (h : x ∈ insertDamage d l) : x = d ∨ x ∈ l := by
  induction l with
  | nil => simpa [insertDamage] using h
  | cons y l ih =>
    rw [insertDamage] at h
    split at h
    · simpa using h
    · split at h
      · rcases List.mem_cons.mp h with h | h <;> simp [h]
      · rcases List.mem_cons.mp h with h | h
        · simp [h]
        · rcases ih h with h | h <;> simp [h]

/-- A record put in its place keeps the damaged words rising. -/
theorem rising_insertDamage {l : List DamagedWord} (d : DamagedWord) (h : l.Pairwise (·.word < ·.word)) :
    (insertDamage d l).Pairwise (·.word < ·.word) := by
  induction l with
  | nil => simp [insertDamage]
  | cons y l ih =>
    obtain ⟨hy, hl⟩ := List.pairwise_cons.mp h
    rw [insertDamage]
    split
    · next lt =>
      refine List.pairwise_cons.mpr ⟨fun x hx => ?_, h⟩
      rcases List.mem_cons.mp hx with rfl | hx
      · exact lt
      · exact lt_trans lt (hy x hx)
    · split
      · next eq => exact List.pairwise_cons.mpr ⟨fun x hx => eq ▸ hy x hx, hl⟩
      · next ge ne =>
        refine List.pairwise_cons.mpr ⟨fun x hx => ?_, ih hl⟩
        rcases mem_insertDamage hx with rfl | hx
        · exact lt_of_le_of_ne (not_lt.mp ge) (Ne.symm ne)
        · exact hy x hx

/-- After a record is put in its place no other record is of its word. -/
theorem word_ne_of_mem_insertDamage {d x : DamagedWord} {l : List DamagedWord} (h : l.Pairwise (·.word < ·.word))
    (hx : x ∈ insertDamage d l) (ne : x ≠ d) : x ∈ l ∧ x.word ≠ d.word := by
  refine ⟨(mem_insertDamage hx).resolve_left ne, fun same => ne ?_⟩
  have once : ((insertDamage d l).map (·.word)).Nodup :=
    List.pairwise_map.mpr ((rising_insertDamage d h).imp ne_of_lt)
  have hd : d ∈ insertDamage d l := by
    clear once hx h
    induction l with
    | nil => simp [insertDamage]
    | cons y l ih => rw [insertDamage]; split <;> [simp; (split <;> simp [ih])]
  exact List.inj_on_of_nodup_map once hx hd same

theorem wf_write {m : Pool} (h : m.wf = true) (a : Nat) (bs : List Byte) : (m.write a bs).wf = true := by
  obtain ⟨cells, rising, stored⟩ := Pool.wf_iff.mp h
  refine Pool.wf_iff.mpr ⟨wf_writeBytes cells a bs, rising.sublist List.filter_sublist, fun d hd => ?_⟩
  obtain ⟨hd, apart⟩ := List.mem_filter.mp hd
  simp only [Bool.not_eq_true', List.any_eq_false, List.mem_range, beq_iff_eq] at apart
  show d.repaired ≠ some (readWord (writeBytes m.cells a bs) (4 * d.word))
  rw [readWord_writeBytes (wf_iff.mp cells).1 fun i hi => apart i hi]
  exact stored d hd

theorem wf_strike {m : Pool} (h : m.wf = true) (f : WordFault) : (m.strike f).wf = true := by
  obtain ⟨cells, rising, stored⟩ := Pool.wf_iff.mp h
  have hr := (wf_iff.mp cells).1
  have other : ∀ d ∈ m.damage, d.word ≠ f.word →
      d.repaired ≠ some (readWord (writeBytes m.cells (4 * f.word) (wordBytes f.stored)) (4 * d.word)) := fun d hd ne => by
    rw [readWord_writeBytes hr fun i hi => ?_]
    · exact stored d hd
    · have : f.word.val ≠ d.word.val := fun e => ne (Fin.ext e.symm)
      rw [length_wordBytes] at hi
      omega
  unfold Pool.strike
  generalize (if f.repairable = true then m.delivers f.word else none) = repaired
  by_cases agrees : repaired = some f.stored
  · simp only [if_pos agrees]
    refine Pool.wf_iff.mpr ⟨wf_writeBytes cells _ _, rising.sublist List.filter_sublist, fun d hd => ?_⟩
    obtain ⟨hd, ne⟩ := List.mem_filter.mp hd
    exact other d hd (by simpa using ne)
  · simp only [if_neg agrees]
    refine Pool.wf_iff.mpr ⟨wf_writeBytes cells _ _, rising_insertDamage _ rising, fun d hd => ?_⟩
    by_cases e : d = { word := f.word, repaired := repaired }
    · subst e
      simpa only [readWord_writeWord hr] using agrees
    · obtain ⟨hd, ne⟩ := word_ne_of_mem_insertDamage rising hd e
      exact other d hd ne

theorem wf_strikes {m : Pool} (h : m.wf = true) (fs : List WordFault) : (fs.foldl Pool.strike m).wf = true := by
  induction fs generalizing m with
  | nil => exact h
  | cons f fs ih => exact ih (wf_strike h f)

theorem wf_spoil {m : Pool} (h : m.wf = true) (w : WordNo) : (m.spoil w).wf = true := by
  obtain ⟨cells, rising, stored⟩ := Pool.wf_iff.mp h
  refine Pool.wf_iff.mpr ⟨cells, rising_insertDamage _ rising, fun d hd => ?_⟩
  rcases mem_insertDamage hd with rfl | hd
  · simp
  · exact stored d hd

/-- A store operation performed keeps the canonical form. -/
theorem wf_store {m : Pool} (h : m.wf = true) (op : StoreOp) : (op.store m).wf = true := by
  unfold StoreOp.store
  split
  · exact h
  · exact wf_write h _ _
  · split
    · exact h
    · exact wf_write h _ _

theorem wf_perform {m : Pool} (h : m.wf = true) (op : StoreOp) : (op.perform m).wf = true := by
  unfold StoreOp.perform
  split
  · exact wf_store h op
  · exact h

end Sys2Proof.Machine
end

