-- ==== Sys2Proof/Laws/Traverse.lean ====
section
/-! SUPPORT. The traversals of register files: what mapEach holds at an index, and which indexes indexesWhere lists. -/

namespace Sys2Proof.Machine

theorem getElem?_mapFrom {α β : Type} (f : Nat → α → β) (i k : Nat) (xs : List α) :
    (mapFrom f i xs)[k]? = xs[k]?.map (f (i + k)) := by
  induction xs generalizing i k with
  | nil => simp [mapFrom]
  | cons x xs ih =>
    cases k with
    | zero => simp [mapFrom]
    | succ k => simp [mapFrom, ih, Nat.add_right_comm, Nat.add_assoc]

@[simp] theorem toList_mapEach {α β : Type} {n : Nat} (v : Vector α n) (f : Nat → α → β) :
    (mapEach v f).toList = mapFrom f 0 v.toList := rfl

/-- A register of a mapped file. -/
@[simp] theorem getElem_mapEach {α β : Type} {n : Nat} (v : Vector α n) (f : Nat → α → β) (i : Nat) (h : i < n) :
    (mapEach v f)[i] = f i v[i] := by
  have e : (mapEach v f).toList[i]? = some (f i v[i]) := by
    rw [toList_mapEach, getElem?_mapFrom]
    simp [h]
  rw [Vector.getElem?_toList] at e
  simpa [h] using e

theorem mem_indexesFrom {α : Type} {n : Nat} {f : Nat → α → Bool} {i : Nat} {xs : List α} {q : Fin n} :
    q ∈ indexesFrom n f i xs ↔ ∃ k x, xs[k]? = some x ∧ q.val = i + k ∧ f (i + k) x = true := by
  induction xs generalizing i with
  | nil => simp [indexesFrom]
  | cons x xs ih =>
    have key : (∃ k y, (x :: xs)[k]? = some y ∧ q.val = i + k ∧ f (i + k) y = true) ↔
        (q.val = i ∧ f i x = true) ∨ ∃ k y, xs[k]? = some y ∧ q.val = i + 1 + k ∧ f (i + 1 + k) y = true := by
      constructor
      · rintro ⟨k, y, h1, h2, h3⟩
        cases k with
        | zero => simp at h1; subst h1; exact .inl ⟨by simpa using h2, by simpa using h3⟩
        | succ k =>
          refine .inr ⟨k, y, by simpa using h1, by omega, ?_⟩
          rw [show i + 1 + k = i + (k + 1) by omega]; exact h3
      · rintro (⟨h1, h2⟩ | ⟨k, y, h1, h2, h3⟩)
        · exact ⟨0, x, rfl, by simpa using h1, by simpa using h2⟩
        · refine ⟨k + 1, y, by simpa using h1, by omega, ?_⟩
          rw [show i + (k + 1) = i + 1 + k by omega]; exact h3
    rw [key, indexesFrom]
    split
    · next hi =>
      split
      · next hf => rw [List.mem_cons, ih]; simp [hf, Fin.ext_iff]
      · next hf => rw [ih]; simp [hf]
    · next hi =>
      have := q.isLt
      constructor
      · intro h; simp at h
      · rintro (⟨h, _⟩ | ⟨k, y, _, h, _⟩) <;> omega

/-- The indexes listed are those of the registers that pass the test. -/
@[simp] theorem mem_indexesWhere {α : Type} {n : Nat} {v : Vector α n} {f : Nat → α → Bool} {q : Fin n} :
    q ∈ indexesWhere v f ↔ f q v[q] = true := by
  rw [indexesWhere, mem_indexesFrom]
  constructor
  · rintro ⟨k, x, h1, h2, h3⟩
    have e : k = q.val := by omega
    subst e
    simp at h1
    simpa [h1] using h3
  · intro h
    exact ⟨q, v[q], by simp, by simp, by simpa using h⟩

theorem le_of_mem_indexesFrom {α : Type} {n : Nat} {f : Nat → α → Bool} {i : Nat} {xs : List α} {q : Fin n}
    (h : q ∈ indexesFrom n f i xs) : i ≤ q.val := by
  obtain ⟨k, _, _, h, _⟩ := mem_indexesFrom.mp h
  omega

theorem sorted_indexesFrom {α : Type} (n : Nat) (f : Nat → α → Bool) (i : Nat) (xs : List α) :
    (indexesFrom n f i xs).Pairwise (· < ·) := by
  induction xs generalizing i with
  | nil => exact List.Pairwise.nil
  | cons x xs ih =>
    rw [indexesFrom]
    split
    · split
      · refine List.pairwise_cons.mpr ⟨fun q hq => ?_, ih _⟩
        have := le_of_mem_indexesFrom hq
        exact Fin.lt_def.mpr (by simp; omega)
      · exact ih _
    · exact List.Pairwise.nil

/-- The indexes listed ascend. -/
theorem sorted_indexesWhere {α : Type} {n : Nat} (v : Vector α n) (f : Nat → α → Bool) :
    (indexesWhere v f).Pairwise (· < ·) := sorted_indexesFrom n f 0 v.toList

/-- No index is listed twice. -/
theorem nodup_indexesWhere {α : Type} {n : Nat} (v : Vector α n) (f : Nat → α → Bool) : (indexesWhere v f).Nodup :=
  (sorted_indexesWhere v f).imp fun h => ne_of_lt h

/-- A number below n, as an index. -/
@[simp] theorem below_val {n : Nat} (x : Fin n) : below n x.val = some x := by simp [below]

theorem below_eq_some {n x : Nat} {i : Fin n} : below n x = some i ↔ x = i.val := by
  unfold below
  split
  · next h => simp [Fin.ext_iff]
  · next h => simp; have := i.isLt; omega

theorem below_eq_none {n x : Nat} : below n x = none ↔ n ≤ x := by
  unfold below
  split <;> simp <;> omega

end Sys2Proof.Machine
end

