-- ==== Sys2Proof/Laws/Steps.lean ====
section
/-! SUPPORT. Every operation of the blocks, and every command, is a sequence of the moves of Laws/Moves.lean. -/

namespace Sys2Proof.Machine

/-- A fold each of whose rounds keeps a reading keeps it. -/
theorem foldl_keeps {σ α β : Type} {f : σ → α → σ} {g : σ → β} (h : ∀ s x, g (f s x) = g s) (l : List α) (s : σ) :
    g (l.foldl f s) = g s := by
  induction l generalizing s with
  | nil => rfl
  | cons x l ih => rw [List.foldl_cons, ih, h]

variable {s : State}

/-! ## Messages -/

theorem answer_moves (p : Port) (t : Tag) (code : Byte) (st : Status) (pay : Payload) : Moves s (s.answer p t code st pay) :=
  .single (.port p _ (.answer _ t code st pay))

theorem refuse_moves (p : Port) (t : Tag) (code : Byte) (st : Status) : Moves s (s.refuse p t code st) :=
  .single (.port p _ (.refuse _ t code st))

theorem offer_moves (p : Port) (e : Event) : Moves s (s.offer p e) := .single (.port p _ (.event _ e))

theorem offerSupervisor_moves (e : Event) : Moves s (s.offerSupervisor e) := by
  unfold State.offerSupervisor
  split
  · exact .refl
  · exact offer_moves _ e

theorem freeSlot_moves (p : Port) (t : Tag) : Moves s (s.modPort p (·.freeSlot t)) := .single (.port p _ (.freeSlot _ t))

@[simp] theorem answer_directory (p : Port) (t : Tag) (code : Byte) (st : Status) (pay : Payload) :
    (s.answer p t code st pay).page = s.page ∧ (s.answer p t code st pay).bank = s.bank := ⟨rfl, rfl⟩

@[simp] theorem answer_role (p : Port) (t : Tag) (code : Byte) (st : Status) (pay : Payload) :
    (s.answer p t code st pay).role = s.role := rfl

/-- A message changes no session. -/
theorem offerReply_session (c : PortCtl) (t : Tag) (code : Byte) (st : Status) (pay : Payload) :
    (c.offerReply t code st pay).session = c.session := by
  unfold PortCtl.offerReply
  split <;> rfl

theorem admitOverflow_session (c : PortCtl) : c.admitOverflow.session = c.session := by
  unfold PortCtl.admitOverflow
  split <;> rfl

theorem admitOrLose_session (c : PortCtl) (e : Event) : (c.admitOrLose e).session = c.session := by
  unfold PortCtl.admitOrLose
  split <;> rfl

theorem offerEvent_session (c : PortCtl) (e : Event) : (c.offerEvent e).session = c.session := by
  unfold PortCtl.offerEvent
  split <;> first
    | (split <;> rfl)
    | (rw [admitOrLose_session, admitOverflow_session])
    | (split <;> first | rw [admitOrLose_session, admitOverflow_session] | rfl)

theorem answer_session (p : Port) (t : Tag) (code : Byte) (st : Status) (pay : Payload) (x : Port) :
    ((s.answer p t code st pay).port x).session = (s.port x).session := by
  simp only [State.answer, State.port_modPort]
  split
  · subst_vars; rw [offerReply_session]; rfl
  · rfl

theorem offer_session (p : Port) (e : Event) (x : Port) : ((s.offer p e).port x).session = (s.port x).session := by
  simp only [State.offer, State.port_modPort]
  split
  · subst_vars; rw [offerEvent_session]
  · rfl

/-! ## The Lock Unit -/

theorem regrant_moves {q : PageNo} {l : LockEntry} {hs : List Holder} {ws : List Waiter} (entry : s.lockOf q = some l)
    (fewerHolders : hs.Sublist l.holders) (fewerWaiters : ws.Sublist l.waiters) : Moves s (s.regrant q hs ws) := by
  unfold State.regrant
  exact (Moves.one (.regrant q l s.leaseGranted hs ws entry fewerHolders fewerWaiters)).trans
    (Moves.foldl (fun _ w => answer_moves _ _ _ _ _) _ _)

theorem grantStep_moves (q : PageNo) : Moves s (s.grantStep q) := by
  unfold State.grantStep
  split
  · exact .refl
  · next h => exact regrant_moves h (.refl _) (.refl _)

theorem dropHolder_moves (q : PageNo) (p : Port) : Moves s (s.dropHolder q p) := by
  unfold State.dropHolder
  split
  · exact .refl
  · next h => exact regrant_moves h List.filter_sublist (.refl _)

theorem dropWaiter_moves (q : PageNo) (p : Port) : Moves s (s.dropWaiter q p) := by
  unfold State.dropWaiter
  split
  · exact .refl
  · next h => exact regrant_moves h (.refl _) List.filter_sublist

theorem acquireWait_moves {p : Port} {q : PageNo} {l : LockEntry} {t : Tag} {mode : LockMode} {asked wait : Half}
    (entry : s.lockOf q = some l) (absent : l.holds p = false ∧ l.waits p = false) :
    Moves s (s.acquireWait p t q mode asked wait) := by
  simp only [State.acquireWait]
  refine (Moves.one (.addWaiter q l _ entry ?_)).trans (.single (.port p _ (.setSlot _ t _)))
  exact absent

theorem acquire_moves (p : Port) (t : Tag) (frame : Byte) (mode : LockMode) (asked wait : Half) :
    Moves s (s.acquire p t frame mode asked wait) := by
  unfold State.acquire
  split
  · exact answer_moves _ _ _ _ _
  split
  · exact answer_moves _ _ _ _ _
  split
  · exact answer_moves _ _ _ _ _
  split
  · next h =>
    split
    · exact answer_moves _ _ _ _ _
    · next room =>
      refine Relation.ReflTransGen.trans ?_ (answer_moves _ _ _ _ _)
      simp only [State.hasLock, h, Option.isSome_none, Bool.false_eq_true, if_false]
      exact .single (.newLock _ _ h (by omega))
  · next l h =>
    split
    · exact answer_moves _ _ _ _ _
    next absent =>
    simp only [not_or, Bool.not_eq_true] at absent
    split
    · next grant =>
      refine Relation.ReflTransGen.trans ?_ (answer_moves _ _ _ _ _)
      simp only [State.hasLock, h, Option.isSome_some, if_true]
      cases mode with
      | exclusive => simp [LockEntry.grantsAtOnce] at grant
      | shared =>
        simp only [LockEntry.grantsAtOnce, Bool.and_eq_true, List.isEmpty_iff, List.all_eq_true, beq_iff_eq] at grant
        exact .single (.addHolder _ l _ h absent rfl grant.1 grant.2)
    · split
      · exact answer_moves _ _ _ _ _
      · exact acquireWait_moves h absent

theorem release_moves (p : Port) (t : Tag) (page : Half) : Moves s (s.release p t page) := by
  unfold State.release
  split
  · exact answer_moves _ _ _ _ _
  split
  · exact (dropHolder_moves _ _).trans (answer_moves _ _ _ _ _)
  · exact answer_moves _ _ _ _ _

theorem renew_moves (p : Port) (t : Tag) (page asked : Half) : Moves s (s.renew p t page asked) := by
  unfold State.renew
  split
  · exact answer_moves _ _ _ _ _
  split
  · exact (Moves.one (.setLease _ _ _)).trans (answer_moves _ _ _ _ _)
  · exact answer_moves _ _ _ _ _

theorem expireLease_moves (q : PageNo) (p : Port) : Moves s (s.expireLease q p) :=
  (dropHolder_moves q p).trans (offer_moves _ _)

theorem timeOutWait_moves (q : PageNo) (p : Port) : Moves s (s.timeOutWait q p) := by
  unfold State.timeOutWait
  split
  · exact .refl
  · exact (answer_moves _ _ _ _ _).trans (dropWaiter_moves _ _)

theorem dissolveWaiter_moves (w : Waiter) : Moves s (s.dissolveWaiter w) := by
  unfold State.dissolveWaiter
  split
  · exact answer_moves _ _ _ _ _
  · exact freeSlot_moves _ _

theorem dissolve_moves (q : PageNo) : Moves s (s.dissolve q) := by
  unfold State.dissolve
  split
  · exact .refl
  · exact ((Moves.foldl (fun _ h => offer_moves _ _) _ _).trans (Moves.foldl (fun _ w => dissolveWaiter_moves w) _ _)).trans
      (.single (.dropLock q))

theorem unlockForTeardown_moves (p : Port) (q : PageNo) : Moves s (s.unlockForTeardown p q) := by
  unfold State.unlockForTeardown
  split
  · exact .refl
  · next l h =>
    split
    · exact regrant_moves h List.filter_sublist List.filter_sublist
    · next w _ =>
      exact (freeSlot_moves _ _).trans (regrant_moves (s := s.modPort p (·.freeSlot w.tag)) h List.filter_sublist
        List.filter_sublist)

/-- The dissolution of a lock entry reads and changes the Port Controllers and the lock table alone. -/
theorem dissolve_keeps {β : Type} (g : State → β) (ports : ∀ s p f, g (State.modPort s p f) = g s)
    (locks : ∀ (s : State) l, g { s with locks := l } = g s) (q : PageNo) : g (s.dissolve q) = g s := by
  unfold State.dissolve
  split
  · rfl
  · rw [State.dropLock, locks, foldl_keeps (g := g), foldl_keeps (g := g)]
    · exact fun s h => ports s _ _
    · intro s w
      unfold State.dissolveWaiter
      split
      · exact ports s _ _
      · exact ports s _ _

@[simp] theorem dissolve_page (q : PageNo) : (s.dissolve q).page = s.page :=
  dissolve_keeps State.page (fun _ _ _ => rfl) (fun _ _ => rfl) q

@[simp] theorem dissolve_bank (q : PageNo) : (s.dissolve q).bank = s.bank :=
  dissolve_keeps State.bank (fun _ _ _ => rfl) (fun _ _ => rfl) q

@[simp] theorem dissolve_role (q : PageNo) : (s.dissolve q).role = s.role :=
  dissolve_keeps State.role (fun _ _ _ => rfl) (fun _ _ => rfl) q

/-! ## The Page Directory -/

theorem bankOfflineCheck_moves (b : BankNo) : Moves s (s.bankOfflineCheck b) := by
  unfold State.bankOfflineCheck
  split
  · next h => exact (Moves.one (.offline b h.1 h.2.1 h.2.2)).trans (offerSupervisor_moves _)
  · exact .refl

theorem drainBank_moves (b : BankNo) (cause : BankCause) (online : (s.bank b).state = .online) :
    Moves s (s.drainBank b cause) :=
  ((Moves.one (.drain b online)).trans (offerSupervisor_moves _)).trans (bankOfflineCheck_moves b)

theorem retireLimitCheck_moves (b : BankNo) : Moves s (s.retireLimitCheck b) := by
  unfold State.retireLimitCheck
  split
  · next h => exact drainBank_moves b _ h.1
  · exact .refl

theorem settleBank_moves (before : State) (q : PageNo) : Moves s (before.settleBank s q) := by
  unfold State.settleBank
  split
  · exact .refl
  · split
    · split
      · exact retireLimitCheck_moves _
      · exact bankOfflineCheck_moves _
    · exact bankOfflineCheck_moves _
    all_goals exact .refl

theorem orphanCheck_moves (q : PageNo) : Moves s (s.orphanCheck q) := by
  unfold State.orphanCheck
  split
  · next h =>
    exact (dissolve_moves q).trans (.single (.releaseOrphan q (by simpa using h.1) (by simpa using h.2.1) (by simpa using h.2.2)))
  · exact .refl

theorem releaseOwned_moves {p : Port} {q : PageNo} (owned : s.owns p q = true) (unmapped : (s.page q).mapCount = 0)
    (unpinned : (s.page q).pinCount = 0) : Moves s (s.releaseOwned p q) :=
  (dissolve_moves q).trans
    (.single (.releaseOwned p q (by simpa [State.owns] using owned) (by simpa using unmapped) (by simpa using unpinned)))

theorem pinUp_moves (q : PageNo) : Moves s (s.pinUp q) := .single (.pins q _)

theorem pinDown_moves (q : PageNo) : Moves s (s.pinDown q) := (Moves.one (.pins q _)).trans (orphanCheck_moves q)

theorem unpinClaim_moves (q : PageNo) : Moves s (s.unpinClaim q) := (pinDown_moves q).trans (settleBank_moves s q)

theorem alloc_moves (p : Port) (t : Tag) (count : Byte) : Moves s (s.alloc p t count) := by
  simp only [State.alloc]
  split
  · exact answer_moves _ _ _ _ _
  split
  · exact answer_moves _ _ _ _ _
  split
  · exact answer_moves _ _ _ _ _
  · exact (Moves.one (.take p _ (by omega))).trans (answer_moves _ _ _ _ _)

theorem free_moves (p : Port) (t : Tag) (page : Half) : Moves s (s.free p t page) := by
  unfold State.free
  split
  · exact answer_moves _ _ _ _ _
  split
  · exact answer_moves _ _ _ _ _
  split
  · exact answer_moves _ _ _ _ _
  split
  · exact answer_moves _ _ _ _ _
  split
  · exact answer_moves _ _ _ _ _
  next owned unmapped unpinned _ =>
    exact ((releaseOwned_moves (by simpa using owned) (by omega) (by omega)).trans (answer_moves _ _ _ _ _)).trans
      (settleBank_moves s _)

theorem pageQuery_moves (p : Port) (t : Tag) (page : Half) : Moves s (s.pageQuery p t page) := by
  unfold State.pageQuery
  split <;> exact answer_moves _ _ _ _ _

theorem drain_moves (p : Port) (t : Tag) (bank : Byte) : Moves s (s.drain p t bank) := by
  unfold State.drain
  split
  · exact answer_moves _ _ _ _ _
  split
  · exact answer_moves _ _ _ _ _
  · next h => exact (answer_moves _ _ _ _ _).trans (drainBank_moves _ _ (by simpa using h))

theorem restore_moves (p : Port) (t : Tag) (bank : Byte) : Moves s (s.restore p t bank) := by
  unfold State.restore
  split
  · exact answer_moves _ _ _ _ _
  split
  · exact answer_moves _ _ _ _ _
  · next h =>
    exact (answer_moves _ _ _ _ _).trans ((Moves.one (.restore _ (by simpa using h))).trans (offerSupervisor_moves _))

theorem disownPage_moves {p : Port} {q : PageNo} (owned : s.owns p q = true) : Moves s (s.disownPage p q) := by
  unfold State.disownPage
  split
  · next h => exact (releaseOwned_moves owned h.1 h.2).trans (settleBank_moves s q)
  · exact .single (.orphan p q owned)

theorem clearGrants_moves (p : Port) : Moves s (s.clearGrants p) := .single (.clearGrants p)

/-! ### The ownership step meets each page of the port as it was at the beginning -/

/-- The page records after a bank's FREE pages are withheld. -/
theorem withholdBank_page (b : BankNo) (x : PageNo) :
    (s.withholdBank b).page x = if inBank b x then (s.page x).withhold else s.page x := by
  simp [State.withholdBank, State.page]

/-- The page records after a bank's WITHHELD pages are returned. -/
theorem returnBank_page (b : BankNo) (x : PageNo) :
    (s.returnBank b).page x = if inBank b x then (s.page x).unwithhold else s.page x := by
  simp [State.returnBank, State.page]

theorem offerSupervisor_page (e : Event) : (s.offerSupervisor e).page = s.page := by
  unfold State.offerSupervisor
  split <;> rfl

theorem bankOfflineCheck_page (b : BankNo) : (s.bankOfflineCheck b).page = s.page := by
  unfold State.bankOfflineCheck
  split
  · rw [State.moveBank, offerSupervisor_page]; rfl
  · rfl

theorem drainBank_page (b : BankNo) (cause : BankCause) (x : PageNo) :
    (s.drainBank b cause).page x = if inBank b x then (s.page x).withhold else s.page x := by
  rw [State.drainBank, bankOfflineCheck_page, State.moveBank, offerSupervisor_page]
  exact withholdBank_page b x

/-- A page ALLOCATED to a port stays so whatever bank checks run. -/
theorem owns_withhold {r : PageRec} {p : Port} (h : r.state = .allocated ∧ r.owner = some p) :
    r.withhold.state = .allocated ∧ r.withhold.owner = some p := by
  simp [PageRec.withhold, h]

theorem owns_iff {p : Port} {q : PageNo} : s.owns p q = true ↔ (s.page q).state = .allocated ∧ (s.page q).owner = some p := by
  simp [State.owns]

theorem retireLimitCheck_owns {b : BankNo} {p : Port} {x : PageNo} (h : s.owns p x = true) :
    (s.retireLimitCheck b).owns p x = true := by
  unfold State.retireLimitCheck
  split
  · rw [owns_iff] at *
    rw [drainBank_page]
    split
    · exact owns_withhold h
    · exact h
  · exact h

theorem settleBank_owns {before : State} {q : PageNo} {p : Port} {x : PageNo} (h : s.owns p x = true) :
    (before.settleBank s q).owns p x = true := by
  have check : ∀ b, (s.bankOfflineCheck b).owns p x = true := fun b => by
    rw [owns_iff] at *; rw [bankOfflineCheck_page]; exact h
  unfold State.settleBank
  split
  · exact h
  · split
    · split
      · exact retireLimitCheck_owns h
      · exact check _
    · exact check _
    all_goals exact h

/-- The change of one page leaves the others as they are. -/
theorem changePage_page_ne {q x : PageNo} {new : PageState} {f : PageRec → PageRec} (h : x ≠ q) :
    (s.changePage q new f).page x = s.page x := by
  rw [State.changePage, State.page_modPage_ne _ _ _ h]
  rfl

theorem releaseOwned_page_ne {p : Port} {q x : PageNo} (h : x ≠ q) : (s.releaseOwned p q).page x = s.page x := by
  rw [State.releaseOwned, State.page_modOwned, State.releasePage, State.placeReleased, changePage_page_ne h]
  show (s.dissolve q).page x = s.page x
  rw [dissolve_page]

/-- Disowning one page leaves the port's other pages its own. -/
theorem disownPage_owns {p : Port} {q x : PageNo} (h : s.owns p x = true) (ne : x ≠ q) :
    (s.disownPage p q).owns p x = true := by
  unfold State.disownPage
  split
  · apply settleBank_owns
    rw [owns_iff] at *
    rw [releaseOwned_page_ne ne]
    exact h
  · rw [owns_iff] at *
    rw [State.page_modOwned, changePage_page_ne ne]
    exact h

theorem disownAll_moves (p : Port) (l : List PageNo) (nodup : l.Nodup) (owned : ∀ q ∈ l, s.owns p q = true) :
    Moves s (l.foldl (fun s q => s.disownPage p q) s) := by
  induction l generalizing s with
  | nil => exact .refl
  | cons q l ih =>
    obtain ⟨hq, hl⟩ := List.nodup_cons.mp nodup
    refine (disownPage_moves (owned q (by simp))).trans (ih hl fun x hx => ?_)
    exact disownPage_owns (owned x (by simp [hx])) fun e => hq (e ▸ hx)

theorem ownershipStep_moves (p : Port) : Moves s (s.ownershipStep p) := by
  refine disownAll_moves p _ (nodup_indexesWhere _ _) fun q hq => ?_
  rw [State.pagesWhere, mem_indexesWhere] at hq
  exact hq

/-! ## The Frame Map Unit -/

/-- A right that allows some access is on a page in use (R4). -/
theorem inUse_of_allows {r : PageRec} {p : Port} {a : Access} (h : (r.rightOf p).allows a = true) : r.inUse := by
  unfold PageRec.rightOf at h
  unfold PageRec.inUse
  split at h <;> simp_all [Right.allows]

theorem mapDown_moves {u : State} {q : PageNo} (h : Moves s (u.modPage q fun r => { r with mapCount := r.mapCount - 1 })) :
    Moves s (u.mapDown q) := h.trans (orphanCheck_moves q)

theorem disableClaim_moves {p : Port} {set : MapSet} {f : FrameNo} {e : Entry} (enabled : s.resolve p set f = some e) :
    Moves s ((s.setEntry p set f none).mapDown e.page) := mapDown_moves (.single (.disable p set f e enabled))

theorem mapTaken_moves {p : Port} {t : Tag} {set : MapSet} {f : FrameNo} {q : PageNo} {a : Access} (used : (s.page q).inUse) :
    Moves s (s.mapTaken p t set f q a) := by
  simp only [State.mapTaken]
  cases h : s.resolve p set f with
  | none => exact (Moves.one (.enable p set f q a h used)).trans (answer_moves _ _ _ _ _)
  | some e =>
    refine Relation.ReflTransGen.trans ?_ (answer_moves _ _ _ _ _)
    simp only [State.mapClaim]
    split
    · next same => exact .single (.entryAccess p set f _ (by simp [h, same]))
    · next other => exact (mapDown_moves (.single (.replace p set f e q a h other used))).trans (settleBank_moves _ _)

theorem mapFrame_moves (p : Port) (t : Tag) (set : MapSet) (frame : Byte) (page : Half) (a : Access) :
    Moves s (s.mapFrame p t set frame page a) := by
  unfold State.mapFrame
  split
  · split
    · next h => exact mapTaken_moves (inUse_of_allows h)
    · exact answer_moves _ _ _ _ _
  all_goals exact answer_moves _ _ _ _ _

theorem unmapFrame_moves (p : Port) (t : Tag) (set : MapSet) (frame : Byte) : Moves s (s.unmapFrame p t set frame) := by
  unfold State.unmapFrame
  split
  · exact answer_moves _ _ _ _ _
  split
  · exact answer_moves _ _ _ _ _
  · next h => exact ((disableClaim_moves h).trans (answer_moves _ _ _ _ _)).trans (settleBank_moves s _)

theorem selectFrames_moves (p : Port) (t : Tag) (set : MapSet) : Moves s (s.selectFrames p t set) := by
  unfold State.selectFrames
  split
  · exact answer_moves _ _ _ _ _
  split
  · exact answer_moves _ _ _ _ _
  split
  · exact (Moves.one (.selection p _ rfl rfl)).trans (answer_moves _ _ _ _ _)
  · exact .single (.selection p _ rfl rfl)

theorem mapQuery_moves (p : Port) (t : Tag) (set : MapSet) (first count : Byte) : Moves s (s.mapQuery p t set first count) := by
  simp only [State.mapQuery]
  split <;> exact answer_moves _ _ _ _ _

theorem downgradeEntry_moves (p : Port) (x : MapSet × FrameNo) : Moves s (s.downgradeEntry p x) :=
  .single (.entryAccess p x.1 x.2 _ (by cases s.resolve p x.1 x.2 <;> rfl))

theorem disableEntry_moves (p : Port) (x : MapSet × FrameNo) : Moves s (s.disableEntry p x) := by
  unfold State.disableEntry
  split
  · exact .refl
  · next h => exact (disableClaim_moves h).trans (settleBank_moves _ _)

theorem offerMapChanged_moves (target : Port) (q : PageNo) (pairs : List ChangedEntry) :
    Moves s (s.offerMapChanged target q pairs) := by
  simp only [State.offerMapChanged]
  split
  · exact .refl
  split
  · exact offer_moves _ _
  · exact (offer_moves _ _).trans (offer_moves _ _)

theorem grantTaken_moves {p : Port} {t : Tag} {q : PageNo} {target : Port} {right : Right}
    (allocated : (s.page q).state = .allocated) : Moves s (s.grantTaken p t q target right) := by
  have set : Moves s (s.setGrant q target right) := .single (.setGrant q target right allocated)
  simp only [State.grantTaken]
  split
  · exact ((set.trans (Moves.foldl (fun _ x => downgradeEntry_moves _ x) _ _)).trans (answer_moves _ _ _ _ _)).trans
      (offerMapChanged_moves _ _ _)
  · exact ((set.trans (Moves.foldl (fun _ x => disableEntry_moves _ x) _ _)).trans (answer_moves _ _ _ _ _)).trans
      (offerMapChanged_moves _ _ _)
  · exact ((set.trans (Moves.foldl (fun _ x => disableEntry_moves _ x) _ _)).trans (answer_moves _ _ _ _ _)).trans
      (offerMapChanged_moves _ _ _)
  all_goals exact set.trans (answer_moves _ _ _ _ _)

theorem grant_moves (p : Port) (t : Tag) (page : Half) (target : Byte) (right : Right) :
    Moves s (s.grant p t page target right) := by
  unfold State.grant
  split
  · split
    · exact answer_moves _ _ _ _ _
    split
    · exact answer_moves _ _ _ _ _
    split
    · exact answer_moves _ _ _ _ _
    next owned _ _ => exact grantTaken_moves (by simp [State.owns] at owned; exact owned.1)
  all_goals exact answer_moves _ _ _ _ _

/-! ## The Access Unit -/

theorem placeAccess_moves (p : Port) (t : Tag) (q : PageNo) (offset : Nat) (kind : StoreKind) :
    Moves s (s.placeAccess p t q offset kind) := by
  rw [State.placeAccess]
  refine .tail (b := State.modMap _ p fun m => { m with inFlight := m.inFlight + 1 }) ?_
    (.port p (fun c => { c with inFlight := c.inFlight + 1 }) (.inFlight _ _))
  refine .tail (b := State.modQueue _ _ _) ?_ (.selection p _ rfl rfl)
  refine .tail (b := State.pinUp _ q) ?_ (.place { origin := .access p t, kind := kind, page := q, offset := offset })
  exact .tail (.single (.accesses _)) (.pins q _)

theorem access_moves (p : Port) (t : Tag) (frame : Byte) (offset : Half) (kind : StoreKind) :
    Moves s (s.access p t frame offset kind) := by
  unfold State.access
  split
  · exact answer_moves _ _ _ _ _
  · exact placeAccess_moves _ _ _ _ _

/-! ## The end of CLOSING -/

theorem answerClose_moves (p : Port) : Moves s (s.answerClose p) := by
  unfold State.answerClose
  split
  · split
    · exact .refl
    · exact answer_moves _ _ _ _ _
  · exact .refl

theorem offerPortDown_moves (p : Port) : Moves s (s.offerPortDown p) := by
  unfold State.offerPortDown
  split
  · split
    · exact .refl
    · exact offer_moves _ _
  all_goals exact .refl

theorem closedCheck_moves (p : Port) : Moves s (s.closedCheck p) := by
  unfold State.closedCheck
  split
  · next h =>
    have closing : (s.port p).session = .closing := by
      simp only [PortCtl.mayClose, Bool.and_eq_true, beq_iff_eq] at h
      exact h.1.1
    exact (((Moves.one (.closed p closing)).trans (answerClose_moves p)).trans (offerPortDown_moves p)).trans
      (.single (.port p _ (.closeReason _ none)))
  · exact .refl

/-! ## The Copy Engine -/

theorem placeCopyOp_moves (id : Byte) (kind : StoreKind) (place : PageNo × Nat) : Moves s (s.placeCopyOp id kind place) :=
  .single (.place { origin := .copy id, kind := kind, page := place.1, offset := place.2 })

theorem unpinJob_moves (j : Job) : Moves s (s.unpinJob j) := Moves.foldl (fun _ q => unpinClaim_moves q) _ _

theorem reportJobEnd_moves (j : Job) (outcome : JobOutcome) : Moves s (s.reportJobEnd j outcome) := by
  unfold State.reportJobEnd
  split
  · exact offer_moves _ _
  · exact (Moves.one (.port _ _ (.activeJob _ false))).trans (closedCheck_moves _)

theorem finishJob_moves (j : Job) (outcome : JobOutcome) : Moves s (s.finishJob j outcome) :=
  ((Moves.one (.removeJob j.id)).trans (unpinJob_moves j)).trans (reportJobEnd_moves j outcome)

/-- The job the choice takes is in the queue. -/
theorem nextJob_mem {j : Job} (h : s.nextJob = some j) : j ∈ s.jobs := by
  obtain ⟨p, _, hp⟩ := List.exists_of_findSome?_eq_some h
  exact List.mem_of_find?_eq_some hp

theorem runChoice_moves (n : Nat) : Moves s (State.runChoice n s) := by
  induction n generalizing s with
  | zero => exact .refl
  | succ n ih =>
    rw [State.runChoice]
    split
    · exact .refl
    next idle =>
    split
    · exact .refl
    next j next =>
    have act : Moves s (s.activate j) := .single (.activate j idle (nextJob_mem next))
    split
    · exact act.trans (placeCopyOp_moves _ _ _)
    · exact (act.trans (finishJob_moves _ _)).trans ih

theorem choose_moves : Moves s s.choose := runChoice_moves _

theorem decisionPoint_moves (j : Job) : Moves s (s.decisionPoint j) := by
  unfold State.decisionPoint
  split
  · exact placeCopyOp_moves _ _ _
  · exact (finishJob_moves _ _).trans choose_moves

/-- An id that no job bears is found within eight steps while the queue has room (R101). -/
theorem freeId_fresh (room : s.jobs.length < Config.jobPlaces) (id : Byte) :
    s.idInUse (s.freeId Config.jobPlaces id) = false := by
  have run : ∀ (n : Nat) (id : Byte), s.idInUse (s.freeId n id) = true → ∀ k ≤ n, s.idInUse (id + BitVec.ofNat 8 k) = true := by
    intro n
    induction n with
    | zero => intro id h k hk; obtain rfl : k = 0 := by omega
              simpa [State.freeId] using h
    | succ n ih =>
      intro id h k hk
      rw [State.freeId] at h
      split at h
      · next used =>
        cases k with
        | zero => simpa using used
        | succ k =>
          have := ih (id + 1) h k (by omega)
          rwa [BitVec.add_assoc, show (1 : Byte) + BitVec.ofNat 8 k = BitVec.ofNat 8 (k + 1) by
            rw [Nat.add_comm, BitVec.ofNat_add]; rfl] at this
      · next unused => exact absurd h unused
  by_contra used
  rw [Bool.not_eq_false] at used
  have all := run _ id used
  have sub : (Finset.range 9).image (fun k => id + BitVec.ofNat 8 k) ⊆ (s.jobs.map (·.id)).toFinset := by
    intro x hx
    obtain ⟨k, hk, rfl⟩ := Finset.mem_image.mp hx
    have := all k (by have := Finset.mem_range.mp hk; simp only [Config.jobPlaces]; omega)
    simpa [State.idInUse] using this
  have card : ((Finset.range 9).image fun k => id + BitVec.ofNat 8 k).card = 9 := by
    rw [Finset.card_image_of_injOn, Finset.card_range]
    intro a ha b hb h
    have ha := Finset.mem_range.mp (Finset.mem_coe.mp ha)
    have hb := Finset.mem_range.mp (Finset.mem_coe.mp hb)
    have := congrArg BitVec.toNat h
    simp only [BitVec.toNat_add, BitVec.toNat_ofNat] at this
    omega
  have le := (Finset.card_le_card sub).trans (List.toFinset_card_le _)
  rw [card, List.length_map] at le
  simp only [Config.jobPlaces] at room
  omega

theorem acceptJob_moves {p : Port} {t : Tag} {code : Byte} {kind : JobKind} {dstSet : MapSet} {dstPages : List PageNo}
    {dstStart length : Nat} (room : s.jobsFull p = false) :
    Moves s (s.acceptJob p t code kind dstSet dstPages dstStart length) := by
  simp only [State.jobsFull, Bool.or_eq_false_iff, decide_eq_false_iff_not, Nat.not_le] at room
  refine Relation.ReflTransGen.trans ?_ choose_moves
  refine Relation.ReflTransGen.trans ?_ (answer_moves _ _ _ _ _)
  refine Relation.ReflTransGen.trans ?_ (Moves.foldl (fun _ q => pinUp_moves q) _ _)
  exact .single (.addJob _ _ room.1 room.2 (freeId_fresh room.1 _) rfl)

theorem copy_moves (p : Port) (t : Tag) (ss : SetCode) (sf : Byte) (so : Half) (ds : SetCode) (df : Byte) (dOff : Half)
    (n : Word) : Moves s (s.copy p t ss sf so ds df dOff n) := by
  simp only [State.copy]
  split
  · exact answer_moves _ _ _ _ _
  split
  · split
    · exact answer_moves _ _ _ _ _
    split
    · exact answer_moves _ _ _ _ _
    split
    · exact answer_moves _ _ _ _ _
    · next room => exact acceptJob_moves (by simpa using room)
  all_goals exact answer_moves _ _ _ _ _

theorem fill_moves (p : Port) (t : Tag) (ds : SetCode) (df : Byte) (dOff : Half) (n pattern : Word) :
    Moves s (s.fill p t ds df dOff n pattern) := by
  simp only [State.fill]
  split
  · exact answer_moves _ _ _ _ _
  split
  · exact answer_moves _ _ _ _ _
  split
  · exact answer_moves _ _ _ _ _
  split
  · exact answer_moves _ _ _ _ _
  · next room => exact acceptJob_moves (by simpa using room)

theorem cancel_moves (p : Port) (t : Tag) (id : Byte) : Moves s (s.cancel p t id) := by
  unfold State.cancel
  split
  · exact answer_moves _ _ _ _ _
  · split
    · exact (((answer_moves _ _ _ _ _).trans (.single (.removeJob id))).trans (unpinJob_moves _)).trans (offer_moves _ _)
    · exact (Moves.one (.cancelJob id)).trans (answer_moves _ _ _ _ _)

theorem jobQuery_moves (p : Port) (t : Tag) (id : Byte) : Moves s (s.jobQuery p t id) := by
  unfold State.jobQuery
  split <;> exact answer_moves _ _ _ _ _

/-! ## The switch and the completions -/

theorem handHeld_moves (p : Port) (t : Tag) (r : Request) : Moves s (s.handHeld p t r) := by
  unfold State.handHeld
  split
  · exact access_moves _ _ _ _ _
  · exact acquire_moves _ _ _ _ _ _
  · exact copy_moves _ _ _ _ _ _ _ _ _
  · exact fill_moves _ _ _ _ _ _ _
  all_goals exact .refl

theorem releaseHeld_moves (p : Port) (x : Slot) : Moves s (s.releaseHeld p x) :=
  (Moves.one (.port p _ (.setSlot _ x.tag .inFlight))).trans (handHeld_moves p x.tag x.request)

theorem switchTo_moves (p : Port) (set : MapSet) : Moves s (s.switchTo p set) := by
  simp only [State.switchTo]
  refine Relation.ReflTransGen.trans ?_
    (Moves.foldl (fun _ x => releaseHeld_moves p x) _ _)
  refine (Moves.one (.selection p (fun m => { m with present := set, pendingSet := none }) rfl rfl)).trans ?_
  unfold State.answerSelect
  split
  · exact .refl
  · exact answer_moves _ _ _ _ _

theorem switchCheck_moves (p : Port) : Moves s (s.switchCheck p) := by
  unfold State.switchCheck
  split
  · exact .refl
  · split
    · exact switchTo_moves _ _
    · exact .refl

theorem endAccess_moves (p : Port) : Moves s (s.endAccess p) := by
  unfold State.endAccess
  refine Relation.ReflTransGen.trans ?_ (closedCheck_moves p)
  refine Relation.ReflTransGen.trans ?_ (switchCheck_moves p)
  exact (Moves.one (.selection p _ rfl rfl)).trans (.single (.port p _ (.inFlight _ _)))

theorem replyAccess_moves (p : Port) (t : Tag) (code : Byte) (st : Status) (pay : Payload) :
    Moves s (s.replyAccess p t code st pay) := by
  unfold State.replyAccess
  split
  · exact answer_moves _ _ _ _ _
  · exact freeSlot_moves _ _

theorem completeAccess_moves (p : Port) (t : Tag) (op : StoreOp) (st : Status) (pay : Payload) :
    Moves s (s.completeAccess p t op st pay) :=
  (((Moves.one (.accesses _)).trans (unpinClaim_moves op.page)).trans (replyAccess_moves _ _ _ _ _)).trans (endAccess_moves p)

theorem befall_moves : Moves s s.befall := by
  unfold State.befall
  split
  · exact .refl
  · exact .single (.strike _ _)

theorem befallBad_moves (op : StoreOp) : Moves s (s.befallBad op) := by
  unfold State.befallBad
  split
  · exact befall_moves.trans (.single (.spoil _))
  · exact befall_moves

/-- A fault of the medium changes the pool and the model's own list of faults alone. -/
theorem befall_rest : s.befall = { s with pool := s.befall.pool, faults := s.befall.faults } := by
  unfold State.befall
  split <;> rfl

theorem befallBad_rest (op : StoreOp) :
    s.befallBad op = { s with pool := (s.befallBad op).pool, faults := (s.befallBad op).faults } := by
  unfold State.befallBad
  split
  · rw [befall_rest]
  · exact befall_rest

@[simp] theorem befall_queue (b : BankNo) : s.befall.queue b = s.queue b := by rw [befall_rest]; rfl
@[simp] theorem befallBad_queue (op : StoreOp) (b : BankNo) : (s.befallBad op).queue b = s.queue b := by rw [befallBad_rest]; rfl
@[simp] theorem befall_jobs : s.befall.jobs = s.jobs := by rw [befall_rest]
@[simp] theorem befallBad_jobs (op : StoreOp) : (s.befallBad op).jobs = s.jobs := by rw [befallBad_rest]

theorem accessGood_moves (b : BankNo) : Moves s (s.accessGood b) := by
  unfold State.accessGood
  split
  · exact .refl
  · next op rest h =>
    split
    · exact .refl
    · simp only
      split
      · exact (befall_moves.trans (.single (.pop b op rest _ (by simpa using h) (.inr rfl)))).trans
          (completeAccess_moves _ _ _ _ _)
      · exact .refl

theorem accessBad_moves (b : BankNo) : Moves s (s.accessBad b) := by
  unfold State.accessBad
  split
  · exact .refl
  · next op rest h =>
    split
    · exact .refl
    · split
      · exact (((befallBad_moves op).trans (.single (.poison op.page))).trans
          (.single (.pop b op rest _ (by simpa [State.poison] using h) (.inl rfl)))).trans (completeAccess_moves _ _ _ _ _)
      · exact .refl

theorem copyReadGood_moves (b : BankNo) : Moves s (s.copyReadGood b) := by
  unfold State.copyReadGood
  split
  · exact .refl
  · next op rest h =>
    split
    · simp only
      split
      · have read : ∀ data, Moves s { s.befall.popOp b s.befall.pool with segment := data } := fun data =>
          (befall_moves.trans (.single (.pop b op rest _ (by simpa using h) (.inl rfl)))).trans (.single (.segment data))
        split
        · exact read _
        · exact (read _).trans (placeCopyOp_moves _ _ _)
      · exact .refl
    all_goals exact .refl

theorem copyReadBad_moves (b : BankNo) : Moves s (s.copyReadBad b) := by
  unfold State.copyReadBad
  split
  · exact .refl
  · next op rest h =>
    split
    · simp only
      have popped : Moves s (((s.befallBad op).poison op.page).popOp b (s.befallBad op).pool) :=
        ((befallBad_moves op).trans (.single (.poison op.page))).trans
          (.single (.pop b op rest _ (by simpa [State.poison] using h) (.inl rfl)))
      split
      · exact popped
      · exact (popped.trans (finishJob_moves _ _)).trans choose_moves
    all_goals exact .refl

theorem copyWriteGood_moves (b : BankNo) : Moves s (s.copyWriteGood b) := by
  unfold State.copyWriteGood
  split
  · exact .refl
  · next op rest h =>
    split
    · simp only
      have popped : Moves s { s.befall.popOp b (op.store s.befall.pool) with segment := [] } :=
        (befall_moves.trans (.single (.pop b op rest _ (by simpa using h) (.inr rfl)))).trans (.single (.segment _))
      split
      · exact popped
      · exact (popped.trans (.single (.jobBytes _ _))).trans (decisionPoint_moves _)
    all_goals exact .refl

/-! ## Sessions -/

theorem openPort_moves (p : Port) (t : Tag) : Moves s (s.openPort p t) := by
  unfold State.openPort
  split
  · next h => exact (Moves.one (.openSession p h)).trans (answer_moves _ _ _ _ _)
  all_goals exact answer_moves _ _ _ _ _

theorem dropJob_moves (p : Port) (id : Byte) : Moves s (s.dropJob p id) := by
  unfold State.dropJob
  split
  · exact .refl
  · exact (Moves.one (.removeJob id)).trans (unpinJob_moves _)

theorem markActive_moves (p : Port) : Moves s (s.markActive p) := by
  unfold State.markActive
  split
  · exact .single (.port p _ (.activeJob _ false))
  · split
    · exact (Moves.one (.cancelJob _)).trans (.single (.port p _ (.activeJob _ true)))
    · exact .single (.port p _ (.activeJob _ false))

theorem tearDownPart_moves (p : Port) (x : TeardownPart) : Moves s (s.tearDownPart p x) := by
  unfold State.tearDownPart
  split
  · exact unlockForTeardown_moves _ _
  · exact disableEntry_moves _ _
  · exact dropJob_moves _ _
  · exact markActive_moves _
  · exact ownershipStep_moves _
  · exact clearGrants_moves _
  · exact closedCheck_moves _

theorem tearDownShares_moves (p : Port) : Moves s (s.tearDownShares p) :=
  (Moves.one (.schedule _)).trans (Moves.foldl (fun _ x => tearDownPart_moves p x) _ _)

theorem enterClosing_moves {p : Port} {reason : CloseReason} (opened : (s.port p).session = .opened) :
    Moves s (s.enterClosing p reason) := by
  refine Relation.ReflTransGen.trans ?_ (tearDownShares_moves p)
  refine (Moves.one (.beginClosing p reason opened)).trans ?_
  cases reason with
  | ejected => exact offer_moves _ _
  | closed => exact .refl
  | linkLost => exact .refl

/-! ## The Supervisor Unit -/

theorem claim_moves {p : Port} {t : Tag} (opened : (s.port p).session = .opened) : Moves s (s.claim p t) := by
  unfold State.claim
  split
  · exact (Moves.one (.role p opened)).trans (answer_moves _ _ _ _ _)
  · split <;> exact answer_moves _ _ _ _ _

theorem handover_moves (p : Port) (t : Tag) (target : Byte) : Moves s (s.handover p t target) := by
  unfold State.handover
  split
  · exact answer_moves _ _ _ _ _
  split
  · exact answer_moves _ _ _ _ _
  split
  · exact answer_moves _ _ _ _ _
  · next opened =>
    exact ((Moves.one (.role _ (by simpa [State.isOpen] using opened))).trans (answer_moves _ _ _ _ _)).trans (offer_moves _ _)

theorem configure_moves (p : Port) (t : Tag) (f : ConfigFields) : Moves s (s.configure p t f) := by
  simp only [State.configure]
  split
  · exact answer_moves _ _ _ _ _
  split
  · exact answer_moves _ _ _ _ _
  have set : Moves s ({ s with config := s.config.write f }.answer p t 0x60 .ok (.config (s.config.write f))) :=
    (Moves.one (.config _)).trans (answer_moves _ _ _ _ _)
  split
  · exact set.trans (Moves.foldl (fun _ b => retireLimitCheck_moves b) _ _)
  · exact set

theorem eject_moves (p : Port) (t : Tag) (target : Byte) : Moves s (s.eject p t target) := by
  unfold State.eject
  split
  · exact answer_moves _ _ _ _ _
  split
  · exact answer_moves _ _ _ _ _
  split
  · exact answer_moves _ _ _ _ _
  · next opened =>
    exact (answer_moves _ _ _ _ _).trans
      (enterClosing_moves (by rw [answer_session]; simpa [State.isOpen] using opened))

/-! ## Requests -/

theorem handOver_moves {p : Port} {t : Tag} {r : Request} (h : r.passesUnopened = true ∨ (s.port p).session = .opened) :
    Moves s (s.handOver p t r) := by
  unfold State.handOver
  split
  · exact openPort_moves _ _
  · exact enterClosing_moves (by simpa [Request.passesUnopened] using h)
  · exact answer_moves _ _ _ _ _
  · exact claim_moves (by simpa [Request.passesUnopened] using h)
  · exact handover_moves _ _ _
  · exact alloc_moves _ _ _
  · exact free_moves _ _ _
  · exact grant_moves _ _ _ _ _
  · exact pageQuery_moves _ _ _
  · exact mapFrame_moves _ _ _ _ _ _
  · exact unmapFrame_moves _ _ _ _
  · exact selectFrames_moves _ _ _
  · exact mapQuery_moves _ _ _ _ _
  · exact handHeld_moves _ _ _
  · exact handHeld_moves _ _ _
  · exact release_moves _ _ _
  · exact renew_moves _ _ _ _
  · exact handHeld_moves _ _ _
  · exact handHeld_moves _ _ _
  · exact cancel_moves _ _ _
  · exact jobQuery_moves _ _ _
  · exact configure_moves _ _ _
  · exact drain_moves _ _ _
  · exact restore_moves _ _ _
  · exact eject_moves _ _ _
  · exact answer_moves _ _ _ _ _

/-- What a request that passes checks 3 to 6 finds. -/
theorem portCheck_none {p : Port} {t : Tag} {r : Request} (h : s.portCheck p t r = none) :
    (r.passesUnopened = true ∨ (s.port p).session = .opened) ∧ (∀ x ∈ (s.port p).slots, x.tag ≠ t) ∧
      (s.port p).slots.length < Config.slotPlaces ∧ (r.isReserved = true → s.role = some p) := by
  simp only [State.portCheck] at h
  split at h
  · simp at h
  next h1 =>
  split at h
  · simp at h
  next h2 =>
  split at h
  · simp at h
  next h3 =>
  split at h
  · simp at h
  next h4 =>
  refine ⟨?_, by simpa using h2, by omega, ?_⟩
  · simp only [not_and_or, not_not, Bool.not_eq_true, Bool.not_eq_false'] at h1
    tauto
  · intro r; simpa [r] using h4

theorem take_moves {p : Port} {t : Tag} {r : Request} (h : s.portCheck p t r = none) : Moves s (s.take p t r) := by
  obtain ⟨opened, fresh, room, _⟩ := portCheck_none h
  have occupy : ∀ st, Moves s (s.occupy p t r st) := fun st =>
    .single (.port p _ (.occupy _ { tag := t, request := r, state := st } fresh room))
  unfold State.take
  split
  · exact occupy _
  · exact (occupy _).trans (handOver_moves (by simpa [State.occupy] using opened))

theorem judge_moves (p : Port) (t : Tag) (code : Byte) (m : Parsed) : Moves s (s.judge p t code m) := by
  unfold State.judge
  split
  · exact .refl
  · split
    · exact refuse_moves _ _ _ _
    · exact refuse_moves _ _ _ _
    · split
      · exact refuse_moves _ _ _ _
      · next h => exact take_moves h

theorem judgeBody_moves (p : Port) (body : List Byte) : Moves s (s.judgeBody p body) := by
  unfold State.judgeBody
  split
  · exact judge_moves _ _ _ _
  all_goals exact .refl

theorem receive_moves (p : Port) (t : Tag) (code : Byte) (m : Parsed) : Moves s (s.receive p t code m) := by
  unfold State.receive
  split
  · exact judge_moves _ _ _ _
  · exact .refl

/-! ## The line -/

theorem setRx_moves (p : Port) (rx : RxState) (gap : Option Nat) : Moves s (s.setRx p rx gap) :=
  .single (.port p _ (.receiver _ rx gap))

theorem reject_moves (p : Port) (rx : RxState) (gap : Option Nat) (reason : RejectReason) :
    Moves s (s.reject p rx gap reason) := (setRx_moves p rx gap).trans (offer_moves _ _)

theorem frameComplete_moves (p : Port) (body : List Byte) : Moves s (s.frameComplete p body) := by
  unfold State.frameComplete
  split
  · exact .refl
  · split
    · exact judgeBody_moves _ _
    · exact offer_moves _ _

theorem receiveByte_moves (p : Port) (b : Byte) : Moves s (s.receiveByte p b) := by
  simp only [State.receiveByte]
  split
  · split
    · exact setRx_moves _ _ _
    · exact .refl
  · split
    · exact setRx_moves _ _ _
    · exact reject_moves _ _ _ _
  · split <;> exact setRx_moves _ _ _
  · exact setRx_moves _ _ _
  · split
    · exact (setRx_moves _ _ _).trans (frameComplete_moves _ _)
    · exact reject_moves _ _ _ _
  · exact setRx_moves _ _ _

theorem receiveError_moves (p : Port) : Moves s (s.receiveError p) := by
  simp only [State.receiveError]
  split
  · exact .refl
  · exact reject_moves _ _ _ _
  · exact reject_moves _ _ _ _
  · exact reject_moves _ _ _ _
  · exact setRx_moves _ _ _

theorem gapRunOut_moves (p : Port) : Moves s (s.gapRunOut p) := by
  unfold State.gapRunOut
  split
  · exact reject_moves _ _ _ _
  · exact .refl

theorem resyncRunOut_moves (p : Port) : Moves s (s.resyncRunOut p) := by
  unfold State.resyncRunOut
  split
  · exact setRx_moves _ _ _
  · exact .refl

theorem breakBegins_moves (p : Port) : Moves s (s.breakBegins p) := by
  simp only [State.breakBegins]
  split
  · exact .refl
  split
  · have off : Moves s (s.modPort p (·.breakOff)) := .single (.port p _ (.breakOff _))
    split
    · next opened => exact off.trans (enterClosing_moves (by simpa [State.isOpen, PortCtl.breakOff] using opened))
    · exact off
  · next running => exact .single (.lineBreak p true (by simpa [State.isRunning] using running))

theorem breakEnds_moves (p : Port) : Moves s (s.breakEnds p) := by
  unfold State.breakEnds
  split
  · exact .refl
  split
  · exact .single (.port p _ (.breakOver _ _))
  · next running => exact .single (.lineBreak p false (by simpa [State.isRunning] using running))

/-! ## Timers -/

theorem dueGaps_moves (l : List Port) : Moves s (l.foldl State.takeGapDue s) :=
  Moves.foldl (fun _ p => (gapRunOut_moves p).trans (resyncRunOut_moves p)) l s

theorem leaseRunOut_moves (q : PageNo) (p : Port) : Moves s (s.leaseRunOut q p) := by
  unfold State.leaseRunOut
  split
  · exact expireLease_moves q p
  · exact .refl

theorem waitRunOut_moves (q : PageNo) (p : Port) : Moves s (s.waitRunOut q p) := by
  unfold State.waitRunOut
  split
  · exact timeOutWait_moves q p
  · exact .refl

theorem dueLeases_moves (l : List (PageNo × Port)) : Moves s (l.foldl (fun s x => s.leaseRunOut x.1 x.2) s) :=
  Moves.foldl (fun _ x => leaseRunOut_moves x.1 x.2) l s

theorem dueWaits_moves (l : List (PageNo × Port)) : Moves s (l.foldl (fun s x => s.waitRunOut x.1 x.2) s) :=
  Moves.foldl (fun _ x => waitRunOut_moves x.1 x.2) l s

theorem takeDue_moves : Moves s s.takeDue := ((dueGaps_moves _).trans (dueLeases_moves _)).trans (dueWaits_moves _)

/-! ## Start-up -/

theorem releaseReset_moves : Moves s s.releaseReset := by
  simp only [State.releaseReset]
  refine (Moves.one .released).trans ?_
  split
  · exact .refl
  · split
    · exact .single .resetLine
    · exact .single (.clear _ _ _)

theorem enterRunning_moves (straps : Vector Straps 4) : Moves s (s.enterRunning straps) :=
  (Moves.one (.enter straps)).trans (Moves.foldl (fun _ p => offer_moves p _) _ _)

/-! ## Commands -/

/-- A command's effect made under a condition. -/
theorem ite_moves {c : Prop} [Decidable c] {u : State} (h : c → Moves s u) : Moves s (if c then u else s) := by
  split
  · next hc => exact h hc
  · exact .refl

/-- Every command answers a next state, which a sequence of moves reaches. -/
theorem exec_moves (i : Instr) (s : State) : ∃ u, exec i s = .next u ∧ Moves s u := by
  cases i
  case byteReceived p b => exact ⟨_, rfl, ite_moves fun _ => receiveByte_moves p b⟩
  case characterError p => exact ⟨_, rfl, ite_moves fun _ => receiveError_moves p⟩
  case breakBegins p => exact ⟨_, rfl, breakBegins_moves p⟩
  case breakEnds p => exact ⟨_, rfl, breakEnds_moves p⟩
  case gapTimerRunsOut p => exact ⟨_, rfl, ite_moves fun _ => gapRunOut_moves p⟩
  case resyncEnd p => exact ⟨_, rfl, ite_moves fun _ => resyncRunOut_moves p⟩
  case lastByteSent p => exact ⟨_, rfl, ite_moves fun h => .single (.port p _ (.sent _ h.2))⟩
  case tick => exact ⟨_, rfl, ite_moves fun _ => takeDue_moves.trans (.single .lowerTimers)⟩
  case leaseExpiry q p => exact ⟨_, rfl, ite_moves fun _ => leaseRunOut_moves q p⟩
  case waitTimeout q p => exact ⟨_, rfl, ite_moves fun _ => waitRunOut_moves q p⟩
  case grantStep q => exact ⟨_, rfl, ite_moves fun _ => grantStep_moves q⟩
  case accessCompletionGood b => exact ⟨_, rfl, ite_moves fun _ => accessGood_moves b⟩
  case accessCompletionUncorrectable b => exact ⟨_, rfl, ite_moves fun _ => accessBad_moves b⟩
  case switch p => exact ⟨_, rfl, ite_moves fun _ => switchCheck_moves p⟩
  case bankOffline b => exact ⟨_, rfl, ite_moves fun _ => bankOfflineCheck_moves b⟩
  case jobChoice => exact ⟨_, rfl, ite_moves fun _ => choose_moves⟩
  case copyReadComplete b => exact ⟨_, rfl, ite_moves fun _ => copyReadGood_moves b⟩
  case copyReadUncorrectable b => exact ⟨_, rfl, ite_moves fun _ => copyReadBad_moves b⟩
  case copyWriteComplete b => exact ⟨_, rfl, ite_moves fun _ => copyWriteGood_moves b⟩
  case closedReached p => exact ⟨_, rfl, ite_moves fun _ => closedCheck_moves p⟩
  case powerOn =>
    refine ⟨_, rfl, ?_⟩
    split
    · exact .single (.halt true s.resetAsserted .powerOn)
    · exact .single (.clear true s.resetAsserted .powerOn)
  case supplyFails => exact ⟨_, rfl, .single (.halt false s.resetAsserted .powerOn)⟩
  case resetAsserted =>
    refine ⟨_, rfl, ?_⟩
    split
    · exact .refl
    · exact .single (.halt s.supplyGood true s.startAfterAssertion)
  case resetReleased => exact ⟨_, rfl, ite_moves fun _ => releaseReset_moves⟩
  case runningEntry => exact ⟨_, rfl, ite_moves fun _ => enterRunning_moves _⟩
  case operationCarriedToEnd b outcome =>
    refine ⟨_, rfl, ite_moves fun _ => ?_⟩
    unfold State.carryOp
    split
    · exact .refl
    · next op rest h =>
      simp only
      split
      · exact (befallBad_moves op).trans (.single (.carry b op rest (by simpa using h)))
      · exact befall_moves.trans (.single (.carry b op rest (by simpa using h)))
  all_goals exact ⟨_, rfl, receive_moves _ _ _ _⟩

/-- A property that every move keeps is kept by every step. -/
theorem step_keeps {P : State → Prop} (keep : ∀ s u, Move s u → P s → P u) (pending : ∀ s l, P s → P { s with pending := l })
    {s u : State} (h : step s = .next u) (hs : P s) : P u := by
  unfold step at h
  split at h
  · cases h; exact hs
  · next c rest _ =>
    obtain ⟨v, hv, moves⟩ := exec_moves c { s with pending := rest }
    rw [hv] at h
    cases h
    exact moves.keeps keep (pending s rest hs)

end Sys2Proof.Machine
end

