-- ==== Sys2Proof/Laws/Requests.lean ====
section
/-! SUPPORT. How a request command reaches its unit, and what a reply leaves: once for all requests, so that a proof about one
of them begins at its unit's own rule. -/

namespace Sys2Proof.Machine

variable {s : State} {p : Port} {t : Tag}

/-- Check 3 to check 6 pass on a request that is taken. -/
theorem portCheck_of_takes (h : s.Takes p t) {r : Request} (role : r.isReserved = true → s.role = some p) :
    s.portCheck p t r = none := by
  have free : (s.port p).slots.any (·.tag == t) = false := by
    simpa using fun x hx => h.tagFree x hx
  have room : ¬ (Config.slotPlaces ≤ (s.port p).slots.length) := by have := h.slotFree; show ¬ (4 ≤ _); omega
  simp only [State.portCheck, h.opened, free, room]
  by_cases hr : r.isReserved = true
  · simp [role hr]
  · simp [hr]

/-- A request that is taken goes to State.take. -/
theorem receive_of_takes (h : s.Takes p t) (code : Byte) {r : Request} (role : r.isReserved = true → s.role = some p) :
    s.receive p t code (.request r) = s.take p t r := by
  have run : s.isRunning = true := by simp [State.isRunning, h.hears.running]
  have drops : (s.port p).dropsRequests = false := by simp [PortCtl.dropsRequests, h.opened]
  simp [State.receive, run, h.hears.line, State.judge, drops, portCheck_of_takes h role]

/-- A request that R42 does not name is handed over with its slot IN-FLIGHT. -/
theorem take_not_held {r : Request} (h : r.isHeld = false) : s.take p t r = (s.withSlot p t r .inFlight).handOver p t r := by
  simp [State.take, h]; rfl

/-- With no SELECT pending every request is handed over with its slot IN-FLIGHT. -/
theorem take_at_once {r : Request} (h : (s.map p).pendingSet = none) :
    s.take p t r = (s.withSlot p t r .inFlight).handOver p t r := by
  simp [State.take, h]; rfl

/-- While a SELECT is pending a request that R42 names is HELD. -/
theorem take_held {r : Request} (h : (s.map p).pendingSet ≠ none) (hr : r.isHeld = true) :
    s.take p t r = s.withSlot p t r .held := by
  obtain ⟨set, hs⟩ := Option.ne_none_iff_exists'.mp h
  simp [State.take, hs, hr]; rfl

/-- A request that is taken and that R42 does not name reaches its unit. -/
theorem receive_handed (h : s.Takes p t) (code : Byte) {r : Request} (role : r.isReserved = true → s.role = some p)
    (free : r.isHeld = false) : s.receive p t code (.request r) = (s.withSlot p t r .inFlight).handOver p t r := by
  rw [receive_of_takes h code role, take_not_held free]

/-- With no SELECT pending every request that is taken reaches its unit. -/
theorem receive_at_once (h : s.TakesAtOnce p t) (code : Byte) {r : Request} (role : r.isReserved = true → s.role = some p) :
    s.receive p t code (.request r) = (s.withSlot p t r .inFlight).handOver p t r := by
  rw [receive_of_takes h.toTakes code role, take_at_once h.noSelect]

/-- Freeing the slot just taken leaves the slots as they were. -/
theorem filter_slots_append {l : List Slot} (h : ∀ x ∈ l, x.tag ≠ t) (r : Request) (st : SlotState) :
    (l ++ [({ tag := t, request := r, state := st } : Slot)]).filter (·.tag ≠ t) = l := by
  simpa [List.filter_append, List.filter_eq_self] using h

/-- A request answered in its own step leaves its reply and no slot. -/
theorem answer_withSlot (h : ∀ x ∈ (s.port p).slots, x.tag ≠ t) (r : Request) (st : SlotState) (code : Byte) (status : Status)
    (pay : Payload) : (s.withSlot p t r st).answer p t code status pay = s.reply p t code status pay := by
  simp only [State.answer, State.reply, State.withSlot, State.modPort, PortCtl.freeSlot, State.port, Fin.getElem_fin,
    Vector.getElem_set_self, Vector.set_set]
  rw [filter_slots_append (by simpa [State.port] using h)]

section withSlot
variable (s p t) (r : Request) (st : SlotState)

@[simp] theorem withSlot_map (x : Port) : (s.withSlot p t r st).map x = s.map x := rfl
@[simp] theorem withSlot_page (q : PageNo) : (s.withSlot p t r st).page q = s.page q := rfl
@[simp] theorem withSlot_bank (b : BankNo) : (s.withSlot p t r st).bank b = s.bank b := rfl
@[simp] theorem withSlot_queue (b : BankNo) : (s.withSlot p t r st).queue b = s.queue b := rfl
@[simp] theorem withSlot_ownedBy (x : Port) : (s.withSlot p t r st).ownedBy x = s.ownedBy x := rfl
@[simp] theorem withSlot_lockOf (q : PageNo) : (s.withSlot p t r st).lockOf q = s.lockOf q := rfl
@[simp] theorem withSlot_resolve (x : Port) (set : MapSet) (f : FrameNo) :
    (s.withSlot p t r st).resolve x set f = s.resolve x set f := rfl
@[simp] theorem withSlot_owns (x : Port) (q : PageNo) : (s.withSlot p t r st).owns x q = s.owns x q := rfl
@[simp] theorem withSlot_config : (s.withSlot p t r st).config = s.config := rfl
@[simp] theorem withSlot_freeList : (s.withSlot p t r st).freeList = s.freeList := rfl
@[simp] theorem withSlot_role : (s.withSlot p t r st).role = s.role := rfl
@[simp] theorem withSlot_jobs : (s.withSlot p t r st).jobs = s.jobs := rfl
@[simp] theorem withSlot_locks : (s.withSlot p t r st).locks = s.locks := rfl
@[simp] theorem withSlot_phase : (s.withSlot p t r st).phase = s.phase := rfl
@[simp] theorem withSlot_session (x : Port) : ((s.withSlot p t r st).port x).session = (s.port x).session := by
  simp only [State.withSlot, State.port_modPort]; split <;> simp_all
@[simp] theorem withSlot_isOpen (x : Port) : (s.withSlot p t r st).isOpen x = s.isOpen x := by simp [State.isOpen]

end withSlot

end Sys2Proof.Machine
end

