-- ==== Sys2Proof/Tests/Slice0.lean ====
section
/-! SUPPORT. The model's own tests: commands the outside cannot send are refused by the check of WellFormed; the spec's worked
figures; one step of the main commands; and, for every statement with hypotheses, concrete states and operands that meet them
(test_meets_<statement>), each clause at the ends of its range. -/

namespace Sys2Proof.Tests
open Sys2Proof.Machine

set_option Elab.async false

/-! ## States to test with -/

/-- A page owned by port 0, with one entry naming it. -/
def ownedRec : PageRec :=
  { state := .allocated, owner := some 0, grants := noGrants, mapCount := 1, pinCount := 0, poisoned := false }

/-- A state with a port OPEN and its queue sent. -/
def opened (s : State) (p : Port) : State :=
  s.modPort p fun c => { c with session := .opened, outbound := [], tx := .idle }

/-- Ports 0 and 1 OPEN, the role with port 0; page 0 owned by port 0, which maps it READ-WRITE at frame 0 of set A. -/
def owned : State :=
  ((({ opened (opened State.reset 0) 1 with
        role := some 0, freeList := (List.finRange 2048).tail,
        pages := (Vector.replicate 2048 PageRec.free).set 0 ownedRec } : State).modBank 0 fun r =>
      { r with free := 511, allocated := 1 }).modOwned 0 (· + 1)).setEntry 0 .a 0 (some { page := 0, access := .readWrite })

/-- The state a command answers. -/
def after (c : Instr) (s : State) : State :=
  match exec c s with
  | .next u => u
  | .fault _ | .refused _ => s

/-- The last message in a port's queue. -/
def lastMessage (s : State) (p : Port) : Option Message := (s.port p).outbound.getLast?

/-- The pool with these cells and no word damaged. -/
def sound (cells : List Host.Cell) : Pool := { cells := cells, damage := [] }

/-! ## Commands that the outside cannot send -/

theorem test_write_of_247_bytes_is_well_formed : (Instr.write 0 0 0 0 (List.replicate 247 0)).wellFormed = true := by decide +kernel

theorem test_write_of_248_bytes_is_refused : (Instr.write 0 0 0 0 (List.replicate 248 0)).wellFormed = false := by decide +kernel

theorem test_configure_with_an_unnamed_field_is_refused :
    (Instr.configure 0 0 0x00 1 0 0 0 0 0 0).wellFormed = false ∧ (Instr.configure 0 0 0x01 1 5 0 0 0 0 0).wellFormed = false ∧
      (Instr.configure 0 0 0x03 1 5 9 0 0 0 0).wellFormed = false ∧ (Instr.configure 0 0 0x07 1 5 9 1 0 0 0).wellFormed = false ∧
      (Instr.configure 0 0 0x0F 1 5 9 1 1 0 0).wellFormed = false ∧ (Instr.configure 0 0 0x1F 1 5 9 1 1 1 0).wellFormed = false ∧
      (Instr.configure 0 0 0x3F 1 5 9 1 1 1 1).wellFormed = false := by
  decide

theorem test_configure_with_named_fields_is_well_formed :
    (Instr.configure 0 0 0x7F 1 5 9 1 1 1 1).wellFormed = true ∧ (Instr.configure 0 0 0x00 0 0 0 0 0 0 0).wellFormed = true := by
  decide

/-! ## Figures the spec works out -/

theorem test_check_over_nine_digits : frameCheck [0x31, 0x32, 0x33, 0x34, 0x35, 0x36, 0x37, 0x38, 0x39] = 0x29B1 := by decide +kernel

theorem test_fill_pattern_bytes : patternBytes 0x11223344 4 = [0x44, 0x33, 0x22, 0x11] := by decide +kernel

theorem test_add_wraps :
    ((AtomicOp.add 1).run 0xFFFFFFFF).1 = some 0 ∧ ((AtomicOp.add 0xFFFFFFFF).run 0).1 = some 0xFFFFFFFF := by decide

theorem test_dectest_never_wraps :
    AtomicOp.dectest.run 0 = (none, .countdown 0 .wasZero) ∧ AtomicOp.dectest.run 1 = (some 0, .countdown 0 .reachedZero) ∧
      AtomicOp.dectest.run 2 = (some 1, .countdown 1 .nonzero) := by
  decide

theorem test_word_stored_low_byte_first :
    writeBytes [] 4 (wordBytes 0x00220011) = [(4, 0x11), (6, 0x22)] ∧ readWord [(4, 0x11), (6, 0x22)] 4 = 0x00220011 := by
  decide

theorem test_writing_zero_removes_the_cell : writeByte [(4, 0x11), (6, 0x22)] 4 0 = [(6, 0x22)] := by decide

/-- A job for the tests: the fields that no test asks about are the same throughout. -/
def job (kind : JobKind) (dst : List PageNo) (dstStart length bytesDone : Nat) (state : JobState) : Job :=
  { id := 7, port := 0, kind := kind, dstSet := .a, dstPages := dst, dstStart := dstStart, length := length,
    bytesDone := bytesDone, state := state, cancel := false }

theorem test_segment_stops_at_a_page_end :
    (job (.copy .a [1, 2] 4090) [3, 4] 0 300 0 .active).segmentLength = 6 ∧
      (job (.copy .a [1, 2] 4090) [3, 4] 0 300 6 .active).segmentLength = 64 ∧
      (job (.fill 0) [3] 0 8 0 .active).segmentLength = 8 := by
  decide

/-- Table 5-3, the four choices. -/
theorem test_choice_examples :
    let j := fun (id : Byte) (p : Port) => { job (.fill 0) [0] 0 4 0 .queued with id := id, port := p }
    let next := fun (last : Port) jobs =>
      (({ State.reset with lastServed := last, jobs := jobs } : State).nextJob).map fun j => (j.id, j.port)
    next 3 [j 4 2, j 5 0] = some (5, 0) ∧ next 0 [j 4 2, j 6 1, j 7 1] = some (6, 1) ∧
      next 1 [j 4 2, j 7 1] = some (4, 2) ∧ next 2 [j 7 1] = some (7, 1) := by
  decide +kernel

/-! ## The line -/

theorem test_character_sends_the_low_bit_first :
    character 0xC3 = [.space, .mark, .mark, .space, .space, .space, .space, .mark, .mark, .mark] := by decide

theorem test_line_reports_of_twenty_spaces :
    ∀ line : LineType, LineWatch.idle.reports line (List.replicate 20 .space ++ List.replicate 10 .mark) =
      [.characterError, .breakBegins, .breakEnds] := by
  intro line; cases line <;> decide +kernel

theorem test_line_reports_of_no_valid_level :
    LineWatch.idle.reports .differential (List.replicate 20 .invalid ++ List.replicate 10 .mark) = [.breakBegins, .breakEnds] := by
  decide +kernel

theorem test_line_reports_of_two_bytes :
    LineWatch.idle.reports .singleEnded ((character 0x00 ++ [.mark]) ++ character 0xFF) = [.byte 0x00, .byte 0xFF] := by decide +kernel

/-! ## Steps -/

theorem test_open_after_reset_gains_the_role :
    (after (.openPort 2 5) .reset).role = some 2 ∧ ((after (.openPort 2 5) .reset).port 2).session = .opened ∧
      lastMessage (after (.openPort 2 5) .reset) 2 = some (.reply 5 0x01 .ok (.session 2 true 512 0)) := by
  decide +kernel

theorem test_alloc_takes_pages_in_order :
    lastMessage (after (.alloc 0 1 3) owned) 0 = some (.reply 1 0x10 .ok (.pages [1, 2, 3])) ∧
      (after (.alloc 0 1 3) owned).ownedBy 0 = 4 ∧ ((after (.alloc 0 1 3) owned).page 3).owner = some 0 := by
  decide +kernel

theorem test_free_of_a_mapped_page_is_refused :
    lastMessage (after (.free 0 1 0) owned) 0 = some (.reply 1 0x11 .inUse .none) := by decide +kernel

theorem test_unmap_then_free :
    let s := after (.free 0 2 0) (after (.unmap 0 1 0 0) owned)
    lastMessage s 0 = some (.reply 2 0x11 .ok .none) ∧ (s.page 0).state = .free ∧ s.freeList.getLast? = some 0 ∧
      s.ownedBy 0 = 0 := by
  decide +kernel

theorem test_map_that_replaces_the_last_use_tells_the_bank_first :
    let s := (((owned.modPage 0 fun r => { r with state := .orphaned, owner := none }).modPage 1 fun _ =>
      { ownedRec with mapCount := 0 }).modBank 0 fun b => { b with state := .draining, free := 0, allocated := 0, orphaned := 1 })
    ((after (.map 0 1 0 0 1 1) s).port 0).outbound =
      [.event (.bankState 0 .offline .drained), .reply 1 0x20 .ok (.previous (some 0))] := by
  decide +kernel

theorem test_map_without_a_right_is_denied :
    lastMessage (after (.map 1 1 0 0 0 0) owned) 1 = some (.reply 1 0x20 .denied .none) := by decide +kernel

theorem test_grant_lets_another_port_map :
    lastMessage (after (.map 1 1 0 5 0 0) (after (.grant 0 1 0 1 1) owned)) 1 = some (.reply 1 0x20 .ok (.previous none)) := by
  decide +kernel

theorem test_read_is_placed_and_completes :
    let s := after (.read 0 3 0 16 4) { owned with pool := sound [(17, 0xAB)] }
    (s.queue 0).length = 1 ∧ (s.page 0).pinCount = 1 ∧ (s.port 0).inFlight = 1 ∧
      lastMessage (after (.accessCompletionGood 0) s) 0 = some (.reply 3 0x30 .ok (.bytes [0, 0xAB, 0, 0])) ∧
      ((after (.accessCompletionGood 0) s).page 0).pinCount = 0 := by
  decide +kernel

theorem test_uncorrectable_read_poisons :
    let s := after (.accessCompletionUncorrectable 0) (after (.read 0 3 0 16 4) owned)
    (s.page 0).poisoned = true ∧ lastMessage s 0 = some (.reply 3 0x30 .mediaError .none) := by
  decide +kernel

/-- A word of page 0 that its check code cannot repair, and a word that it repairs to 0. -/
def faulty : Pool :=
  { cells := [(16, 0x55), (19, 0x66), (32, 0x77)], damage := [{ word := 4, repaired := none }, { word := 8, repaired := some 0 }] }

theorem test_partial_write_renews_the_code_over_a_faulty_value :
    let s := after (.accessCompletionGood 0) (after (.write 0 3 0 16 [0x11]) { owned with pool := faulty })
    lastMessage s 0 = some (.reply 3 0x31 .ok .none) ∧ s.pool.damageOf 4 = none ∧
      s.pool.bytes 16 4 = [0x11, 0, 0, 0x66] ∧ s.pool.bytes 32 4 = [0, 0, 0, 0] := by
  decide +kernel

theorem test_read_repairs_or_is_uncorrectable :
    lastMessage (after (.accessCompletionGood 0) (after (.read 0 3 0 32 4) { owned with pool := faulty })) 0 =
        some (.reply 3 0x30 .ok (.bytes [0, 0, 0, 0])) ∧
      (let s := after (.read 0 3 0 16 4) { owned with pool := faulty }
       (after (.accessCompletionGood 0) s).queue 0 = s.queue 0 ∧ (after (.accessCompletionUncorrectable 0) s).pool = faulty) := by
  decide +kernel

theorem test_faults_arise_before_the_operation :
    let s := after (.read 0 3 0 0 4)
      { owned with faults := [[{ word := 0, stored := 9, repairable := true }, { word := 1, stored := 7, repairable := false }]] }
    lastMessage (after (.accessCompletionGood 0) s) 0 = some (.reply 3 0x30 .ok (.bytes [0, 0, 0, 0])) ∧
      (after (.accessCompletionGood 0) s).pool =
        { cells := [(0, 9), (4, 7)], damage := [{ word := 0, repaired := some 0 }, { word := 1, repaired := none }] } := by
  decide +kernel

theorem test_acquire_and_lease_expiry :
    let s := after (.acquire 0 1 0 1 1 0) owned
    lastMessage s 0 = some (.reply 1 0x40 .ok (.lease 0 1)) ∧
      lastMessage (after (.leaseExpiry 0 0) (after .tick s)) 0 = some (.event (.leaseLost 0)) ∧
      (after (.leaseExpiry 0 0) (after .tick s)).locks = [] := by
  decide +kernel

theorem test_fill_runs_to_its_end :
    let s := after (.fill 0 1 2 0 8 4 0x11223344) owned
    lastMessage s 0 = some (.reply 1 0x51 .ok (.jobId 0)) ∧
      (after (.copyWriteComplete 0) s).pool = sound [(8, 0x44), (9, 0x33), (10, 0x22), (11, 0x11)] ∧
      lastMessage (after (.copyWriteComplete 0) s) 0 = some (.event (.jobEnd 0 .done 4)) ∧
      (after (.copyWriteComplete 0) s).jobs = [] := by
  decide +kernel

theorem test_close_releases_everything :
    let s := after (.closePort 0 4) owned
    (s.port 0).session = .closed ∧ s.role = none ∧ (s.page 0).state = .free ∧ s.ownedBy 0 = 0 ∧
      lastMessage s 0 = some (.reply 4 0x02 .ok .none) ∧ s.resolve 0 .a 0 = none := by
  decide +kernel

/-- Port 1 closing, the last user of bank 0: its page's release takes the bank OFFLINE. -/
def lastUser : State :=
  ((owned.setEntry 0 .a 0 none).modPage 0 fun r => { r with owner := some 1, mapCount := 0 }).modBank 0 fun b =>
    { b with state := .draining, free := 0, withheld := 511 }

theorem test_closed_test_stands_where_the_schedule_puts_it :
    let bank := Message.event (.bankState 0 .offline .drained)
    let down := Message.event (.portDown 1 .closed)
    let close := fun schedule => ((after (.closePort 1 4) { lastUser with schedule := schedule }).port 0).outbound
    close [] = [bank, down] ∧ close [0, 0, 0, 2] = [down, bank] := by
  decide +kernel

theorem test_drain_and_restore :
    let s := after (.drain 0 1 1) owned
    (s.bank 1).state = .offline ∧ (s.bank 1).withheld = 512 ∧ s.freeList.length = 1535 ∧
      (after (.restore 0 2 1) s).freeList.length = 2047 ∧ ((after (.restore 0 2 1) s).bank 1).state = .online := by
  decide +kernel

theorem test_reserved_requests_ask_for_the_role :
    lastMessage (after (.poolQuery 1 6) owned) 1 = some (.reply 6 0x64 .notSupervisor .none) := by decide +kernel

theorem test_configure_answers_with_the_record :
    lastMessage (after (.configure 0 0 0x05 20 0 9 0 0 0 0) owned) 0 =
      some (.reply 0 0x60 .ok (.config { gapTime := 20, defaultLease := 1000, retireLimit := 9, quota := #v[512, 512, 512, 512] })) := by
  decide +kernel

theorem test_frame_of_alloc_is_alloc :
    lastMessage ([0xC3, 0x03, 0x11, 0x10, 0x03].foldl (fun s b => after (.byteReceived 0 b) s) owned) 0 = none ∧
      lastMessage ((frameOf [0x11, 0x10, 0x03]).foldl (fun s b => after (.byteReceived 0 b) s) owned) 0 =
        some (.reply 1 0x10 .ok (.pages [1, 2, 3])) := by
  decide +kernel

theorem test_reset_line_carries_the_operation_in_progress_alone :
    let access : StoreOp := { origin := .access 0 3, kind := .write [1], page := 0, offset := 0 }
    let copy : StoreOp := { origin := .copy 7, kind := .write [2], page := 0, offset := 8 }
    let halted := fun ops => after .resetAsserted (owned.modQueue 0 fun _ => ops)
    (halted [access, access, copy]).queue 0 = [access] ∧ (halted [copy, access]).queue 0 = [copy] ∧
      (let u := after (.operationCarriedToEnd 0 .good) (halted [access, copy])
       u.pool = sound [(0, 1)] ∧ u.queue 0 = []) ∧
      (after (.operationCarriedToEnd 0 .good) (halted [copy, access])).pool = sound [(8, 2)] := by
  decide +kernel

theorem test_reset_line_keeps_pool_bytes :
    let s := after (.runningEntry .low .low .low .low) (after .resetReleased (after .resetAsserted { owned with pool := sound [(5, 1)] }))
    s.pool = sound [(5, 1)] ∧ s.phase = .running ∧ (s.page 0).state = .free ∧
      lastMessage s 3 = some (.event (.ready .resetLine)) := by
  decide +kernel

/-! ## States that meet the hypotheses of the statements -/

theorem hears_iff {s : State} {p : Port} : s.Hears p ↔ s.phase = .running ∧ (s.port p).breakInForce = false :=
  ⟨fun h => ⟨h.1, h.2⟩, fun h => ⟨h.1, h.2⟩⟩

theorem takes_iff {s : State} {p : Port} {t : Tag} : s.Takes p t ↔
    (s.phase = .running ∧ (s.port p).breakInForce = false) ∧ (s.port p).session = .opened ∧
      (∀ x ∈ (s.port p).slots, x.tag ≠ t) ∧ (s.port p).slots.length < 4 :=
  ⟨fun h => ⟨hears_iff.mp h.1, h.2, h.3, h.4⟩, fun h => ⟨hears_iff.mpr h.1, h.2.1, h.2.2.1, h.2.2.2⟩⟩

theorem takesAtOnce_iff {s : State} {p : Port} {t : Tag} : s.TakesAtOnce p t ↔ s.Takes p t ∧ (s.map p).pendingSet = none :=
  ⟨fun h => ⟨h.1, h.2⟩, fun h => ⟨h.1, h.2⟩⟩

/-- Whether a request is taken rests on the phase, the ports and the maps alone. -/
theorem takes_of_same {s u : State} {p : Port} {t : Tag} (phase : u.phase = s.phase) (ports : u.ports = s.ports)
    (maps : u.maps = s.maps) (h : s.TakesAtOnce p t) : u.TakesAtOnce p t := by
  simp only [takesAtOnce_iff, takes_iff, State.port, State.map, phase, ports, maps] at h ⊢
  exact h

theorem owned_takes : ∀ t, owned.TakesAtOnce 0 t := by
  simp only [takesAtOnce_iff, takes_iff]; decide +kernel

theorem owned_takes_one : ∀ t, owned.TakesAtOnce 1 t := by
  simp only [takesAtOnce_iff, takes_iff]; decide +kernel

/-! ### The directory of the state with one page in use -/

theorem owned_pages : owned.pages = (Vector.replicate 2048 PageRec.free).set 0 ownedRec := by
  simp only [owned, State.setEntry, State.modMap_pages, State.modOwned, State.modBank_pages]

theorem owned_freeList : owned.freeList = (List.finRange 2048).tail := by
  simp only [owned, State.setEntry, State.modMap_freeList, State.modOwned, State.modBank_freeList]

theorem owned_page (q : PageNo) : owned.page q = if q = 0 then ownedRec else .free := by
  rw [State.page, owned_pages]
  rcases eq_or_ne q 0 with rfl | h
  · simp
  · have : (0 : Nat) ≠ q.val := fun e => h (Fin.ext e.symm)
    simp [this, h]

theorem mem_finRange_tail : ∀ q : PageNo, q ∈ (List.finRange 2048).tail ↔ q ≠ 0 := by
  intro q
  rw [List.finRange_succ]
  simp [Fin.exists_succ_eq]

theorem owned_counts :
    (∀ b, (owned.bank b).free = owned.pagesIn b .free) ∧ (∀ b, (owned.bank b).allocated = owned.pagesIn b .allocated) ∧
      (∀ b, (owned.bank b).orphaned = owned.pagesIn b .orphaned) ∧ (∀ b, (owned.bank b).withheld = owned.pagesIn b .withheld) ∧
      (∀ b, (owned.bank b).retired = owned.pagesIn b .retired) ∧ ∀ p, owned.ownedBy p = owned.pagesOwned p := by
  simp only [State.pagesIn, State.pagesOwned, owned_page]; decide +kernel

theorem owned_online : ∀ b, (owned.bank b).state = .online := by decide +kernel

theorem owned_directory : owned.DirectorySound where
  freeOnce := by rw [owned_freeList]; exact (List.nodup_finRange 2048).tail
  freeExactly q := by rw [owned_page, owned_freeList, mem_finRange_tail]; split <;> simp_all [PageRec.free, ownedRec]
  bankFree := owned_counts.1
  bankAllocated := owned_counts.2.1
  bankOrphaned := owned_counts.2.2.1
  bankWithheld := owned_counts.2.2.2.1
  bankRetired := owned_counts.2.2.2.2.1
  ownedCounts := owned_counts.2.2.2.2.2
  quota := by decide +kernel
  owner q := by rw [owned_page]; split <;> simp [PageRec.free, ownedRec]
  grants q := by rw [owned_page]; split <;> simp [PageRec.free, ownedRec]
  onlineBank q := by rw [owned_page]; split <;> simp [PageRec.free, ownedRec]
  drainedBank q h := absurd (owned_online _) h
  offlineBank q h := by simp [owned_online] at h

theorem owned_entry : ∀ x : Port × FrameNo,
    (owned.map x.1).setA[x.2] = (if x = (0, 0) then some { page := 0, access := .readWrite } else none) ∧
      (owned.map x.1).setB[x.2] = none := by
  decide +kernel

theorem owned_maps : owned.MapCountsExact := by
  intro q
  rw [owned_page]
  by_cases h : q = 0
  · subst h
    refine ⟨?_, by simp [PageRec.inUse, ownedRec]⟩
    unfold State.entriesNaming; decide +kernel
  · have e : owned.entriesNaming q = 0 := by
      simp only [State.entriesNaming, (owned_entry _).1, (owned_entry _).2, Nat.add_eq_zero_iff, Finset.card_eq_zero,
        Finset.filter_eq_empty_iff]
      refine ⟨fun x _ => ?_, fun x _ => by simp [names]⟩
      by_cases hx : x = (0, 0)
      · simp [hx, names, Ne.symm h]
      · simp [hx, names]
    simp [h, e, PageRec.free]

theorem owned_locks : owned.LockTableSound where
  places := by decide +kernel
  pagesOnce := by decide +kernel
  entries := by rw [show owned.locks = [] by decide +kernel]; nofun

theorem owned_jobs : owned.JobQueueSound := ⟨by decide +kernel, by decide +kernel, by decide +kernel, by decide +kernel⟩

/-! ### The other invariants of that state: no work is in flight, no lock held, no slot occupied -/

theorem owned_idle : owned.accesses = [] ∧ owned.jobs = [] ∧ owned.locks = [] ∧ (∀ b, owned.queue b = []) ∧
    ∀ p, (owned.port p).slots = [] ∧ (owned.port p).inFlight = 0 ∧ (owned.port p).activeJob = false ∧
      (owned.port p).closeReason = none ∧ (owned.map p).inFlight = 0 ∧ (owned.map p).present = .a ∧
      (owned.map p).pendingSet = none := by
  decide +kernel

theorem owned_pins : owned.PinCountsExact where
  pins q := by simp only [State.usesOf, owned_idle.1, owned_idle.2.1]; rw [owned_page]; split <;> rfl
  unused q _ := by
    refine ⟨?_, ?_⟩
    · rw [owned_page]; split <;> rfl
    · rw [State.lockOf, owned_idle.2.2.1]; rfl
  orphaned q h := by rw [owned_page] at h; split at h <;> cases h

theorem owned_ports : owned.PortsBounded := by
  intro p
  have h : ∀ p, (owned.port p).slots.length ≤ Config.slotPlaces ∧ ((owned.port p).slots.map (·.tag)).Nodup ∧
      (owned.port p).outbound.length ≤ Config.queuePlaces ∧
      ((owned.port p).outbound.filter Message.isCountedEvent).length ≤ Config.eventPlaces ∧
      (owned.port p).lost ≤ Config.lostMax := by decide +kernel
  exact ⟨(h p).1, (h p).2.1, (h p).2.2.1, (h p).2.2.2.1, (h p).2.2.2.2⟩

theorem owned_transmitters : owned.TransmittersFollow := by
  intro _ p
  have h : ∀ p, ((owned.port p).tx = .stopped ↔ (owned.port p).breakInForce = true) ∧
      ((owned.port p).tx = .sending → (owned.port p).outbound ≠ []) ∧
      ((owned.port p).tx = .idle → (owned.port p).outbound = []) := by decide +kernel
  exact ⟨(h p).1, (h p).2.1, (h p).2.2⟩

theorem owned_work : owned.WorkSound where
  inPage b op h := by rw [owned_idle.2.2.2.1 b] at h; cases h
  counts p := by rw [owned_idle.1]; exact ⟨(owned_idle.2.2.2.2 p).2.1, (owned_idle.2.2.2.2 p).2.2.2.2.1⟩
  recordsOnce := by rw [owned_idle.1]; exact List.nodup_nil
  jobs j h := by rw [owned_idle.2.1] at h; cases h
  active h := absurd owned_idle.2.1 h
  accessOps _ b := by rw [owned_idle.2.2.2.1 b, owned_idle.1]; rfl
  copyOps _ := by
    refine ⟨fun _ => ?_, fun j h => ?_⟩
    · simp only [State.copyOps, owned_idle.2.2.2.1]; rfl
    · rw [owned_idle.2.1] at h; cases h
  starting _ := ⟨owned_idle.1, owned_idle.2.1, fun _ => owned_idle.2.2.2.1⟩

theorem owned_unopened : ∀ p, (owned.port p).session ≠ .opened →
    (owned.port p).session = .closed ∧ p ≠ 0 ∧ owned.ownedBy p = 0 := by decide +kernel

theorem owned_sessions : owned.SessionsSound where
  reason := by decide +kernel
  closing p h := by
    have : (owned.port p).session ≠ .opened := by rw [h]; nofun
    rw [(owned_unopened p this).1] at h; cases h
  activeJob := by decide +kernel
  notOpen p h := by
    obtain ⟨-, zero, count⟩ := owned_unopened p h
    refine ⟨fun set f => ?_, (owned_idle.2.2.2.2 p).2.2.2.2.2.1, (owned_idle.2.2.2.2 p).2.2.2.2.2.2, ?_, ?_, count, ?_⟩
    · cases set
      · exact (owned_entry (p, f)).1.trans (if_neg fun e => zero (congrArg Prod.fst e))
      · exact (owned_entry (p, f)).2
    · rw [owned_idle.2.2.1]; nofun
    · rw [owned_idle.2.1]; nofun
    · intro q _; rw [owned_page]; split <;> simp [ownedRec, PageRec.free, noGrants]
  closed p _ := ⟨(owned_idle.2.2.2.2 p).2.1, (owned_idle.2.2.2.2 p).1, by rw [owned_idle.2.1]; nofun⟩

theorem owned_waiters : owned.WaitersSound where
  waiting p x h := by rw [(owned_idle.2.2.2.2 p).1] at h; cases h
  slot := by rw [owned_idle.2.2.1]; nofun
  tagsOnce := by rw [owned_idle.2.2.1]; exact List.nodup_nil

theorem owned_slots : owned.SlotsSound where
  held p x h := by rw [(owned_idle.2.2.2.2 p).1] at h; cases h
  inFlight p x h := by rw [(owned_idle.2.2.2.2 p).1] at h; cases h
  records := by rw [owned_idle.1]; nofun
  select p h := absurd (owned_idle.2.2.2.2 p).2.2.2.2.2.2 h
  close p h := by rw [(owned_idle.2.2.2.2 p).2.2.2.1] at h; cases h

theorem owned_marks : owned.MarksSound where
  unmarked q _ := by rw [owned_page]; split <;> rfl
  retired q h := by rw [owned_page] at h; split at h <;> cases h

theorem owned_sound : owned.Sound where
  phase := ⟨by decide +kernel, by decide +kernel⟩
  marks := owned_marks
  pool := by unfold State.PoolCanonical; decide +kernel
  directory := owned_directory
  mapCounts := owned_maps
  pinCounts := owned_pins
  ports := owned_ports
  transmitters := owned_transmitters
  holder := by unfold State.HolderOpen; decide +kernel
  locks := owned_locks
  jobs := owned_jobs
  work := owned_work
  sessions := owned_sessions
  waiters := owned_waiters
  slots := owned_slots

/-! ### Steps, start-up and reset -/

theorem test_meets_StepRunsFrontCommand : owned.pending = [] := by decide +kernel

/-- The reset line held low. -/
def held (s : State) : State := { s with resetAsserted := true }

theorem test_meets_PowerOnInitialisesEveryTable : owned.resetAsserted = false ∧ (held owned).resetAsserted = true := by
  decide +kernel

theorem test_meets_SupplyAndResetLineMoveThePhase :
    (held owned).resetAsserted = true ∧ (owned.resetAsserted = false ∧ owned.phase = .running) ∧
      (({ owned with phase := .clearing } : State).resetAsserted = false) ∧
      (({ owned with phase := .reset } : State).resetAsserted = false) ∧
      ((held owned).resetAsserted = true ∧ (held owned).supplyGood = true ∧ (held owned).nextStart = .powerOn) ∧
      ((held { owned with supplyGood := false }).resetAsserted = true ∧
        (held { owned with supplyGood := false }).supplyGood = false) := by
  decide +kernel

/-- A word to be added to, at the start of page 0. -/
def carried : StoreOp := { origin := .access 0 3, kind := .readThenWrite (.add 1), page := 0, offset := 0 }

theorem test_meets_CarriedOperationActsOnThePoolAlone :
    let s := { owned with phase := .reset }.modQueue 0 fun _ => [carried]
    s.phase = .reset ∧ s.queue 0 = carried :: [] := by
  decide +kernel

/-- The reset line held after an assertion in RUNNING. -/
def heldFromRunning : State := { owned with phase := .reset, resetAsserted := true, nextStart := .resetLine }

theorem test_meets_ResetLineKeepsRetiredPagesAlone :
    (heldFromRunning.resetAsserted = true ∧ heldFromRunning.supplyGood = true ∧ heldFromRunning.nextStart = .resetLine) ∧
      8 ≤ ((heldFromRunning.modBank 0 fun b => { b with retired := 8 }).bank 0).retired ∧
      ¬ 8 ≤ ((heldFromRunning.modBank 0 fun b => { b with retired := 7 }).bank 0).retired := by
  decide +kernel

/-- Every port CLOSED with an empty queue, in a phase. -/
def silent (phase : Phase) (next : ResetKind) : State :=
  { State.reset with phase := phase, nextStart := next, ports := Vector.replicate 4 (PortCtl.initial false) }

theorem test_meets_RunningEntryOffersReady :
    ((∀ p, ((silent .clearing .powerOn).port p).session = .closed ∧ ((silent .clearing .powerOn).port p).outbound = [] ∧
        ((silent .clearing .powerOn).port p).lost = 0) ∧ (silent .clearing .powerOn).phase = .clearing) ∧
      ((∀ p, ((silent .reset .resetLine).port p).session = .closed ∧ ((silent .reset .resetLine).port p).outbound = [] ∧
        ((silent .reset .resetLine).port p).lost = 0) ∧
        (silent .reset .resetLine).phase = .reset ∧ (silent .reset .resetLine).supplyGood = true ∧
        (silent .reset .resetLine).resetAsserted = false ∧ (silent .reset .resetLine).nextStart = .resetLine ∧
        ∀ b, (silent .reset .resetLine).queue b = []) ∧
      (((silent .reset .resetLine).modQueue 2 fun _ => [carried]).phase = .reset ∧
        ∃ b, ((silent .reset .resetLine).modQueue 2 fun _ => [carried]).queue b ≠ []) ∧
      ((silent .running .powerOn).phase = .running ∧ (silent .reset .powerOn).nextStart = .powerOn ∧
        (held (silent .reset .resetLine)).resetAsserted = true ∧
        ({ silent .reset .resetLine with supplyGood := false } : State).supplyGood = false) := by
  decide +kernel

theorem test_meets_ResetStateIsWherePowerOnLeads :
    owned.resetAsserted = false ∧ (∀ p, (owned.port p).breakInForce = false) ∧ owned.schedule = [] ∧ owned.faults = [] ∧
      owned.pending = [] := by
  decide +kernel

theorem test_meets_NothingHappensOutsideRunning : heldFromRunning.phase ≠ .running ∧ ¬ StartUpCommand .tick :=
  ⟨by decide +kernel, nofun⟩

/-! ### The link -/

/-- Port 0's receiver and gap timer as given. -/
def listening (rx : RxState) (gap : Option Nat) : State := owned.modPort 0 fun c => { c with rx := rx, gap := gap }

theorem listening_hears (rx : RxState) (gap : Option Nat) : (listening rx gap).Hears 0 := by
  have : owned.Hears 0 := (owned_takes 0).hears
  exact ⟨this.running, by simpa [listening] using this.line⟩

@[simp] theorem listening_rx (rx : RxState) (gap : Option Nat) :
    ((listening rx gap).port 0).rx = rx ∧ ((listening rx gap).port 0).gap = gap := by simp [listening]

theorem test_meets_LineCarriesCharacters :
    (∀ high low, ∃ x : Straps, x.rateHigh = high ∧ x.rateLow = low) ∧
      ([Level.space, .mark, .mark, .mark, .mark, .mark, .mark, .mark, .mark, .space].length = 10 ∧
        Level.invalid ∈ [Level.invalid, .mark, .mark, .mark, .mark, .mark, .mark, .mark, .mark, .mark]) ∧
      ({ LineWatch.idle with inBreak := true } : LineWatch).inBreak = true ∧
      (owned.phase = .running ∧ (owned.port 0).tx ≠ .sending ∧ heldFromRunning.phase ≠ .running) ∧
      (State.reset.phase = .running ∧ (State.reset.port 3).tx = .sending ∧
        (State.reset.port 3).outbound = .event (.ready .powerOn) :: []) :=
  ⟨fun high low => ⟨{ lineType := false, rateHigh := high, rateLow := low }, rfl, rfl⟩, by decide, rfl, by decide +kernel,
    by decide +kernel⟩

theorem test_meets_ReceiverTakesAFrame :
    (owned.Hears 0 ∧ (owned.port 0).rx = .hunt ∧ (0xC2 : Byte) ≠ 0xC3) ∧
      ((listening (.length 0xFFFF) none).Hears 0 ∧ ((listening (.length 0xFFFF) none).port 0).rx = .length 0xFFFF ∧
        (2 ≤ (2 : Byte).toNat ∧ (2 : Byte).toNat ≤ 252) ∧ (2 ≤ (252 : Byte).toNat ∧ (252 : Byte).toNat ≤ 252) ∧
        (1 : Byte).toNat < 2 ∧ 252 < (253 : Byte).toNat) ∧
      ((listening .resync none).Hears 0 ∧ ((listening .resync none).port 0).rx = .resync) ∧
      ((listening (.body 3 [0x11, 0x10] 0xFFFF) none).Hears 0 ∧ [(0x11 : Byte), 0x10].length + 1 = 3 ∧
        [(0x11 : Byte)].length + 1 ≠ 3) ∧
      ((listening (.check 2 [0x11, 0x03] 0x1234 none) none).Hears 0 ∧
        ((listening (.check 2 [0x11, 0x03] 0x1234 none) none).port 0).rx = .check 2 [0x11, 0x03] 0x1234 none) ∧
      ((listening (.check 2 [0x11, 0x03] 0x1234 (some 0x12)) none).Hears 0 ∧
        ((0x12 : Byte) = ((0x1234 : BitVec 16) >>> 8).setWidth 8 ∧ (0x34 : Byte) = (0x1234 : BitVec 16).setWidth 8) ∧
        ¬ ((0x12 : Byte) = ((0x1234 : BitVec 16) >>> 8).setWidth 8 ∧ (0x35 : Byte) = (0x1234 : BitVec 16).setWidth 8) ∧
        (0x11 : Byte) >>> 4 = 1 ∧ (0x21 : Byte) >>> 4 ≠ 1) :=
  ⟨⟨(owned_takes 0).hears, by decide +kernel, by decide⟩, ⟨listening_hears _ _, by simp, by decide⟩,
    ⟨listening_hears _ _, by simp⟩, ⟨listening_hears _ _, by decide⟩, ⟨listening_hears _ _, by simp⟩,
    ⟨listening_hears _ _, by decide⟩⟩

theorem test_meets_ErrorsGapsAndBreaks :
    ((listening (.length 0xFFFF) (some 0)).Hears 0 ∧ ((listening (.length 0xFFFF) (some 0)).port 0).rx.inFrame = true ∧
        ((listening (.length 0xFFFF) (some 0)).port 0).gap = some 0) ∧
      ((listening .resync (some 0)).Hears 0 ∧ ((listening .resync (some 0)).port 0).rx = .resync ∧
        ((listening .resync (some 0)).port 0).gap = some 0) ∧
      ((listening .resync (some 1)).Hears 0 ∧ ((listening .resync (some 1)).port 0).gap ≠ some 0) ∧
      ((owned.port 0).rx.inFrame = false ∧ (owned.port 0).rx ≠ .resync) ∧ requestBody (.alloc 2 1 3) = some (2, [0x11, 0x10, 0x03]) ∧
      (owned.phase = .running ∧ (owned.port 2).breakInForce = false ∧ (owned.port 2).session ≠ .opened) ∧
      ((owned.modPort 2 fun c => { c with breakInForce := true }).phase = .running ∧
        ((owned.modPort 2 fun c => { c with breakInForce := true }).port 2).breakInForce = true) :=
  ⟨⟨listening_hears _ _, by simp [RxState.inFrame], by simp⟩, ⟨listening_hears _ _, by simp, by simp⟩,
    ⟨listening_hears _ _, by simp⟩, by decide +kernel, by decide, by decide +kernel, by decide +kernel⟩

/-- Port 0 sending a reply with this many events behind it, after losing events. -/
def sending (events lost : Nat) : PortCtl :=
  { owned.port 0 with outbound := .reply 1 0x10 .ok .none :: List.replicate events (.event .roleGained), lost := lost, tx := .sending }

theorem test_meets_OutboundQueueAdmitsAndSends :
    ((∀ reason, Event.roleGained ≠ .sessionEnd reason) ∧ (owned.port 2).session ≠ .opened ∧
        ∀ kind, Event.roleGained ≠ .ready kind) ∧
      ((owned.port 0).session = .opened ∧
        ((sending 9 1).outbound.length < 11 ∧ 0 < (sending 9 1).lost ∧ (sending 9 1).session = .opened) ∧
        ((sending 10 1).outbound.length = 11 ∧ 0 < (sending 10 1).lost ∧ (sending 10 1).session = .opened) ∧
        ((sending 10 0).outbound.length < 12 ∧ (sending 10 0).lost = 0) ∧ 12 ≤ (sending 11 255).outbound.length) ∧
      (let s := fun n lost => owned.modPort 0 fun _ => sending n lost
       ((s 11 1).phase = .running ∧ ((s 11 1).port 0).tx = .sending ∧ ((s 11 1).port 0).session = .opened ∧
          0 < ((s 11 1).port 0).lost ∧ ((s 11 1).port 0).outbound.tail.length < 12) ∧
        (((s 12 1).port 0).tx = .sending ∧ ¬ ((s 12 1).port 0).outbound.tail.length < 12) ∧
        (((s 0 0).port 0).tx = .sending ∧ ¬ 0 < ((s 0 0).port 0).lost) ∧ (owned.phase = .running ∧ (owned.port 0).tx ≠ .sending)) :=
  ⟨⟨nofun, by decide +kernel, nofun⟩, by decide +kernel, by decide +kernel⟩

theorem test_meets_RepliesAndEventsOnTheLine :
    ((State.reset.port 3).tx = .sending ∧ (State.reset.port 3).outbound = .event (.ready .powerOn) :: []) ∧
      (owned.port 0).tx ≠ .sending := by
  decide +kernel

theorem test_meets_FrameOfARequestIsItsCommand :
    let c := Instr.write 0 1 0 16 [0xAB, 0xCD]
    c.wellFormed = true ∧ requestBody c = some (0, [0x11, 0x31, 0x00, 0x10, 0x00, 0xAB, 0xCD]) ∧ owned.Hears 0 ∧
      (owned.port 0).rx = .hunt ∧ (owned.port 0).gap = none :=
  ⟨by decide, by decide, (owned_takes 0).hears, by decide +kernel, by decide +kernel⟩

/-! ### Port-level checks -/

/-- A waiting ACQUIRE in a slot. -/
def slot (t : Tag) (st : SlotState) : Slot := { tag := t, request := .acquire 0 .exclusive 0 1, state := st }

/-- Port 0 with its session, close reason and slots as given. -/
def portZero (session : Session) (reason : Option CloseReason) (slots : List Slot) : State :=
  owned.modPort 0 fun c => { c with session := session, closeReason := reason, slots := slots }

theorem portZero_hears (session : Session) (reason : Option CloseReason) (slots : List Slot) :
    (portZero session reason slots).Hears 0 := by
  have : owned.Hears 0 := (owned_takes 0).hears
  exact ⟨this.running, by simpa [portZero] using this.line⟩

theorem test_meets_PortChecksRefuseInOrder :
    (requestBody (.alloc 0 1 3) = some (0, 0x11 :: 0x10 :: [0x03]) ∧
        parseFields (0x10 : Byte).toNat [0x03] = .request (.alloc 3)) ∧
      ((portZero .closing (some .ejected) []).Hears 0 ∧ ((portZero .closing (some .ejected) []).port 0).session = .closing ∧
        ((portZero .closing (some .ejected) []).port 0).closeReason = some .ejected) ∧
      ((portZero .closing (some .closed) []).Hears 0 ∧ ((portZero .closing (some .closed) []).port 0).session ≠ .opened ∧
        ((portZero .closing (some .closed) []).port 0).closeReason ≠ some .ejected ∧ Request.alloc 3 ≠ .openSession ∧
        Request.alloc 3 ≠ .info) ∧
      ((portZero .opened none [slot 1 .waiting]).Hears 0 ∧
        ∃ x ∈ ((portZero .opened none [slot 1 .waiting]).port 0).slots, x.tag = tagOf 0x11) ∧
      ((portZero .opened none [slot 2 .waiting, slot 3 .waiting, slot 4 .waiting, slot 5 .waiting]).Hears 0 ∧
        (¬ ∃ x ∈ ((portZero .opened none [slot 2 .waiting, slot 3 .waiting, slot 4 .waiting, slot 5 .waiting]).port 0).slots,
          x.tag = tagOf 0x11) ∧
        4 ≤ ((portZero .opened none [slot 2 .waiting, slot 3 .waiting, slot 4 .waiting, slot 5 .waiting]).port 0).slots.length) ∧
      (owned.Hears 1 ∧ requestBody (.drain 1 1 0) = some (1, 0x11 :: 0x61 :: [0x00]) ∧
        parseFields (0x61 : Byte).toNat [0x00] = .request (.drain 0) ∧
        owned.role ≠ some 1 ∧ ¬ 4 ≤ (owned.port 1).slots.length) ∧
      requestBody (.grant 0 1 0 1 9) = some (0, [0x11, 0x12, 0x00, 0x00, 0x01, 0x09]) :=
  ⟨by decide, ⟨portZero_hears _ _ _, by decide +kernel⟩, ⟨portZero_hears _ _ _, by decide +kernel⟩,
    ⟨portZero_hears _ _ _, by decide +kernel⟩, ⟨portZero_hears _ _ _, by decide +kernel⟩,
    ⟨(owned_takes_one 0).hears, by decide +kernel⟩, by decide⟩

theorem test_meets_CheckOneReadsLengthsAndCodes :
    (owned.Hears 0 ∧ ¬ ((owned.port 0).session = .closing ∧ (owned.port 0).closeReason = some .ejected)) ∧
      2 < (3 : Byte).toNat ∧ 1 < (2 : Byte).toNat ∧ 240 < (List.replicate 241 (0 : Byte)).length ∧
      (0x80 : Byte).getLsbD 7 = true ∧ (∀ row ∈ requestLengths, row.1 ≠ 0x37) ∧
      ((0x31, 5, 245) ∈ requestLengths ∧ [(0 : Byte), 0].length + 2 < 5 ∧ 245 < (List.replicate 244 (0 : Byte)).length + 2) ∧
      (parseFields (0x10 : Byte).toNat [] = .badForm ∧ parseFields (0x37 : Byte).toNat [0x00] = .unknownCode) :=
  ⟨⟨(owned_takes 0).hears, by decide +kernel⟩, by decide +kernel⟩

/-- Port 0 with a SELECT of set B pending, in the first slot, and other slots behind it. -/
def selecting (inFlight : Nat) (others : List Slot) : State :=
  (owned.modMap 0 fun m => { m with pendingSet := some .b, inFlight := inFlight }).modPort 0 fun c =>
    { c with slots := { tag := 6, request := .selectSet .b, state := .inFlight } :: others }

theorem test_meets_RequestsAreHeldBehindASelect :
    ((selecting 1 []).Takes 0 1 ∧ ((selecting 1 []).map 0).pendingSet ≠ none) ∧
      AccessCommand (.read 0 1 0 0 1) 0 1 0 0 (.read 1) ∧ AccessCommand (.write 0 1 0 0 [1]) 0 1 0 0 (.write [1]) ∧
      lockModeOf 1 = some .exclusive ∧ (setCodeOf 2 = some .present ∧ setCodeOf 0 = some (.named .a)) :=
  ⟨by rw [takes_iff]; decide +kernel, .read _ _ _ _ 1, .write _ _ _ _ _ (by decide), by decide, by decide⟩

/-! ### Sessions and the role -/

theorem test_meets_SessionsOpenAndInfoAnswers :
    (owned.Hears 2 ∧ (∀ x ∈ (owned.port 2).slots, x.tag ≠ 1) ∧ (owned.port 2).slots.length < 4 ∧
        (owned.port 2).session = .closed) ∧
      ((owned.port 0).session = .opened ∧ (∀ x ∈ (owned.port 0).slots, x.tag ≠ 1) ∧ (owned.port 0).slots.length < 4) ∧
      ((portZero .closing (some .linkLost) []).Hears 0 ∧ ((portZero .closing (some .linkLost) []).port 0).session = .closing ∧
        ((portZero .closing (some .linkLost) []).port 0).closeReason ≠ some .ejected) :=
  ⟨⟨hears_iff.mpr (by decide +kernel), by decide +kernel⟩, by decide +kernel, ⟨portZero_hears _ _ _, by decide +kernel⟩⟩

/-- The role vacant. -/
def vacant : State := { owned with role := none }

theorem vacant_takes : vacant.Takes 0 1 := by rw [takes_iff]; decide +kernel

theorem test_meets_RolePassesByClaimAndHandover :
    (vacant.Takes 0 1 ∧ vacant.role = none) ∧ (owned.Takes 0 1 ∧ owned.role = some 0) ∧
      (owned.Takes 1 1 ∧ owned.role = some 0 ∧ (0 : Port) ≠ 1) ∧ 4 ≤ (4 : Byte).toNat ∧
      ((0 : Port).val = (0 : Byte).toNat ∧ (3 : Port).val = (3 : Byte).toNat ∧ (owned.port 3).session ≠ .opened) ∧
      ((1 : Port).val = (1 : Byte).toNat ∧ (1 : Port) ≠ 0 ∧ (owned.port 1).session = .opened) :=
  ⟨⟨vacant_takes, rfl⟩, ⟨(owned_takes 1).toTakes, by decide +kernel⟩, ⟨(owned_takes_one 1).toTakes, by decide +kernel⟩,
    by decide +kernel⟩

theorem test_meets_ClosingIsEnteredThreeWays :
    (owned.Takes 0 1 ∧ owned.role = some 0) ∧ 4 ≤ (4 : Byte).toNat ∧
      ((3 : Port).val = (3 : Byte).toNat ∧ (owned.port 3).session ≠ .opened) ∧
      ((1 : Port).val = (1 : Byte).toNat ∧ (1 : Port) ≠ 0 ∧ (owned.port 1).session = .opened) ∧
      (owned.Hears 0 ∧ (owned.port 0).session = .opened) :=
  ⟨⟨(owned_takes 1).toTakes, by decide +kernel⟩, by decide, by decide +kernel, by decide +kernel,
    ⟨(owned_takes 0).hears, by decide +kernel⟩⟩

theorem test_meets_TeardownLeavesNothingOfThePort :
    (owned.DirectorySound ∧ owned.MapCountsExact ∧ owned.PinCountsExact ∧ owned.PortsBounded ∧ owned.LockTableSound ∧
        owned.JobQueueSound ∧ owned.WaitersSound) ∧ (owned.port 0).session = .opened ∧
      (let s := owned.withSlot 0 4 .closeSession .inFlight
       ((s.enterClosing 0 .closed).port 0).session = .closed ∧
         (s.port 0).slots = [] ++ { tag := 4, request := .closeSession, state := .inFlight } :: [] ∧
         (((s.modPort 0 fun c => { c with inFlight := 1 }).enterClosing 0 .closed).port 0).session = .closing) :=
  ⟨⟨owned_directory, owned_maps, owned_pins, owned_ports, owned_locks, owned_jobs, owned_waiters⟩, by decide +kernel⟩

/-- The state with one job in the copy queue. -/
def withJob (j : Job) : State := { owned with jobs := [j] }

theorem withJob_sound (j : Job) : (withJob j).JobQueueSound where
  jobs := Nat.le_of_ble_eq_true rfl
  perPort _ := (List.length_filter_le _ _).trans (Nat.le_of_ble_eq_true rfl)
  idsOnce := List.nodup_singleton _
  active := List.length_filter_le _ _

theorem test_meets_ClosingEndsAtClosed :
    ((owned.JobQueueSound ∧ (owned.port 0).session = .opened ∧ (owned.port 0).inFlight = 0 ∧
        ∀ j ∈ owned.jobs, j.state = .active → j.port ≠ 0) ∧
      ((withJob (job (.fill 0) [0] 0 4 0 .active)).JobQueueSound ∧
        ∃ j ∈ (withJob (job (.fill 0) [0] 0 4 0 .active)).jobs, j.state = .active ∧ j.port = 0) ∧
      ((owned.modPort 0 fun c => { c with inFlight := 1 }).port 0).inFlight ≠ 0) ∧
    (let s := portZero .closing (some .closed) [{ tag := 4, request := .closeSession, state := .inFlight }]
     let u := portZero .closing (some .ejected) []
     (owned.phase = .running ∧
        ¬ ((owned.port 0).session = .closing ∧ (owned.port 0).inFlight = 0 ∧ (owned.port 0).activeJob = false)) ∧
      (s.phase = .running ∧ (s.port 0).session = .closing ∧ (s.port 0).inFlight = 0 ∧ (s.port 0).activeJob = false ∧
        (s.port 0).closeReason = some .closed ∧
        (s.port 0).slots = [] ++ { tag := 4, request := .closeSession, state := .inFlight } :: []) ∧
      ((u.port 0).session = .closing ∧ (u.port 0).inFlight = 0 ∧ (u.port 0).activeJob = false ∧
        (u.port 0).closeReason = some .ejected)) :=
  ⟨⟨⟨owned_jobs, by decide +kernel⟩, ⟨withJob_sound _, by decide +kernel⟩, by decide +kernel⟩, by decide +kernel⟩

/-! ### The page pool -/

theorem test_meets_AllocTakesTheHeadOfTheFreeList :
    (owned.Takes 0 1 ∧ (0 : Byte).toNat = 0 ∧ 8 < (9 : Byte).toNat) ∧
      (({ owned with config := { owned.config with quota := #v[1, 0, 0, 0] } } : State).Takes 0 1 ∧ 1 ≤ (1 : Byte).toNat ∧
        1 < ({ owned with config := { owned.config with quota := #v[1, 0, 0, 0] } } : State).owned[0] + (1 : Byte).toNat) ∧
      (({ owned with freeList := [5] } : State).Takes 0 1 ∧ (2 : Byte).toNat ≤ 8 ∧
        owned.owned[0] + (2 : Byte).toNat ≤ owned.config.quota[0] ∧
        ({ owned with freeList := [5] } : State).freeList.length < (2 : Byte).toNat) ∧
      ((8 : Byte).toNat ≤ 8 ∧ owned.owned[0] + (8 : Byte).toNat ≤ owned.config.quota[0] ∧
        (8 : Byte).toNat ≤ owned.freeList.length ∧ owned.DirectorySound) := by
  refine ⟨⟨(owned_takes 1).toTakes, by decide⟩, ⟨?_, by decide +kernel⟩, ⟨?_, by decide +kernel⟩, by decide, by decide +kernel,
    by decide +kernel, owned_directory⟩
  all_goals rw [takes_iff]; decide +kernel

/-- The state with page 0 changed. -/
def withPage (f : PageRec → PageRec) : State := owned.modPage 0 f

theorem withPage_takes (f : PageRec → PageRec) (t : Tag) : (withPage f).TakesAtOnce 0 t :=
  takes_of_same (s := owned) rfl rfl rfl (owned_takes t)

theorem test_meets_FreeReleasesThePage :
    owned.Takes 0 1 ∧ 2048 ≤ (2048 : Half).toNat ∧ ((2047 : PageNo).val = (2047 : Half).toNat ∧ ¬ owned.Owns 0 2047) ∧
      (owned.Owns 0 0 ∧ 0 < (owned.page 0).mapCount) ∧
      ((withPage fun r => { r with mapCount := 0 }).Takes 0 1 ∧ (0 : PageNo).val = (0 : Half).toNat ∧
        (withPage fun r => { r with mapCount := 0 }).Owns 0 0 ∧ ((withPage fun r => { r with mapCount := 0 }).page 0).mapCount = 0 ∧
        ((withPage fun r => { r with mapCount := 0 }).page 0).pinCount = 0 ∧
        (withPage fun r => { r with mapCount := 0 }).lockOf 0 = none) := by
  refine ⟨(owned_takes 1).toTakes, by decide, ?_, ?_, (withPage_takes _ 1).toTakes, ?_⟩ <;> unfold State.Owns <;> decide +kernel

/-- An entry with an EXCLUSIVE holder and a waiter behind it, both timers as given. -/
def entry (lease : Nat) (wait : Option Nat) : LockEntry :=
  { page := 0, holders := [{ port := 1, mode := .exclusive, remaining := lease }],
    waiters := [{ port := 0, mode := .shared, tag := 3, lease := 0, remaining := wait }] }

/-- The lock table with that entry alone. -/
def locked (lease : Nat) (wait : Option Nat) : State := { owned with locks := [entry lease wait] }

theorem entry_sound (lease : Nat) (wait : Option Nat) : (entry lease wait).Sound where
  notEmpty := rfl
  portsOnce := by simp [entry]
  exclusive := by simp [entry]
  held := by simp [entry]
  head := by simp [entry]

theorem locked_sound (lease : Nat) (wait : Option Nat) : (locked lease wait).LockTableSound where
  places := Nat.le_of_ble_eq_true rfl
  pagesOnce := List.nodup_singleton _
  entries := by intro l h; rw [List.mem_singleton.mp h]; exact entry_sound _ _

theorem locked_takes (lease : Nat) (wait : Option Nat) (t : Tag) :
    (locked lease wait).TakesAtOnce 0 t ∧ (locked lease wait).TakesAtOnce 1 t :=
  ⟨takes_of_same (s := owned) rfl rfl rfl (owned_takes t), takes_of_same (s := owned) rfl rfl rfl (owned_takes_one t)⟩

theorem locked_lockOf (lease : Nat) (wait : Option Nat) : (locked lease wait).lockOf 0 = some (entry lease wait) := rfl

theorem test_meets_ReleasePlacesThePage :
    (locked 5 none).LockTableSound ∧ (locked 5 none).lockOf 0 = some (entry 5 none) ∧
      (∃ h ∈ (entry 5 none).holders, h.port = 1) ∧ (∃ w ∈ (entry 5 none).waiters, w.port = 0) ∧
      ((entry 5 none).holds 2 = false ∧ (entry 5 none).waits 2 = false) ∧ (locked 5 none).lockOf 1 = none :=
  ⟨locked_sound _ _, locked_lockOf _ _, by decide, by decide, by decide, by decide +kernel⟩

theorem test_meets_GrantRaisesARight :
    (owned.Takes 0 1 ∧ rightOf 1 = some .read) ∧ 2048 ≤ (2048 : Half).toNat ∧ 4 ≤ (4 : Byte).toNat ∧
      ((2047 : PageNo).val = (2047 : Half).toNat ∧ (3 : Port).val = (3 : Byte).toNat ∧ ¬ owned.Owns 0 2047) ∧
      (owned.Owns 0 0 ∧ (owned.port 3).session ≠ .opened) ∧
      (owned.Owns 0 0 ∧ (1 : Port) ≠ 0 ∧ (owned.port 1).session = .opened ∧ (owned.page 0).grants[1].code ≤ Right.read.code) := by
  refine ⟨⟨(owned_takes 1).toTakes, by decide⟩, by decide, by decide, ?_, ?_, ?_⟩ <;> unfold State.Owns <;> decide +kernel

theorem test_meets_GrantLowersARight :
    let s := withPage fun r => { r with grants := r.grants.set 1 .readWrite }
    s.Takes 0 1 ∧ rightOf 0 = some .none ∧ rightOf 1 = some .read ∧ (0 : PageNo).val = (0 : Half).toNat ∧
      (1 : Port).val = (1 : Byte).toNat ∧ s.Owns 0 0 ∧ (1 : Port) ≠ 0 ∧ (s.port 1).session = .opened ∧
      Right.none.code < (s.page 0).grants[1].code ∧ Right.read.code < (s.page 0).grants[1].code := by
  refine ⟨(withPage_takes _ 1).toTakes, ?_⟩; unfold State.Owns; decide +kernel

theorem test_meets_QueriesReportWhatTheyAsk :
    (owned.Takes 0 1 ∧ owned.role = some 0 ∧ mapSetOf 1 = some .b) ∧ 2048 ≤ (2048 : Half).toNat ∧
      (2047 : PageNo).val = (2047 : Half).toNat ∧ 64 ≤ (64 : Byte).toNat ∧ (0 : Byte).toNat = 0 ∧ 64 < (65 : Byte).toNat ∧
      64 < (63 : Byte).toNat + (2 : Byte).toNat ∧ (1 ≤ (1 : Byte).toNat ∧ (63 : Byte).toNat + (1 : Byte).toNat ≤ 64) ∧
      (1 ≤ (64 : Byte).toNat ∧ (0 : Byte).toNat + (64 : Byte).toNat ≤ 64) :=
  ⟨⟨(owned_takes 1).toTakes, by decide +kernel⟩, by decide⟩

/-! ### Frame maps -/

/-- Page 0 ORPHANED with its one entry left, or with another use besides. -/
def orphaned (pins : Nat) : State :=
  withPage fun r => { r with state := .orphaned, owner := none, pinCount := pins, grants := r.grants.set 0 .readWrite }

theorem test_meets_MapAndUnmapWriteTheEntry :
    (owned.Takes 0 1 ∧ mapSetOf 0 = some .a ∧ accessOf 1 = some .readWrite) ∧ 64 ≤ (64 : Byte).toNat ∧
      2048 ≤ (2048 : Half).toNat ∧ ((63 : FrameNo).val = (63 : Byte).toNat ∧ (2047 : PageNo).val = (2047 : Half).toNat) ∧
      (owned.page 2047).rightOf 0 = .none ∧ (owned.page 0).rightOf 0 = .readWrite ∧
      (owned.resolve 0 .a 63 = none ∧ owned.resolve 0 .a 0 = some { page := 0, access := .readWrite }) ∧
      (((orphaned 0).modPage 1 fun _ => ownedRec).Takes 0 1 ∧ (((orphaned 0).modPage 1 fun _ => ownedRec).page 1).rightOf 0 = .readWrite ∧
        ((orphaned 0).modPage 1 fun _ => ownedRec).resolve 0 .a 0 = some { page := 0, access := .readWrite } ∧
        ¬ ((orphaned 0).modPage 1 fun _ => ownedRec).SurvivesUnmap 0 ∧ (0 : PageNo) ≠ 1) ∧
      ((orphaned 1).SurvivesUnmap 0 ∧ ¬ (orphaned 0).SurvivesUnmap 0 ∧
        (orphaned 1).resolve 0 .a 0 = some { page := 0, access := .readWrite }) := by
  refine ⟨⟨(owned_takes 1).toTakes, by decide⟩, by decide, by decide, by decide, by decide +kernel, by decide +kernel,
    by decide +kernel, ⟨?_, ?_⟩, ?_⟩
  · rw [takes_iff]; decide +kernel
  all_goals unfold State.SurvivesUnmap; decide +kernel

theorem test_meets_SelectAndSwitch :
    (((selecting 1 []).Takes 0 1 ∧ mapSetOf 1 = some .b ∧ mapSetOf 0 = some .a ∧ ((selecting 1 []).map 0).pendingSet ≠ none) ∧
      (owned.Takes 0 1 ∧ (owned.map 0).pendingSet = none ∧ (owned.map 0).present = .a ∧ (owned.map 0).present ≠ .b ∧
        (owned.map 0).inFlight = 0) ∧
      ((owned.modMap 0 fun m => { m with inFlight := 1 }).Takes 0 1 ∧
        ((owned.modMap 0 fun m => { m with inFlight := 1 }).map 0).pendingSet = none ∧
        ((owned.modMap 0 fun m => { m with inFlight := 1 }).map 0).present ≠ .b ∧
        ((owned.modMap 0 fun m => { m with inFlight := 1 }).map 0).inFlight ≠ 0)) ∧
    (let s := selecting 0 [slot 1 .held, slot 2 .waiting]
     (owned.phase = .running ∧ (owned.map 0).pendingSet = none) ∧ ((selecting 1 []).map 0).inFlight ≠ 0 ∧
      (s.phase = .running ∧ (s.map 0).pendingSet = some .b ∧ (s.map 0).inFlight = 0 ∧
        (s.port 0).slots = [] ++ { tag := 6, request := .selectSet .b, state := .inFlight } :: [slot 1 .held, slot 2 .waiting] ∧
        ∀ x ∈ [] ++ [slot 1 .held, slot 2 .waiting], x.tag ≠ 6 ∧ (x.state = .inFlight → ∀ y, x.request ≠ .selectSet y))) := by
  refine ⟨?_, by decide +kernel, by decide +kernel, by decide +kernel, by decide +kernel, by decide +kernel, by decide +kernel, ?_⟩
  · simp only [takes_iff]; decide +kernel
  · intro x h
    have : ∀ x ∈ [slot 1 .held, slot 2 .waiting], x.tag ≠ 6 ∧ x.state ≠ .inFlight := by decide
    exact ⟨(this x h).1, fun e => absurd e (this x h).2⟩

/-! ### Accesses -/

theorem test_meets_AccessIsRefusedOrPlaced :
    (AccessCommand (.read 0 1 0 0 240) 0 1 0 0 (.read 240) ∧ owned.TakesAtOnce 0 1) ∧
      ¬ AccessInRange 64 0 (.read 1) ∧ ¬ AccessInRange 0 4096 (.read 1) ∧ ¬ AccessInRange 0 0 (.read 0) ∧
      ¬ AccessInRange 0 0 (.read 241) ∧ ¬ AccessInRange 0 3857 (.read 240) ∧ ¬ AccessInRange 0 0 (.write []) ∧
      ¬ AccessInRange 0 2 (.readThenWrite .dectest) ∧ ¬ AccessInRange 0 0 (.readThenWrite (.testclr 32)) ∧
      (AccessInRange 63 3856 (.read 240) ∧ (63 : FrameNo).val = (63 : Byte).toNat ∧ owned.resolve 0 (owned.map 0).present 63 = none) ∧
      (AccessInRange 0 4092 (.readThenWrite (.testclr 31)) ∧ (0 : FrameNo).val = (0 : Byte).toNat ∧
        owned.resolve 0 (owned.map 0).present 0 = some { page := 0, access := .readWrite }) ∧
      ((withPage fun r => { r with poisoned := true }).TakesAtOnce 0 1 ∧ (StoreKind.read 1).reads = true ∧
        ((withPage fun r => { r with poisoned := true }).page 0).poisoned = true) ∧
      ((locked 5 none).TakesAtOnce 0 1 ∧ (StoreKind.write [1]).writes = true ∧ (locked 5 none).LockedAgainst 0 0) ∧
      ((owned.setEntry 0 .a 0 (some { page := 0, access := .readOnly })).TakesAtOnce 0 1 ∧
        (owned.setEntry 0 .a 0 (some { page := 0, access := .readOnly })).resolve 0 .a 0 = some { page := 0, access := .readOnly }) ∧
      (¬ (owned.page 0).poisoned = true ∧ owned.lockOf 0 = none) := by
  refine ⟨⟨.read _ _ _ _ 240, owned_takes 1⟩, ?_, ?_, ?_, ?_, ?_, ?_, ?_, ?_, ⟨?_, by decide +kernel⟩, ⟨?_, by decide +kernel⟩,
    ⟨withPage_takes _ _, by decide +kernel⟩,
    ⟨(locked_takes _ _ 1).1, rfl, entry 5 none, rfl, by decide, by decide⟩, ⟨?_, by decide +kernel⟩, by decide +kernel⟩
  all_goals first
    | (simp only [takesAtOnce_iff, takes_iff]; decide +kernel)
    | (simp only [AccessInRange]; decide)

/-- Three cells: a word of 2, and a byte of 7. -/
def cells : List Host.Cell := [(4, 2), (9, 7)]

theorem test_meets_StoreOperationsOnThePool :
    let op := fun kind offset => ({ origin := .access 0 1, kind := kind, page := 0, offset := offset } : StoreOp)
    let m := sound cells
    (m.wf = true ∧ faulty.wf = true) ∧ (op (.read 2) 8).kind = .read 2 ∧ (op (.write [1]) 4095).kind = .write [1] ∧
      ((op (.readThenWrite (.cas 2 5)) 4).kind = .readThenWrite (.cas 2 5) ∧ (op (.readThenWrite (.cas 2 5)) 4).addr % 4 = 0 ∧
        (op (.readThenWrite (.cas 2 5)) 4).readable m = true) ∧ m.wordAt 4 = 2 ∧ m.wordAt 4 ≠ 3 ∧
      ((1 : Nat) < 32 ∧ (m.wordAt 4).getLsbD 1 = true) ∧ ((31 : Nat) < 32 ∧ (m.wordAt 4).getLsbD 31 = false) ∧
      m.wordAt 0 = 0 ∧ (sound [(4, 1)]).wordAt 4 = 1 ∧ m.wordAt 4 ≠ 0 ∧ m.wordAt 4 ≠ 1 := by
  decide +kernel

/-- A fault of a word, in both kinds. -/
def fault (repairable : Bool) : WordFault := { word := 0, stored := 9, repairable := repairable }

theorem test_meets_FaultsOfTheMedium :
    let op := fun offset => ({ origin := .access 0 1, kind := .read 4, page := 0, offset := offset } : StoreOp)
    (faulty.damageOf 0 = none ∧ faulty.damageOf 4 = some { word := 4, repaired := none } ∧
        faulty.damageOf 8 = some { word := 8, repaired := some 0 }) ∧
      ((op 16).readable faulty = false ∧ (op 32).readable faulty = true) ∧
      (faulty.wf = true ∧ (faulty.strike (fault true)).delivers 0 = some 0 ∧ (faulty.strike (fault false)).delivers 0 = none) ∧
      (owned.faults = [] ∧ ({ owned with faults := [[fault true], []] } : State).faults = [fault true] :: [[]]) ∧
      (({ owned with pool := faulty } : State).PoolCanonical ∧ (op 4092).offset < 4096 ∧
        (op 16).readable ({ owned with pool := faulty } : State).befall.pool = false ∧
        (op 4092).readable ({ owned with pool := faulty } : State).befall.pool = true) := by
  unfold State.PoolCanonical; decide +kernel

/-- Port 0 with an access at the front of bank 0's queue, counted in flight as given. -/
def accessing (kind : StoreKind) (session : Session) (inFlight : Nat) : State :=
  ((withPage fun r => { r with pinCount := 1 }).modQueue 0 fun _ =>
    [{ origin := .access 0 1, kind := kind, page := 0, offset := 16 }]).modPort 0 fun c =>
    { c with session := session, inFlight := inFlight }

theorem test_meets_CompletionsAnswerTheAccess :
    let op := fun kind => ({ origin := .access 0 1, kind := kind, page := 0, offset := 16 } : StoreOp)
    let s := fun kind => accessing kind .opened 1
    let u := { accessing (.read 4) .closing 2 with pool := faulty }
    ((s (.read 4)).phase = .running ∧ (s (.read 4)).queue 0 = op (.read 4) :: [] ∧ (op (.read 4)).origin = .access 0 1 ∧
        (op (.read 4)).readable (s (.read 4)).befall.pool = true ∧ (op (.read 4)).kind.reads = true ∧
        ((s (.read 4)).port 0).session = .opened) ∧
      (u.phase = .running ∧ u.queue 0 = op (.read 4) :: [] ∧ (op (.read 4)).readable u.befall.pool = false ∧
        (u.port 0).session ≠ .opened) ∧
      ((s (.write [1])).queue 0 = op (.write [1]) :: [] ∧ (op (.write [1])).kind.reads = false) := by
  decide +kernel

/-! ### Page locks -/

/-- The lock table full of entries of other pages. -/
def full : State :=
  { owned with
    locks := (List.finRange 32).map fun i =>
      { page := ⟨i.val + 1, by omega⟩, holders := [{ port := 1, mode := .shared, remaining := 5 }], waiters := [] } }

/-- Page 0 held SHARED by port 1, nobody waiting. -/
def sharedEntry : LockEntry := { page := 0, holders := [{ port := 1, mode := .shared, remaining := 5 }], waiters := [] }

/-- The lock table with that entry alone. -/
def shared : State := { owned with locks := [sharedEntry] }

theorem test_meets_AcquireGrantsOrWaits :
    (owned.TakesAtOnce 0 1 ∧ lockModeOf 1 = some .exclusive ∧ lockModeOf 0 = some .shared) ∧ 64 ≤ (64 : Byte).toNat ∧
      ((63 : FrameNo).val = (63 : Byte).toNat ∧ owned.resolve 0 (owned.map 0).present 63 = none) ∧
      (owned.resolve 0 (owned.map 0).present 0 = some { page := 0, access := .readWrite } ∧ owned.lockOf 0 = none ∧
        owned.locks.length < 32) ∧
      ((owned.setEntry 0 .a 0 (some { page := 0, access := .readOnly })).TakesAtOnce 0 1 ∧
        (owned.setEntry 0 .a 0 (some { page := 0, access := .readOnly })).resolve 0 .a 0 = some { page := 0, access := .readOnly }) ∧
      (full.TakesAtOnce 0 1 ∧ full.lockOf 0 = none ∧ 32 ≤ full.locks.length) ∧
      ((locked 5 none).TakesAtOnce 0 1 ∧ (locked 5 none).lockOf 0 = some (entry 5 none) ∧ (entry 5 none).waits 0 = true) ∧
      (shared.TakesAtOnce 0 1 ∧ shared.lockOf 0 = some sharedEntry ∧ sharedEntry.holds 0 = false ∧ sharedEntry.waits 0 = false ∧
        (LockMode.shared = .shared ∧ sharedEntry.waiters = [] ∧ ∀ h ∈ sharedEntry.holders, h.mode = .shared) ∧
        ¬ (LockMode.exclusive = .shared) ∧ (0 : Half).toNat = 0 ∧ (1 : Half).toNat ≠ 0 ∧ (65535 : Half).toNat ≠ 0) := by
  simp only [takesAtOnce_iff, takes_iff]; decide +kernel

theorem test_meets_ReleaseAndRenewAnAcquiredLock :
    2048 ≤ (2048 : Half).toNat ∧
      (owned.Takes 0 1 ∧ (2047 : PageNo).val = (2047 : Half).toNat ∧ ∀ l, owned.lockOf 2047 = some l → l.holds 0 = false) ∧
      ((locked 5 none).Takes 0 1 ∧ (0 : PageNo).val = (0 : Half).toNat ∧
        ∀ l, (locked 5 none).lockOf 0 = some l → l.holds 0 = false) ∧
      ((locked 5 none).Takes 1 1 ∧ (locked 5 none).lockOf 0 = some (entry 5 none) ∧ (entry 5 none).holds 1 = true ∧
        (entry 5 none).waits 1 = false) := by
  refine ⟨by decide, ⟨(owned_takes 1).toTakes, by decide, ?_⟩, ⟨(locked_takes _ _ 1).1.toTakes, by decide, ?_⟩,
    (locked_takes _ _ 1).2.toTakes, rfl, by decide, by decide⟩
  · rw [show owned.lockOf 2047 = none by decide +kernel]; nofun
  · rintro l h; rw [locked_lockOf] at h; obtain rfl := Option.some.inj h; decide

theorem test_meets_GrantStepGrantsFromTheHead :
    let w : Waiter := { port := 0, mode := .exclusive, tag := 3, lease := 0, remaining := none }
    let x : Waiter := { port := 0, mode := .shared, tag := 3, lease := 0, remaining := none }
    let h : Holder := { port := 1, mode := .exclusive, remaining := 5 }
    let g : Holder := { port := 1, mode := .shared, remaining := 5 }
    (w.mode = .exclusive ∧ ([] : List Holder) = [] ∧ [g] ≠ []) ∧
      (x.mode = .shared ∧ (∀ y ∈ [g], y.mode = .shared) ∧ ∃ y ∈ [h], y.mode = .exclusive) ∧
      ((locked 5 none).phase = .running ∧ (locked 5 none).LockTableSound) ∧
      (locked 5 none).lockOf 0 = some (entry 5 none) :=
  ⟨by decide, by decide, ⟨rfl, locked_sound _ _⟩, rfl⟩

theorem test_meets_TimersRunOutAndAreLowered :
    (owned.phase = .running ∧ (∀ l, owned.lockOf 0 = some l → ∀ h ∈ l.holders, h.port = 0 → h.remaining ≠ 0) ∧
        ∀ l, owned.lockOf 0 = some l → ∀ w ∈ l.waiters, w.port = 0 → w.remaining ≠ some 0) ∧
      ((locked 0 (some 0)).phase = .running ∧ (locked 0 (some 0)).lockOf 0 = some (entry 0 (some 0)) ∧ (entry 0 (some 0)).Sound ∧
        (∃ h ∈ (entry 0 (some 0)).holders, h.port = 1 ∧ h.remaining = 0) ∧
        ∃ w ∈ (entry 0 (some 0)).waiters, w.port = 0 ∧ w.remaining = some 0) ∧
      (∀ p, ((locked 1 (some 1)).port p).gap ≠ some 0) ∧
      ∀ l ∈ (locked 1 (some 1)).locks, (∀ h ∈ l.holders, h.remaining ≠ 0) ∧ ∀ w ∈ l.waiters, w.remaining ≠ some 0 := by
  refine ⟨⟨rfl, ?_, ?_⟩, ⟨rfl, rfl, entry_sound _ _, by decide, by decide⟩, by decide +kernel, by decide +kernel⟩ <;>
    (rw [show owned.lockOf 0 = none by decide +kernel]; nofun)

/-! ### The copy engine -/

/-- The one entry of the map. -/
def entryZero : Entry := { page := 0, access := .readWrite }

theorem owned_range (offset : Half) (n : Word) (h : (offset.toNat + n.toNat - 1) / 4096 = 0) :
    owned.RangeResolves 0 .a 0 offset n [entryZero] := by
  refine ⟨by simp [h], fun i hi => ⟨0, ?_, ?_⟩⟩
  · have : i = 0 := by simpa using hi
    simp [this]
  · have : i = 0 := by simpa using hi
    subst this
    show owned.resolve 0 .a 0 = some entryZero
    decide +kernel

/-- The copy queue with three jobs of port 0, and with eight jobs. -/
def busy (n : Nat) : State := { owned with jobs := (List.range n).map fun i => { job (.fill 0) [0] 0 4 0 .queued with id := BitVec.ofNat 8 i } }

theorem test_meets_CopyAndFillAreAcceptedOrRefused :
    ((owned.TakesAtOnce 0 1 ∧ setCodeOf 0 = some (.named .a) ∧ setCodeOf 2 = some .present) ∧
        (selecting 1 []).Takes 0 1 ∧ ((selecting 1 []).map 0).pendingSet ≠ none ∧ SetCode.named .a ≠ .present) ∧
      ¬ RangeInWindow 64 0 4 ∧
      ¬ RangeInWindow 0 4096 4 ∧ ¬ RangeInWindow 0 0 0 ∧ ¬ RangeInWindow 0 0 65537 ∧ ¬ RangeInWindow 63 4095 2 ∧
      (RangeInWindow 63 4095 1 ∧ ∀ es, ¬ owned.RangeResolves 0 .a 63 4095 1 es) ∧
      (RangeInWindow 0 0 4 ∧ RangeInWindow 0 8 4 ∧ owned.RangeResolves 0 .a 0 0 4 [entryZero] ∧
        owned.RangeResolves 0 .a 0 8 4 [entryZero] ∧ (¬ ∃ e ∈ [entryZero], e.access = .readOnly) ∧ SharePoolByte [0] 0 [0] 3 4 ∧
        ¬ SharePoolByte [0] 0 [0] 8 4 ∧ ¬ owned.QueueFull 0) ∧
      ((busy 3).QueueFull 0 ∧ (busy 8).QueueFull 1 ∧ (busy 1).jobs.any (·.state == .active) = false) ∧
      (((8 : Half).toNat % 4 = 0 ∧ (4 : Word).toNat % 4 = 0) ∧ (2 : Half).toNat % 4 ≠ 0) := by
  refine ⟨⟨⟨owned_takes 1, by decide⟩, by rw [takes_iff]; decide +kernel⟩, ?_, ?_, ?_, ?_, ?_, ⟨?_, fun es h => ?_⟩,
    ⟨?_, ?_, owned_range _ _ (by decide), owned_range _ _ (by decide), by decide, ⟨3, 0, by decide, by decide, ⟨0, by decide⟩, by decide⟩, ?_, ?_⟩, ⟨?_, ?_, ?_⟩,
    by decide⟩
  case refine_7 =>
    obtain ⟨f, hf, he⟩ := h.2 0 (by rw [h.1]; decide)
    have : f = 63 := Fin.ext hf
    subst this
    revert he; rw [show owned.resolve 0 .a 63 = none by decide +kernel]; nofun
  case refine_10 =>
    rintro ⟨i, j, hi, hj, -, h⟩
    omega
  all_goals first
    | (unfold RangeInWindow; decide)
    | (unfold State.QueueFull; decide +kernel)
    | decide +kernel

theorem test_meets_SegmentsAndDecisionPoints :
    ((job (.copy .a [1, 2] 4090) [3, 4] 0 300 6 .active).bytesDone < (job (.copy .a [1, 2] 4090) [3, 4] 0 300 6 .active).length ∧
      (job (.fill 5) [3] 0 4 0 .active).bytesDone < (job (.fill 5) [3] 0 4 0 .active).length) ∧
    (let j := job (.copy .a [0] 0) [0] 8 4 0 .active
     (j.dstPages[(j.dstStart + j.bytesDone) / 4096]? = some 0 ∧ j.bytesDone < j.length ∧ j.cancel = false ∧
        (∃ h ∈ (entry 5 none).holders, h.port ≠ j.port) ∧ (locked 5 none).lockOf 0 = some (entry 5 none) ∧ owned.lockOf 0 = none ∧
        [(0 : PageNo)][(0 + j.bytesDone) / 4096]? = some 0 ∧ (owned.page 0).poisoned = false ∧
        ((withPage fun r => { r with poisoned := true }).page 0).poisoned = true) ∧
      ((job (.fill 5) [0] 0 4096 4096 .active).bytesDone = (job (.fill 5) [0] 0 4096 4096 .active).length ∧
        owned.decide (job (.fill 5) [0] 0 4096 4096 .active) = .finish .done) ∧ { j with cancel := true }.cancel = true) := by
  decide +kernel

/-- A job waiting alone in the queue. -/
def waiting : State := withJob (job (.fill 5) [0] 0 4 0 .queued)

theorem test_meets_ChoiceTakesTheNextPortsOldestJob :
    (waiting.phase = .running ∧ (∀ j ∈ waiting.jobs, j.state = .queued) ∧
        waiting.Chooses (job (.fill 5) [0] 0 4 0 .queued)) ∧
      (waiting.decide { job (.fill 5) [0] 0 4 0 .queued with state := .active } = .place (.write [5, 0, 0, 0]) (0, 0)) ∧
      (({ locked 5 none with jobs := waiting.jobs } : State).decide { job (.fill 5) [0] 0 4 0 .queued with state := .active } =
        .finish .locked) ∧
      (∃ j ∈ (withJob (job (.fill 5) [0] 0 4 0 .active)).jobs, j.state = .active) ∧ ∀ j ∈ owned.jobs, j.state ≠ .queued := by
  refine ⟨⟨rfl, by decide, rfl, ⟨[], [], rfl, nofun⟩, 0, by decide, fun i hi => absurd hi (by simp)⟩, by decide +kernel,
    by decide +kernel, by decide, by decide +kernel⟩

theorem test_meets_JobEndReportsTheBytesMoved :
    let j := job (.fill 5) [0] 0 4 4 .active
    let k := job (.copy .a [1] 0) [0] 0 4 4 .active
    (k.kind = .copy .a [1] 0 ∧ j.kind = .fill 5) ∧ ((withJob j).port j.port).session = .opened ∧
      ((portZero .closing (some .closed) []).port j.port).session ≠ .opened := by
  decide +kernel

/-- A job's operation at the front of bank 0's queue. -/
def copying (j : Job) (kind : StoreKind) : State :=
  (withJob j).modQueue 0 fun _ => [{ origin := .copy 7, kind := kind, page := 0, offset := 0 }]

theorem test_meets_CopyReadPlacesItsWrite :
    let j := job (.copy .a [0] 0) [0] 8 4 0 .active
    let op : StoreOp := { origin := .copy 7, kind := .read 4, page := 0, offset := 0 }
    let s := copying j (.read 4)
    s.phase = .running ∧ s.queue 0 = op :: [] ∧ op.origin = .copy 7 ∧ op.kind = .read 4 ∧ s.jobs = [] ++ j :: [] ∧ j.state = .active ∧
      op.readable s.befall.pool = true ∧ j.dstPages[(j.dstStart + j.bytesDone) / 4096]? = some 0 ∧
      op.readable ({ s with pool := owned.pool.spoil 0 } : State).befall.pool = false := by
  decide +kernel

theorem test_meets_CopyWriteRaisesBytesDone :
    let j := job (.fill 5) [0] 0 4 0 .active
    let op : StoreOp := { origin := .copy 7, kind := .write [5, 0, 0, 0], page := 0, offset := 0 }
    let s := copying j (.write [5, 0, 0, 0])
    s.phase = .running ∧ s.queue 0 = op :: [] ∧ s.jobs = [] ++ j :: [] ∧ j.state = .active ∧
      s.decide { j with bytesDone := j.bytesDone + 4 } = .finish .done ∧
      let k := job (.fill 5) [0] 0 8 0 .active
      (copying k (.write [5, 0, 0, 0])).jobs = [] ++ k :: [] ∧
        (copying k (.write [5, 0, 0, 0])).decide { k with bytesDone := k.bytesDone + 4 } = .place (.write [5, 0, 0, 0]) (0, 4) := by
  decide +kernel

theorem withJob_takes (j : Job) (t : Tag) : (withJob j).TakesAtOnce 0 t :=
  takes_of_same (s := owned) rfl rfl rfl (owned_takes t)

theorem test_meets_CancelAndJobQuery :
    let j := job (.fill 5) [0] 0 4 0 .active
    (owned.Takes 0 1 ∧ ∀ x ∈ owned.jobs, ¬ (x.id = 7 ∧ x.port = 0)) ∧
      ((withJob j).Takes 0 1 ∧ (withJob j).jobs = [] ++ j :: [] ∧ j.id = 7 ∧ j.port = 0 ∧ j.state = .active) ∧
      (waiting.Takes 0 1 ∧ waiting.jobs = [] ++ job (.fill 5) [0] 0 4 0 .queued :: [] ∧
        (job (.fill 5) [0] 0 4 0 .queued).state = .queued) := by
  refine ⟨⟨(owned_takes 1).toTakes, by decide +kernel⟩, ⟨?_, by decide +kernel⟩, ?_, by decide +kernel⟩
  · exact (withJob_takes _ 1).toTakes
  · exact (withJob_takes _ 1).toTakes

/-! ### Banks and the supervisor -/

/-- Bank 0 DRAINING, or its last page gone. -/
def drained (allocated : Nat) : State := owned.modBank 0 fun b => { b with state := .draining, allocated := allocated }

theorem drained_takes (n : Nat) (t : Tag) : (drained n).TakesAtOnce 0 t :=
  takes_of_same (s := owned) rfl rfl rfl (owned_takes t)

theorem test_meets_DrainAndRestoreMoveTheBanksPages :
    (owned.Takes 0 1 ∧ owned.role = some 0) ∧ 4 ≤ (4 : Byte).toNat ∧
      ((0 : BankNo).val = (0 : Byte).toNat ∧ (owned.bank 0).state = .online ∧ (3 : BankNo).val = (3 : Byte).toNat ∧
        (owned.bank 3).allocated = 0 ∧ (owned.bank 3).orphaned = 0) ∧
      ((drained 1).Takes 0 1 ∧ (drained 1).role = some 0 ∧ ((drained 1).bank 0).state ≠ .online) := by
  refine ⟨⟨(owned_takes 1).toTakes, by decide +kernel⟩, by decide, by decide +kernel, ?_, by decide +kernel⟩
  exact (drained_takes _ 1).toTakes

theorem test_meets_BankChecksMoveTheBank :
    owned.phase = .running ∧ (((drained 0).bank 0).state = .draining ∧ ((drained 0).bank 0).allocated = 0) ∧
      (owned.page 0).state = ((withPage fun r => { r with mapCount := 0 }).page 0).state ∧
      (owned.page 0).state ≠ ((withPage fun _ => .free).page 0).state ∧ ((withPage fun _ => .free).page 0).state = .free ∧
      ((withPage fun r => { r with state := .withheld }).page 0).state = .withheld ∧
      ((withPage fun r => { r with state := .retired }).page 0).state = .retired := by
  decide +kernel

theorem test_meets_ConfigureWritesTheNamedFields :
    (owned.Takes 0 1 ∧ owned.role = some 0 ∧ (0x7F : Byte).getLsbD 7 = false ∧ ∀ i : Fin 7, (0x7F : Byte).getLsbD i = true) ∧
      ((0 : Byte).toNat = 0 ∧ (0 : Half).toNat = 0 ∧ 64 < (65 : Byte).toNat ∧ 2048 < (2049 : Half).toNat) ∧
      ((0x08 : Byte).getLsbD 3 = true ∧ (0 : Half).toNat < owned.ownedBy 0) ∧
      (¬ (1 : Byte).toNat = 0 ∧ ¬ (1 : Half).toNat = 0 ∧ ¬ 64 < (64 : Byte).toNat ∧ ¬ 2048 < (2048 : Half).toNat ∧
        ¬ (1 : Half).toNat < owned.ownedBy 0 ∧ ∀ p, p ≠ 0 → owned.ownedBy p = 0) := by
  refine ⟨⟨(owned_takes 1).toTakes, by decide +kernel⟩, by decide, by decide +kernel, by decide +kernel⟩

/-! ### Invariants: a state that meets each and has a step -/

/-- The state with one command waiting. -/
def next (c : Instr) (s : State) : State := { s with pending := [c] }

theorem test_meets_StepsKeepThePoolCanonical :
    ({ owned with pool := faulty, pending := [.alloc 0 1 1] } : State).PoolCanonical ∧
      ∃ u, step { owned with pool := faulty, pending := [.alloc 0 1 1] } = .next u :=
  ⟨by unfold State.PoolCanonical; decide +kernel, _, rfl⟩

theorem next_directory {c : Instr} {s : State} (h : s.DirectorySound) : (next c s).DirectorySound :=
  ⟨h.1, h.2, h.3, h.4, h.5, h.6, h.7, h.8, h.9, h.10, h.11, h.12, h.13, h.14⟩

theorem next_maps {c : Instr} {s : State} (h : s.MapCountsExact) : (next c s).MapCountsExact := h

theorem next_locks {c : Instr} {s : State} (h : s.LockTableSound) : (next c s).LockTableSound := ⟨h.1, h.2, h.3⟩

theorem next_jobs {c : Instr} {s : State} (h : s.JobQueueSound) : (next c s).JobQueueSound := ⟨h.1, h.2, h.3, h.4⟩

theorem next_sound {c : Instr} {s : State} (h : s.Sound) : (next c s).Sound where
  phase := ⟨h.phase.1, h.phase.2⟩
  pool := h.pool
  marks := ⟨h.marks.1, h.marks.2⟩
  directory := next_directory h.directory
  mapCounts := h.mapCounts
  pinCounts := ⟨h.pinCounts.1, h.pinCounts.2, h.pinCounts.3⟩
  ports := h.ports
  transmitters := h.transmitters
  holder := h.holder
  locks := next_locks h.locks
  jobs := next_jobs h.jobs
  work := ⟨h.work.1, h.work.2, h.work.3, h.work.4, h.work.5, h.work.6, h.work.7, h.work.8⟩
  sessions := ⟨h.sessions.1, h.sessions.2, h.sessions.3, h.sessions.4, h.sessions.5⟩
  waiters := ⟨h.waiters.1, h.waiters.2, h.waiters.3⟩
  slots := ⟨h.slots.1, h.slots.2, h.slots.3, h.slots.4, h.slots.5⟩

theorem next_answers (c : Instr) (s : State) (h : ∃ u, exec c { s with pending := [] } = .next u) : ∃ u, step (next c s) = .next u := h

theorem test_meets_StepsKeepTheDirectorySound :
    ((next (.alloc 0 1 1) owned).DirectorySound ∧ (next (.alloc 0 1 1) owned).Sound) ∧
      ∃ u, step (next (.alloc 0 1 1) owned) = .next u :=
  ⟨⟨next_directory owned_directory, next_sound owned_sound⟩, next_answers _ _ ⟨_, rfl⟩⟩

theorem test_meets_StepsKeepMapCountsExact :
    (next (.unmap 0 1 0 0) owned).DirectorySound ∧ (next (.unmap 0 1 0 0) owned).MapCountsExact ∧
      ∃ u, step (next (.unmap 0 1 0 0) owned) = .next u :=
  ⟨next_directory owned_directory, next_maps owned_maps, next_answers _ _ ⟨_, rfl⟩⟩

theorem test_meets_StepsKeepPinCountsExact :
    (next (.read 0 1 0 0 4) owned).Sound ∧ ∃ u, step (next (.read 0 1 0 0 4) owned) = .next u :=
  ⟨next_sound owned_sound, next_answers _ _ ⟨_, rfl⟩⟩

theorem test_meets_StepsKeepPortsBoundedAndFollowing :
    ((next (.info 2 1) owned).PortsBounded ∧ (next (.info 2 1) owned).TransmittersFollow) ∧
      ∃ u, step (next (.info 2 1) owned) = .next u :=
  ⟨⟨(next_sound owned_sound).ports, (next_sound owned_sound).transmitters⟩, next_answers _ _ ⟨_, rfl⟩⟩

theorem test_meets_StepsKeepTheHolderOpen :
    (next (.closePort 0 1) owned).HolderOpen ∧ ∃ u, step (next (.closePort 0 1) owned) = .next u :=
  ⟨by unfold State.HolderOpen; decide +kernel, _, rfl⟩

theorem test_meets_StepsKeepTheLockTableSound :
    (next (.release 1 1 0) (locked 5 none)).LockTableSound ∧ ∃ u, step (next (.release 1 1 0) (locked 5 none)) = .next u :=
  ⟨next_locks (locked_sound _ _), next_answers _ _ ⟨_, rfl⟩⟩

theorem test_meets_StepsKeepTheJobQueueSound :
    (next (.cancel 0 1 7) waiting).JobQueueSound ∧ ∃ u, step (next (.cancel 0 1 7) waiting) = .next u :=
  ⟨next_jobs (withJob_sound _), next_answers _ _ ⟨_, rfl⟩⟩

theorem test_meets_StepsKeepWorkInFlightSound :
    ((next (.fill 0 1 2 0 8 4 5) owned).PhaseSound ∧ (next (.fill 0 1 2 0 8 4 5) owned).Sound) ∧
      ∃ u, step (next (.fill 0 1 2 0 8 4 5) owned) = .next u :=
  ⟨⟨(next_sound owned_sound).phase, next_sound owned_sound⟩, next_answers _ _ ⟨_, rfl⟩⟩

theorem test_meets_StepsKeepSessionsAndSlotsSound :
    (next (.acquire 0 1 0 1 0 0) owned).Sound ∧ ∃ u, step (next (.acquire 0 1 0 1 0 0) owned) = .next u :=
  ⟨next_sound owned_sound, next_answers _ _ ⟨_, rfl⟩⟩

end Sys2Proof.Tests
end

/-! # The Page Directory's tables through every move (R2, R3, R5, R9, R122, R123) -/

namespace Sys2Proof.Machine

/-! ## A bank's counts by page state -/

/-- The count a bank record holds for a page state (R122). -/
def BankRec.count (b : BankRec) : PageState → Nat
  | .free => b.free
  | .allocated => b.allocated
  | .orphaned => b.orphaned
  | .withheld => b.withheld
  | .retired => b.retired

@[simp] theorem BankRec.remove_state (b : BankRec) (old : PageState) : (b.remove old).state = b.state := by cases old <;> rfl

@[simp] theorem BankRec.insert_state (b : BankRec) (new : PageState) : (b.insert new).state = b.state := by cases new <;> rfl

theorem BankRec.count_remove (b : BankRec) (old st : PageState) :
    (b.remove old).count st = b.count st - if old = st then 1 else 0 := by
  cases old <;> cases st <;> rfl

theorem BankRec.count_insert (b : BankRec) (new st : PageState) :
    (b.insert new).count st = b.count st + if new = st then 1 else 0 := by
  cases new <;> cases st <;> rfl

/-! ## Numbers of pages -/

/-- A count when the predicate changes at one element alone. -/
theorem card_change {α : Type} [Fintype α] [DecidableEq α] {P P' : α → Prop} [DecidablePred P] [DecidablePred P'] (a : α)
    (same : ∀ x, x ≠ a → (P' x ↔ P x)) :
    (Finset.univ.filter P').card + (if P a then 1 else 0) = (Finset.univ.filter P).card + if P' a then 1 else 0 := by
  have rest : ∑ x ∈ Finset.univ.erase a, (if P' x then 1 else 0) = ∑ x ∈ Finset.univ.erase a, if P x then 1 else 0 :=
    Finset.sum_congr rfl fun x hx => by simp only [same x (Finset.ne_of_mem_erase hx)]
  rw [Finset.card_filter, Finset.card_filter, ← Finset.add_sum_erase _ _ (Finset.mem_univ a),
    ← Finset.add_sum_erase (a := a) _ (fun x => if P x then 1 else 0) (Finset.mem_univ a), rest]
  omega

theorem card_filter_eq {α : Type} [Fintype α] {P P' : α → Prop} [DecidablePred P] [DecidablePred P'] (same : ∀ x, P x ↔ P' x) :
    (Finset.univ.filter P).card = (Finset.univ.filter P').card :=
  congrArg Finset.card (Finset.filter_congr fun x _ => same x)

theorem card_filter_zero {α : Type} [Fintype α] {P : α → Prop} [DecidablePred P] :
    (Finset.univ.filter P).card = 0 ↔ ∀ x, ¬ P x := by
  simp [Finset.filter_eq_empty_iff]

/-- Two kinds counted together, when nothing is of both. -/
theorem card_filter_add {α : Type} [Fintype α] {P Q R : α → Prop} [DecidablePred P] [DecidablePred Q] [DecidablePred R]
    (either : ∀ x, R x ↔ P x ∨ Q x) (disjoint : ∀ x, P x → ¬ Q x) :
    (Finset.univ.filter R).card = (Finset.univ.filter P).card + (Finset.univ.filter Q).card := by
  classical
  rw [card_filter_eq either, Finset.filter_or, Finset.card_union_of_disjoint]
  exact Finset.disjoint_filter.mpr fun x _ => disjoint x

/-- A bank has 512 pages (R1). -/
theorem card_bank : ∀ b : BankNo, (Finset.univ.filter fun q : PageNo => bankOf q = b).card = 512 := by decide +kernel

theorem inBank_iff {b : BankNo} {q : PageNo} : inBank b q = true ↔ bankOf q = b := by
  simp [inBank, bankOf, Fin.ext_iff]

/-- The pages of a bank in a state when one page's record changes. -/
theorem pagesIn_change {s u : State} {q : PageNo} (same : ∀ x, x ≠ q → u.page x = s.page x) (b : BankNo) (st : PageState) :
    u.pagesIn b st + (if bankOf q = b ∧ (s.page q).state = st then 1 else 0) =
      s.pagesIn b st + if bankOf q = b ∧ (u.page q).state = st then 1 else 0 :=
  card_change (P := fun x => bankOf x = b ∧ (s.page x).state = st) q fun x hx => by rw [same x hx]

/-- The pages ALLOCATED to a port when one page's record changes. -/
theorem pagesOwned_change {s u : State} {q : PageNo} (same : ∀ x, x ≠ q → u.page x = s.page x) (p : Port) :
    u.pagesOwned p + (if (s.page q).state = .allocated ∧ (s.page q).owner = some p then 1 else 0) =
      s.pagesOwned p + if (u.page q).state = .allocated ∧ (u.page q).owner = some p then 1 else 0 :=
  card_change (P := fun x => (s.page x).state = .allocated ∧ (s.page x).owner = some p) q fun x hx => by rw [same x hx]

/-! ## The directory but for the quotas -/

/-- A page record is one that its bank's state allows (R1, R2, R123). -/
structure PageRec.Fits (r : PageRec) (bank : BankState) : Prop where
  owner : r.owner ≠ none ↔ r.state = .allocated
  grants : ¬ r.inUse → r.grants = noGrants
  online : bank = .online → r.state ≠ .withheld
  drained : bank ≠ .online → r.state ≠ .free
  offline : bank = .offline → ¬ r.inUse

/-- DirectorySound but for the quotas, which the configuration record holds. -/
structure State.DirectoryAgrees (s : State) : Prop where
  freeOnce : s.freeList.Nodup
  freeExactly : ∀ q, q ∈ s.freeList ↔ (s.page q).state = .free
  counts : ∀ b st, (s.bank b).count st = s.pagesIn b st
  ownedCounts : ∀ p, s.ownedBy p = s.pagesOwned p
  fits : ∀ q, (s.page q).Fits (s.bank (bankOf q)).state

/-- No port owns more pages than its quota (R5). -/
def State.WithinQuotas (s : State) : Prop := ∀ p, s.ownedBy p ≤ s.config.quota[p]

theorem directorySound_iff {s : State} : s.DirectorySound ↔ s.DirectoryAgrees ∧ s.WithinQuotas := by
  constructor
  · intro h
    refine ⟨⟨h.freeOnce, h.freeExactly, fun b st => ?_, h.ownedCounts, fun q => ?_⟩, h.quota⟩
    · cases st
      · exact h.bankFree b
      · exact h.bankAllocated b
      · exact h.bankOrphaned b
      · exact h.bankWithheld b
      · exact h.bankRetired b
    · exact ⟨h.owner q, h.grants q, h.onlineBank q, h.drainedBank q, h.offlineBank q⟩
  · rintro ⟨h, quota⟩
    exact ⟨h.freeOnce, h.freeExactly, fun b => h.counts b .free, fun b => h.counts b .allocated, fun b => h.counts b .orphaned,
      fun b => h.counts b .withheld, fun b => h.counts b .retired, h.ownedCounts, quota, fun q => (h.fits q).owner,
      fun q => (h.fits q).grants, fun q => (h.fits q).online, fun q => (h.fits q).drained, fun q => (h.fits q).offline⟩

variable {s u : State}

/-! ## Changes that leave states and owners alone -/

/-- A change that leaves states, owners, bank records, free list and owned counts alone, and grants only in use. -/
theorem State.DirectoryAgrees.of_same (h : s.DirectoryAgrees) (state : ∀ q, (u.page q).state = (s.page q).state)
    (owner : ∀ q, (u.page q).owner = (s.page q).owner)
    (grants : ∀ q, ¬ (s.page q).inUse → (s.page q).grants = noGrants → (u.page q).grants = noGrants)
    (bank : u.bank = s.bank) (freeList : u.freeList = s.freeList) (owned : u.ownedBy = s.ownedBy) : u.DirectoryAgrees where
  freeOnce := by rw [freeList]; exact h.freeOnce
  freeExactly q := by rw [freeList, state]; exact h.freeExactly q
  counts b st := by simp only [State.pagesIn, state, bank]; exact h.counts b st
  ownedCounts p := by simp only [State.pagesOwned, state, owner, owned]; exact h.ownedCounts p
  fits q := by
    have f := h.fits q
    have use : (u.page q).inUse ↔ (s.page q).inUse := by simp only [PageRec.inUse, state]
    exact ⟨by rw [owner, state]; exact f.owner, fun n => grants q (use.not.mp n) (f.grants (use.not.mp n)),
      by rw [bank, state]; exact f.online, by rw [bank, state]; exact f.drained, by rw [bank, use]; exact f.offline⟩

/-- A change outside the Page Directory. -/
theorem State.DirectoryAgrees.of_tables (h : s.DirectoryAgrees) (pages : u.pages = s.pages) (banks : u.banks = s.banks)
    (freeList : u.freeList = s.freeList) (owned : u.owned = s.owned) : u.DirectoryAgrees := by
  have page : u.page = s.page := by funext q; simp only [State.page, pages]
  refine h.of_same (fun q => by rw [page]) (fun q => by rw [page]) (fun q _ g => by rw [page, g]) ?_ freeList ?_
  · funext b; simp only [State.bank, banks]
  · funext p; simp only [State.ownedBy, owned]

/-- A change of one page record that leaves its state and its owner alone. -/
theorem State.DirectoryAgrees.modPage (h : s.DirectoryAgrees) (q : PageNo) {f : PageRec → PageRec}
    (state : (f (s.page q)).state = (s.page q).state) (owner : (f (s.page q)).owner = (s.page q).owner)
    (grants : ¬ (s.page q).inUse → (f (s.page q)).grants = (s.page q).grants) : (s.modPage q f).DirectoryAgrees := by
  refine h.of_same (fun x => ?_) (fun x => ?_) (fun x n g => ?_) rfl rfl rfl <;> rw [State.page_modPage] <;> split
  · next e => rw [e, state]
  · rfl
  · next e => rw [e, owner]
  · rfl
  · next e => subst e; rw [grants n, g]
  · exact g

/-! ## A page that changes its state (R9) -/

theorem changePage_page (q x : PageNo) (new : PageState) (f : PageRec → PageRec) :
    (s.changePage q new f).page x = if x = q then { f (s.page q) with state := new } else s.page x := by
  rw [State.changePage, State.page_modPage]
  simp

theorem changePage_bank (q : PageNo) (new : PageState) (f : PageRec → PageRec) (b : BankNo) :
    (s.changePage q new f).bank b =
      if b = bankOf q then ((s.bank b).remove (s.page q).state).insert new else s.bank b := by
  rw [State.changePage, State.bank_modPage, State.bank_modBank]
  split
  · next e => rw [e]
  · rfl

/-- One page changes its state, with its bank's counts, and the free list and the owned counts follow. -/
theorem State.DirectoryAgrees.changePage (h : s.DirectoryAgrees) (q : PageNo) (new : PageState) (f : PageRec → PageRec)
    (page : u.page = (s.changePage q new f).page) (bank : u.bank = (s.changePage q new f).bank) (freeOnce : u.freeList.Nodup)
    (freeExactly : ∀ x, x ∈ u.freeList ↔ if x = q then new = .free else x ∈ s.freeList)
    (owned : ∀ p, u.ownedBy p + (if (s.page q).state = .allocated ∧ (s.page q).owner = some p then 1 else 0) =
      s.ownedBy p + if new = .allocated ∧ (f (s.page q)).owner = some p then 1 else 0)
    (fits : ({ f (s.page q) with state := new } : PageRec).Fits (s.bank (bankOf q)).state) : u.DirectoryAgrees where
  freeOnce := freeOnce
  freeExactly x := by
    rw [freeExactly, page, changePage_page]
    split
    · rfl
    · exact h.freeExactly x
  counts b st := by
    have change := pagesIn_change (s := s) (u := u) (q := q) (fun x hx => by rw [page, changePage_page, if_neg hx]) b st
    have before := h.counts b st
    rw [page, changePage_page, if_pos rfl] at change
    rw [bank, changePage_bank]
    by_cases hb : b = bankOf q
    · rw [if_pos hb, BankRec.count_insert, BankRec.count_remove]
      simp only [hb, true_and] at change before ⊢
      have left : (if (s.page q).state = st then 1 else 0) ≤ s.pagesIn (bankOf q) st := by
        split
        · next hst => exact Finset.card_pos.mpr ⟨q, by simp [hst]⟩
        · exact Nat.zero_le _
      omega
    · rw [if_neg hb]
      simp only [Ne.symm hb, false_and, if_false] at change
      omega
  ownedCounts p := by
    have change := pagesOwned_change (s := s) (u := u) (q := q) (fun x hx => by rw [page, changePage_page, if_neg hx]) p
    rw [page, changePage_page, if_pos rfl] at change
    have := owned p
    have := h.ownedCounts p
    dsimp only at change
    omega
  fits x := by
    have state : (u.bank (bankOf x)).state = (s.bank (bankOf x)).state := by
      rw [bank, changePage_bank]; split <;> simp
    rw [state, page, changePage_page]
    split
    · next e => rw [e]; exact fits
    · exact h.fits x

end Sys2Proof.Machine

namespace Sys2Proof.Machine

variable {s u : State}

/-! ## Release, ALLOC and the ownership step -/

/-- The state a release gives is FREE only in an ONLINE bank, WITHHELD only in another. -/
theorem releasedState_cases (r : PageRec) (bank : BankState) :
    (r.poisoned = true ∧ r.releasedState bank = .retired) ∨
      (r.poisoned = false ∧ bank = .online ∧ r.releasedState bank = .free) ∨
      (r.poisoned = false ∧ bank ≠ .online ∧ r.releasedState bank = .withheld) := by
  unfold PageRec.releasedState
  by_cases poisoned : r.poisoned = true
  · simp [poisoned]
  · by_cases online : bank = .online <;> simp [poisoned, online]

theorem releasedState_not_inUse (r : PageRec) (bank : BankState) :
    r.releasedState bank ≠ .allocated ∧ r.releasedState bank ≠ .orphaned := by
  obtain ⟨-, h⟩ | ⟨-, -, h⟩ | ⟨-, -, h⟩ := releasedState_cases r bank <;> simp [h]

theorem placeReleased_page (q x : PageNo) :
    (s.placeReleased q).page x =
      if x = q then { s.page q with state := s.releasedTo q, owner := none, grants := noGrants } else s.page x :=
  changePage_page (s := { s with freeList := _ }) q x _ _

theorem placeReleased_bank (q : PageNo) (b : BankNo) :
    (s.placeReleased q).bank b =
      if b = bankOf q then ((s.bank b).remove (s.page q).state).insert (s.releasedTo q) else s.bank b :=
  changePage_bank (s := { s with freeList := _ }) q _ _ b

theorem placeReleased_freeList (q : PageNo) :
    (s.placeReleased q).freeList = if s.releasedTo q = .free then s.freeList ++ [q] else s.freeList := rfl

/-- A page in use is placed by its release, and its owner's count falls with it. -/
theorem State.DirectoryAgrees.placeReleased (h : s.DirectoryAgrees) {q : PageNo} (used : (s.page q).inUse)
    (page : u.page = (s.placeReleased q).page) (bank : u.bank = (s.placeReleased q).bank)
    (freeList : u.freeList = (s.placeReleased q).freeList)
    (owned : ∀ p, u.ownedBy p + (if (s.page q).state = .allocated ∧ (s.page q).owner = some p then 1 else 0) = s.ownedBy p) :
    u.DirectoryAgrees := by
  have absent : q ∉ s.freeList := by
    rw [h.freeExactly]; rcases used with e | e <;> rw [e] <;> nofun
  have idle := releasedState_not_inUse (s.page q) (s.bank (bankOf q)).state
  refine h.changePage (u := u) q (s.releasedTo q) (fun r => { r with owner := none, grants := noGrants }) page bank ?_ ?_ ?_ ?_
  · rw [freeList, placeReleased_freeList]
    split
    · exact List.nodup_append.mpr ⟨h.freeOnce, List.nodup_singleton q, by rintro x hx y hy rfl; exact absent (by simp_all)⟩
    · exact h.freeOnce
  · intro x
    rw [freeList, placeReleased_freeList]
    by_cases e : x = q
    · subst e; by_cases free : s.releasedTo x = .free <;> simp [free, absent]
    · by_cases free : s.releasedTo q = .free <;> simp [free, e]
  · intro p; have := owned p; simp [this]
  · refine ⟨by simp [State.releasedTo, idle.1], fun _ => rfl, ?_, ?_, ?_⟩
    · intro online; simp [State.releasedTo, PageRec.releasedState, online]; split <;> nofun
    · intro drained; simp [State.releasedTo, PageRec.releasedState, drained]; split <;> nofun
    · rintro - (e | e)
      · exact idle.1 e
      · exact idle.2 e

/-- A page of a closing port becomes ORPHANED. -/
theorem State.DirectoryAgrees.orphan (h : s.DirectoryAgrees) {p : Port} {q : PageNo} (owned : s.owns p q = true) :
    ((s.changePage q .orphaned fun r => { r with owner := none }).modOwned p (· - 1)).DirectoryAgrees := by
  obtain ⟨allocated, owner⟩ := owns_iff.mp owned
  have pos : 0 < s.ownedBy p := by
    rw [h.ownedCounts p]; exact Finset.card_pos.mpr ⟨q, by simp [allocated, owner]⟩
  have fit := h.fits q
  refine h.changePage q .orphaned (fun r => { r with owner := none }) rfl rfl h.freeOnce (fun x => ?_) (fun x => ?_) ?_
  · show x ∈ s.freeList ↔ _
    split
    · next e => rw [e, h.freeExactly, allocated]; simp
    · rfl
  · rw [State.ownedBy_modOwned]
    by_cases e : x = p
    · subst e; simp only [State.changePage, State.ownedBy_modPage, State.ownedBy_modBank]; simp [allocated, owner]; omega
    · simp only [State.changePage, State.ownedBy_modPage, State.ownedBy_modBank]; simp [allocated, owner, e, Ne.symm e]
  · refine ⟨by simp, fun n => absurd (.inr rfl) n, by simp, by simp, fun offline => absurd (.inl allocated) (fit.offline offline)⟩

/-- ALLOC, one page: the head of the free list (R14). -/
def State.takeHead (s : State) (p : Port) : State :=
  match s.freeList with
  | [] => s
  | q :: rest => ({ s with freeList := rest }.modOwned p (· + 1)).allocPage p q

theorem takeHead_cons {p : Port} {q : PageNo} {rest : List PageNo} (h : s.freeList = q :: rest) :
    s.takeHead p = ({ s with freeList := rest }.modOwned p (· + 1)).allocPage p q := by
  rw [State.takeHead, h]

/-- ALLOC takes its pages from the head one after another. -/
theorem takePages_succ {p : Port} {n : Nat} (enough : n + 1 ≤ s.freeList.length) :
    s.takePages p (n + 1) = (s.takeHead p).takePages p n := by
  obtain ⟨q, rest, e⟩ := List.exists_cons_of_length_pos (l := s.freeList) (by omega)
  rw [takeHead_cons e]
  simp only [State.takePages, e, List.take_succ_cons, List.drop_succ_cons, List.foldl_cons]
  have front : (({ s with freeList := rest.drop n }.modOwned p (· + (n + 1))).allocPage p q) =
      { (({ s with freeList := rest }.modOwned p (· + 1)).allocPage p q) with freeList := rest.drop n }.modOwned p (· + n) := by
    simp only [State.allocPage, State.changePage, State.modPage, State.modBank, State.modOwned, State.page, State.bank,
      State.ownedBy, Fin.getElem_fin, Vector.getElem_set_self, Vector.set_set, Nat.add_assoc, Nat.add_comm 1 n]
  rw [front]
  rfl

theorem State.DirectoryAgrees.takeHead (h : s.DirectoryAgrees) {p : Port} : (s.takeHead p).DirectoryAgrees := by
  cases e : s.freeList with
  | nil => rw [State.takeHead, e]; exact h
  | cons q rest =>
    rw [takeHead_cons e]
    have free : (s.page q).state = .free := (h.freeExactly q).mp (by simp [e])
    obtain ⟨absent, once⟩ := List.nodup_cons.mp (e ▸ h.freeOnce)
    have online : (s.bank (bankOf q)).state = .online := by
      by_contra n; exact (h.fits q).drained n free
    refine h.changePage q .allocated
      (fun r => { r with owner := some p, grants := noGrants, mapCount := 0, pinCount := 0, poisoned := false }) rfl rfl once
      (fun x => ?_) (fun x => ?_) ?_
    · show x ∈ rest ↔ _
      split
      · next hx => rw [hx]; simp [absent]
      · next hx => rw [e]; simp [hx]
    · show (State.modOwned _ p _).ownedBy x + _ = _
      rw [State.ownedBy_modOwned]
      by_cases hx : x = p
      · subst hx; simp [free]; rfl
      · simp [free, hx, Ne.symm hx]; rfl
    · exact ⟨by simp, fun _ => rfl, by simp, by simp, fun offline => by rw [online] at offline; cases offline⟩

theorem State.DirectoryAgrees.takePages (h : s.DirectoryAgrees) {p : Port} {n : Nat} (enough : n ≤ s.freeList.length) :
    (s.takePages p n).DirectoryAgrees := by
  induction n generalizing s with
  | zero => exact h.of_tables rfl rfl rfl (by simp [State.takePages, State.modOwned, State.ownedBy])
  | succ n ih =>
    rw [takePages_succ enough]
    refine ih h.takeHead ?_
    obtain ⟨q, rest, e⟩ := List.exists_cons_of_length_pos (l := s.freeList) (by omega)
    rw [takeHead_cons e]
    show n ≤ rest.length
    simpa [e] using enough

/-! ## DRAIN and RESTORE: every page of a bank in one state takes another -/

/-- The pages in each state after every page of a bank in a state takes another. -/
theorem pagesIn_moveAll {b : BankNo} {a c : PageState} (ne : a ≠ c)
    (state : ∀ x, (u.page x).state = if bankOf x = b ∧ (s.page x).state = a then c else (s.page x).state) (b' : BankNo)
    (st : PageState) :
    u.pagesIn b' st =
      if b' = b then (if st = a then 0 else if st = c then s.pagesIn b c + s.pagesIn b a else s.pagesIn b st)
      else s.pagesIn b' st := by
  unfold State.pagesIn
  simp only [state]
  split
  · next hb =>
    subst hb
    split
    · next ha =>
      subst ha
      refine card_filter_zero.mpr ?_
      rintro x ⟨hx, hs⟩
      split at hs
      · exact ne hs.symm
      · next n => exact n ⟨hx, hs⟩
    split
    · next ha hc =>
      subst hc
      refine card_filter_add (fun x => ?_) fun x hx h => ne (h.2.symm.trans hx.2)
      split
      · next hx => simp [hx.1, hx.2]
      · next hx => exact ⟨.inl, fun h => h.resolve_right hx⟩
    · next ha hc =>
      refine card_filter_eq fun x => ?_
      split
      · next hx => exact ⟨fun h => absurd h.2.symm hc, fun h => absurd (h.2.symm.trans hx.2) ha⟩
      · rfl
  · next hb =>
    refine card_filter_eq fun x => and_congr_right fun hx => ?_
    rw [if_neg]
    rintro ⟨h, -⟩
    exact hb (hx.symm.trans h)

/-- Every page of a bank that is not in use and in one state takes another, with the bank's counts. -/
theorem State.DirectoryAgrees.moveAll (h : s.DirectoryAgrees) {b : BankNo} {a c : PageState} (ne : a ≠ c)
    (idle : a ≠ .allocated ∧ c ≠ .allocated)
    (page : ∀ x, u.page x = if bankOf x = b ∧ (s.page x).state = a then { s.page x with state := c } else s.page x)
    (others : ∀ x, x ≠ b → u.bank x = s.bank x)
    (counts : ∀ st, (u.bank b).count st =
      if st = a then 0 else if st = c then (s.bank b).count c + (s.bank b).count a else (s.bank b).count st)
    (freeOnce : u.freeList.Nodup) (freeExactly : ∀ q, q ∈ u.freeList ↔ (u.page q).state = .free)
    (owned : u.ownedBy = s.ownedBy) (fits : ∀ x, bankOf x = b → (u.page x).Fits (u.bank b).state) : u.DirectoryAgrees where
  freeOnce := freeOnce
  freeExactly := freeExactly
  counts b' st := by
    rw [pagesIn_moveAll (s := s) (b := b) ne (fun x => by rw [page x]; split <;> rfl) b' st]
    by_cases hb : b' = b
    · subst hb; rw [if_pos rfl, counts, ← h.counts, ← h.counts, ← h.counts]
    · rw [if_neg hb, others b' hb, h.counts]
  ownedCounts p := by
    rw [owned, h.ownedCounts p]
    refine card_filter_eq fun x => ?_
    rw [page x]
    split
    · next hx => simp [hx.2, idle.1, idle.2]
    · rfl
  fits x := by
    by_cases hx : bankOf x = b
    · rw [hx]; exact fits x hx
    · rw [others _ hx, page x, if_neg fun n => hx n.1]; exact h.fits x

theorem withholdBank_freeList (b : BankNo) : (s.withholdBank b).freeList = s.freeList.filter fun q : PageNo => !inBank b q := rfl

theorem withhold_page (b : BankNo) (x : PageNo) :
    (s.withholdBank b).page x =
      if bankOf x = b ∧ (s.page x).state = .free then { s.page x with state := .withheld } else s.page x := by
  rw [withholdBank_page]
  by_cases hb : bankOf x = b
  · simp only [inBank_iff.mpr hb, PageRec.withhold, hb, true_and, if_true]
  · rw [if_neg (by rw [inBank_iff]; exact hb), if_neg fun n => hb n.1]

theorem withholdBank_bank (b x : BankNo) :
    (s.withholdBank b).bank x =
      if x = b then { s.bank b with free := 0, withheld := (s.bank b).withheld + (s.bank b).free } else s.bank x := by
  rw [State.withholdBank, State.bank_modBank]; rfl

theorem restored_page (b : BankNo) (x : PageNo) :
    (s.returnBank b).page x =
      if bankOf x = b ∧ (s.page x).state = .withheld then { s.page x with state := .free } else s.page x := by
  rw [returnBank_page]
  by_cases hb : bankOf x = b
  · simp only [inBank_iff.mpr hb, PageRec.unwithhold, hb, true_and, if_true]
  · rw [if_neg (by rw [inBank_iff]; exact hb), if_neg fun n => hb n.1]

theorem returnBank_bank (b x : BankNo) :
    (s.returnBank b).bank x =
      if x = b then { s.bank b with withheld := 0, free := (s.bank b).free + (s.bank b).withheld } else s.bank x := by
  rw [State.returnBank, State.bank_modBank]; rfl

theorem mem_returned {b : BankNo} {q : PageNo} :
    q ∈ s.pagesWhere (fun q r => inBank b q && r.state == PageState.withheld) ↔ bankOf q = b ∧ (s.page q).state = .withheld := by
  rw [State.pagesWhere, mem_indexesWhere, ← inBank_iff]
  simp [State.page]

theorem State.DirectoryAgrees.drain (h : s.DirectoryAgrees) (b : BankNo) :
    ((s.withholdBank b).modBank b fun r => { r with state := .draining }).DirectoryAgrees := by
  have bank : ((s.withholdBank b).modBank b fun r => { r with state := .draining }).bank b =
      { s.bank b with state := .draining, free := 0, withheld := (s.bank b).withheld + (s.bank b).free } := by
    rw [State.bank_modBank_same, withholdBank_bank, if_pos rfl]
  refine h.moveAll (a := .free) (c := .withheld) (by nofun) ⟨by nofun, by nofun⟩ (fun x => withhold_page b x) (fun x hx => ?_)
    (fun st => ?_) ?_ (fun q => ?_) rfl (fun x hx => ?_)
  · rw [State.bank_modBank_ne _ _ _ hx, withholdBank_bank, if_neg hx]
  · rw [bank]; cases st <;> rfl
  · exact h.freeOnce.filter _
  · show q ∈ (s.withholdBank b).freeList ↔ ((s.withholdBank b).page q).state = .free
    rw [withholdBank_freeList, List.mem_filter, h.freeExactly, withhold_page]
    simp only [← inBank_iff]
    by_cases hb : inBank b q = true <;> by_cases free : (s.page q).state = .free <;> simp [hb, free]
  · rw [bank]
    show ((s.withholdBank b).page x).Fits .draining
    rw [withhold_page]
    have fit := h.fits x
    split
    · next hf =>
      have idle : ¬ (s.page x).inUse := by rintro (e | e) <;> rw [hf.2] at e <;> cases e
      refine ⟨?_, fun _ => fit.grants idle, nofun, nofun, nofun⟩
      have := fit.owner
      simp_all
    · next hf => exact ⟨fit.owner, fit.grants, nofun, fun _ free => hf ⟨hx, free⟩, nofun⟩

theorem State.DirectoryAgrees.restore (h : s.DirectoryAgrees) (b : BankNo) :
    ((s.returnBank b).modBank b fun r => { r with state := .online }).DirectoryAgrees := by
  have bank : ((s.returnBank b).modBank b fun r => { r with state := .online }).bank b =
      { s.bank b with state := .online, withheld := 0, free := (s.bank b).free + (s.bank b).withheld } := by
    rw [State.bank_modBank_same, returnBank_bank, if_pos rfl]
  have free : ∀ q, q ∈ ((s.returnBank b).modBank b fun r => { r with state := .online }).freeList ↔
      q ∈ s.freeList ∨ bankOf q = b ∧ (s.page q).state = .withheld := fun q => by
    rw [← mem_returned, ← List.mem_append]; rfl
  refine h.moveAll (a := .withheld) (c := .free) (by nofun) ⟨by nofun, by nofun⟩ (fun x => restored_page b x) (fun x hx => ?_)
    (fun st => ?_) ?_ (fun q => ?_) rfl (fun x hx => ?_)
  · rw [State.bank_modBank_ne _ _ _ hx, returnBank_bank, if_neg hx]
  · rw [bank]; cases st <;> rfl
  · refine List.nodup_append.mpr ⟨h.freeOnce, nodup_indexesWhere _ _, ?_⟩
    rintro x hx y hy rfl
    have hy : x ∈ s.pagesWhere (fun q r => inBank b q && r.state == PageState.withheld) := hy
    rw [mem_returned] at hy
    rw [h.freeExactly, hy.2] at hx
    cases hx
  · rw [free]
    show _ ↔ ((s.returnBank b).page q).state = .free
    rw [restored_page, h.freeExactly]
    by_cases hb : bankOf q = b ∧ (s.page q).state = .withheld <;> simp [hb]
  · rw [bank]
    show ((s.returnBank b).page x).Fits .online
    rw [restored_page]
    have fit := h.fits x
    split
    · next hf =>
      have idle : ¬ (s.page x).inUse := by rintro (e | e) <;> rw [hf.2] at e <;> cases e
      refine ⟨?_, fun _ => fit.grants idle, nofun, nofun, nofun⟩
      have := fit.owner
      simp_all
    · next hf => exact ⟨fit.owner, fit.grants, fun _ withheld => hf ⟨hx, withheld⟩, nofun, nofun⟩

/-- A DRAINING bank without a page in use goes OFFLINE (R125). -/
theorem State.DirectoryAgrees.offline (h : s.DirectoryAgrees) {b : BankNo} (draining : (s.bank b).state = .draining)
    (noAllocated : (s.bank b).allocated = 0) (noOrphaned : (s.bank b).orphaned = 0) :
    (s.modBank b fun r => { r with state := .offline }).DirectoryAgrees := by
  have none : ∀ st, (s.bank b).count st = 0 → ∀ q, bankOf q = b → (s.page q).state ≠ st := fun st zero q hq e => by
    rw [h.counts] at zero
    exact card_filter_zero.mp zero q ⟨hq, e⟩
  refine ⟨h.freeOnce, h.freeExactly, fun x st => ?_, h.ownedCounts, fun q => ?_⟩
  · show _ = s.pagesIn x st
    rw [← h.counts, State.bank_modBank]
    split
    · next e => rw [e]; cases st <;> rfl
    · rfl
  · rw [State.page_modBank, State.bank_modBank]
    have fit := h.fits q
    split
    · next e =>
      rw [e, draining] at fit
      refine ⟨fit.owner, fit.grants, nofun, fun _ => fit.drained nofun, ?_⟩
      rintro - (used | used)
      · exact none .allocated noAllocated q e used
      · exact none .orphaned noOrphaned q e used
    · exact fit

end Sys2Proof.Machine

namespace Sys2Proof.Machine

variable {s u : State}

/-! ## Power-on and the reset line (R27, R28, R136, R137) -/

@[simp] theorem powerOnTables_page (q : PageNo) : s.powerOnTables.page q = .free := by
  simp [State.powerOnTables, State.page, State.reset]

@[simp] theorem powerOnTables_bank (b : BankNo) : s.powerOnTables.bank b = .initial := by
  simp [State.powerOnTables, State.bank, State.reset]

@[simp] theorem powerOnTables_ownedBy (p : Port) : s.powerOnTables.ownedBy p = 0 := by
  simp [State.powerOnTables, State.ownedBy, State.reset]

@[simp] theorem powerOnTables_map (p : Port) : s.powerOnTables.map p = .initial := by
  simp [State.powerOnTables, State.map, State.reset]

@[simp] theorem powerOnTables_port (p : Port) : s.powerOnTables.port p = .initial (s.port p).breakInForce := by
  simp [State.powerOnTables, State.port]

@[simp] theorem powerOnTables_queue (b : BankNo) : s.powerOnTables.queue b = [] := by
  simp [State.powerOnTables, State.queue, State.reset]

theorem powerOnTables_freeList : s.powerOnTables.freeList = List.finRange 2048 := by rw [State.powerOnTables, State.reset]

/-- Every page FREE, every bank ONLINE, nothing owned: the directory after a power-on. -/
theorem directoryAgrees_of_fresh (page : ∀ q, u.page q = .free) (bank : ∀ b, u.bank b = .initial)
    (freeList : u.freeList = List.finRange 2048) (owned : ∀ p, u.ownedBy p = 0) : u.DirectoryAgrees where
  freeOnce := by rw [freeList]; exact List.nodup_finRange 2048
  freeExactly q := by rw [freeList, page]; simp [PageRec.free]
  counts b st := by
    simp only [State.pagesIn, page, bank]
    cases st
    case free => exact ((card_filter_eq fun x => by simp [PageRec.free]).trans (card_bank b)).symm
    all_goals exact (card_filter_zero.mpr fun x h => by cases h.2).symm
  ownedCounts p := by
    rw [owned]
    exact (card_filter_zero.mpr fun x h => by rw [page] at h; cases h.1).symm
  fits q := by
    rw [page, bank]
    exact ⟨by simp [PageRec.free], fun _ => rfl, fun _ => nofun, fun n => absurd rfl n, nofun⟩

/-- Whether a page's bank starts OFFLINE at the reset line. -/
theorem resetLine_offline (q : PageNo) :
    (s.banks[q.val / Config.bankPages]?).any (·.startsOffline) = (s.bank (bankOf q)).startsOffline := by
  have : q.val / Config.bankPages < 4 := by have := q.isLt; show q.val / 512 < 4; omega
  simp [State.bank, bankOf, this]

@[simp] theorem resetLineTables_page (q : PageNo) :
    s.resetLineTables.page q = (s.page q).afterResetLine (s.bank (bankOf q)).startsOffline := by
  rw [← resetLine_offline]; simp [State.resetLineTables, State.page]

@[simp] theorem resetLineTables_bank (b : BankNo) : s.resetLineTables.bank b = (s.bank b).afterResetLine := by
  simp [State.resetLineTables, State.bank]

theorem resetLineTables_ownedBy (p : Port) : s.resetLineTables.ownedBy p = 0 := powerOnTables_ownedBy (s := s) p
theorem resetLineTables_map (p : Port) : s.resetLineTables.map p = .initial := powerOnTables_map (s := s) p
theorem resetLineTables_port (p : Port) : s.resetLineTables.port p = .initial (s.port p).breakInForce := powerOnTables_port (s := s) p

/-- The free list after the reset line: the FREE pages, ascending (R28). -/
theorem mem_resetLine_freeList (q : PageNo) : q ∈ s.resetLineTables.freeList ↔ (s.resetLineTables.page q).state = .free := by
  rw [State.resetLineTables, mem_indexesWhere]
  exact beq_iff_eq

theorem sorted_resetLine_freeList : s.resetLineTables.freeList.Pairwise (· < ·) := sorted_indexesWhere _ _

/-- A page record after the reset line. -/
theorem PageRec.afterResetLine_eq (r : PageRec) (offline : Bool) :
    r.afterResetLine offline =
      { state := if r.state = .retired then .retired else if offline then .withheld else .free,
        owner := none, grants := noGrants, mapCount := 0, pinCount := 0,
        poisoned := r.state == .retired && r.poisoned } := by
  unfold PageRec.afterResetLine
  by_cases retired : r.state = .retired
  · simp [retired, PageRec.free]
  · cases offline <;> simp [retired, PageRec.free]

/-- A bank record after the reset line. -/
theorem BankRec.afterResetLine_eq (b : BankRec) :
    b.afterResetLine =
      if 8 ≤ b.retired then
        { state := .offline, free := 0, allocated := 0, orphaned := 0, withheld := 512 - b.retired, retired := b.retired }
      else
        { state := .online, free := 512 - b.retired, allocated := 0, orphaned := 0, withheld := 0, retired := b.retired } := by
  simp only [BankRec.afterResetLine, BankRec.startsOffline, decide_eq_true_eq]

/-- The pages of a bank that are not RETIRED are the rest of its 512. -/
theorem card_unretired (b : BankNo) :
    (Finset.univ.filter fun q : PageNo => bankOf q = b ∧ (s.page q).state ≠ .retired).card = 512 - s.pagesIn b .retired := by
  have := card_filter_add (P := fun q : PageNo => bankOf q = b ∧ (s.page q).state = .retired)
    (Q := fun q => bankOf q = b ∧ (s.page q).state ≠ .retired) (R := fun q => bankOf q = b)
    (fun q => by by_cases h : (s.page q).state = .retired <;> simp [h]) (fun q h n => n.2 h.2)
  rw [card_bank] at this
  simp only [State.pagesIn]
  omega

theorem State.DirectoryAgrees.resetLine (h : s.DirectoryAgrees) : s.resetLineTables.DirectoryAgrees where
  freeOnce := nodup_indexesWhere _ _
  freeExactly := mem_resetLine_freeList
  counts b st := by
    have retired : (s.bank b).retired = s.pagesIn b .retired := h.counts b .retired
    have rest := card_unretired (s := s) b
    rw [resetLineTables_bank, BankRec.afterResetLine_eq]
    simp only [State.pagesIn, resetLineTables_page, PageRec.afterResetLine_eq, BankRec.startsOffline, decide_eq_true_eq]
    by_cases full : Config.retireLimit ≤ (s.bank b).retired
    · rw [if_pos full]
      cases st
      case withheld =>
        show 512 - (s.bank b).retired = _
        rw [retired, ← rest]
        refine card_filter_eq fun x => and_congr_right fun hx => ?_
        rw [hx, if_pos full]
        by_cases r : (s.page x).state = .retired <;> simp [r]
      case retired =>
        refine retired.trans (card_filter_eq fun x => and_congr_right fun hx => ?_)
        rw [hx, if_pos full]
        by_cases r : (s.page x).state = .retired <;> simp [r]
      all_goals
        refine (card_filter_zero.mpr fun x hx => ?_).symm
        rw [hx.1, if_pos full] at hx
        by_cases r : (s.page x).state = .retired <;> simp [r] at hx
    · rw [if_neg full]
      cases st
      case free =>
        show 512 - (s.bank b).retired = _
        rw [retired, ← rest]
        refine card_filter_eq fun x => and_congr_right fun hx => ?_
        rw [hx, if_neg full]
        by_cases r : (s.page x).state = .retired <;> simp [r]
      case retired =>
        refine retired.trans (card_filter_eq fun x => and_congr_right fun hx => ?_)
        rw [hx, if_neg full]
        by_cases r : (s.page x).state = .retired <;> simp [r]
      all_goals
        refine (card_filter_zero.mpr fun x hx => ?_).symm
        rw [hx.1, if_neg full] at hx
        by_cases r : (s.page x).state = .retired <;> simp [r] at hx
  ownedCounts p := by
    rw [resetLineTables_ownedBy]
    refine (card_filter_zero.mpr fun x hx => ?_).symm
    rw [resetLineTables_page, PageRec.afterResetLine_eq] at hx
    exact Option.some_ne_none _ hx.2.symm
  fits q := by
    rw [resetLineTables_page, resetLineTables_bank, PageRec.afterResetLine_eq, BankRec.afterResetLine_eq]
    simp only [BankRec.startsOffline, decide_eq_true_eq]
    by_cases full : Config.retireLimit ≤ (s.bank (bankOf q)).retired <;> by_cases r : (s.page q).state = .retired <;>
      simp only [full, r, if_true, if_false] <;>
      exact ⟨by simp, fun _ => rfl, by simp, by simp, by simp [PageRec.inUse]⟩

/-! ## Every move -/

theorem clearGrants_page (p : Port) (q : PageNo) : (s.clearGrants p).page q = (s.page q).clearGrant p := by
  simp [State.clearGrants, State.page]

theorem PageRec.clearGrant_eq (r : PageRec) (p : Port) :
    r.clearGrant p = { r with grants := (r.clearGrant p).grants } := by
  unfold PageRec.clearGrant; split <;> rfl

theorem PageRec.clearGrant_idle {r : PageRec} (p : Port) (h : ¬ r.inUse) : r.clearGrant p = r := by
  exact if_neg h

/-- A change of the device's own record. -/
theorem State.DirectoryAgrees.device (h : s.DirectoryAgrees) {phase : Phase} {good asserted : Bool} {start : ResetKind} :
    ({ s with phase := phase, supplyGood := good, resetAsserted := asserted, nextStart := start } : State).DirectoryAgrees :=
  h.of_tables rfl rfl rfl rfl

/-- A change of counts or of the mark of one page. -/
theorem State.DirectoryAgrees.counted (h : s.DirectoryAgrees) (q : PageNo) (m n : PageRec → Nat) (marked : PageRec → Bool) :
    (s.modPage q fun r => { r with mapCount := m r, pinCount := n r, poisoned := marked r }).DirectoryAgrees :=
  h.modPage q rfl rfl fun _ => rfl

/-- Every move keeps the directory's tables in agreement. -/
theorem State.DirectoryAgrees.move (m : Move s u) (h : s.DirectoryAgrees) : u.DirectoryAgrees := by
  cases m
  case enable p set f q a _ _ =>
    have written : (s.setEntry p set f (some { page := q, access := a })).DirectoryAgrees := h.of_tables rfl rfl rfl rfl
    exact written.counted q _ _ _
  case replace p set f e q a _ _ _ =>
    have written : (s.setEntry p set f (some { page := q, access := a })).DirectoryAgrees := h.of_tables rfl rfl rfl rfl
    exact (written.counted q (·.mapCount + 1) _ _).counted e.page (·.mapCount - 1) _ _
  case disable p set f e _ =>
    have written : (s.setEntry p set f none).DirectoryAgrees := h.of_tables rfl rfl rfl rfl
    exact written.counted e.page (·.mapCount - 1) _ _
  case pins q n => exact h.counted q (·.mapCount) (fun _ => n) (·.poisoned)
  case poison q => exact h.counted q (·.mapCount) (·.pinCount) (fun _ => true)
  case setGrant q target right allocated => exact h.modPage q rfl rfl fun n => absurd (.inl allocated) n
  case clearGrants p =>
    refine h.of_same (fun q => ?_) (fun q => ?_) (fun q n g => ?_) rfl rfl rfl <;> rw [clearGrants_page]
    · rw [PageRec.clearGrant_eq]
    · rw [PageRec.clearGrant_eq]
    · rw [PageRec.clearGrant_idle p n, g]
  case take enough => exact h.takePages enough
  case releaseOrphan q orphaned _ _ => exact h.placeReleased (.inr orphaned) rfl rfl rfl fun p => by simp [orphaned]; rfl
  case releaseOwned p q owned _ _ =>
    obtain ⟨allocated, owner⟩ := owns_iff.mp owned
    refine h.placeReleased (q := q) (.inl allocated) rfl rfl rfl fun x => ?_
    have pos : 0 < s.ownedBy p := by
      rw [h.ownedCounts p]; exact Finset.card_pos.mpr ⟨q, by simp [allocated, owner]⟩
    have same : ∀ x, (s.placeReleased q).ownedBy x = s.ownedBy x := fun _ => rfl
    rw [State.ownedBy_modOwned, same, same]
    by_cases e : x = p
    · subst e; simp [allocated, owner]; omega
    · simp [allocated, owner, e, Ne.symm e]
  case orphan owned => exact h.orphan owned
  case drain b _ => exact h.drain b
  case offline draining noAllocated noOrphaned => exact h.offline draining noAllocated noOrphaned
  case restore => exact h.restore _
  case clear =>
    have fresh : s.powerOnTables.DirectoryAgrees :=
      directoryAgrees_of_fresh powerOnTables_page powerOnTables_bank powerOnTables_freeList powerOnTables_ownedBy
    exact fresh.device
  case resetLine => exact h.resetLine
  all_goals exact h.of_tables rfl rfl rfl rfl

end Sys2Proof.Machine

/-! # The map counts through every move (R6, R12) -/
namespace Sys2Proof.Machine

variable {s u : State}

/-! ## The entries of the map sets -/

theorem PortMaps.entry_setEntry (m : PortMaps) (set set' : MapSet) (f f' : FrameNo) (e : FrameEntry) :
    (m.setEntry set f e).entry set' f' = if set' = set ∧ f' = f then e else m.entry set' f' := by
  have same : f.val = f'.val ↔ f' = f := by rw [eq_comm, Fin.ext_iff]
  cases set <;> cases set' <;> simp [PortMaps.setEntry, PortMaps.entry, Vector.getElem_set, same]

theorem setEntry_resolve (p y : Port) (set set' : MapSet) (f f' : FrameNo) (e : FrameEntry) :
    (s.setEntry p set f e).resolve y set' f' = if y = p ∧ set' = set ∧ f' = f then e else s.resolve y set' f' := by
  simp only [State.resolve, State.setEntry, State.map_modMap]
  by_cases hy : y = p
  · subst hy; simp only [if_true, true_and, PortMaps.entry_setEntry]
  · simp [hy]

@[simp] theorem setEntry_page (p : Port) (set : MapSet) (f : FrameNo) (e : FrameEntry) (q : PageNo) :
    (s.setEntry p set f e).page q = s.page q := rfl

theorem names_iff {q : PageNo} {e : FrameEntry} : names q e = true ↔ e.map (·.page) = some q := by
  cases e <;> simp [names]

theorem entriesNaming_eq (q : PageNo) :
    s.entriesNaming q = (Finset.univ.filter fun x : Port × FrameNo => names q (s.resolve x.1 .a x.2)).card +
      (Finset.univ.filter fun x : Port × FrameNo => names q (s.resolve x.1 .b x.2)).card := rfl

/-- The entries naming a page when no entry changes its page. -/
theorem entriesNaming_congr (same : ∀ y set f, (u.resolve y set f).map (·.page) = (s.resolve y set f).map (·.page)) (q : PageNo) :
    u.entriesNaming q = s.entriesNaming q := by
  rw [entriesNaming_eq, entriesNaming_eq]
  congr 1 <;> refine card_filter_eq fun x => ?_ <;> rw [names_iff, names_iff, same]

theorem entriesNaming_of_maps (maps : u.maps = s.maps) (q : PageNo) : u.entriesNaming q = s.entriesNaming q :=
  entriesNaming_congr (fun y set f => by simp only [State.resolve, State.map, maps]) q

/-- The entries naming a page when one entry is written. -/
theorem setEntry_entriesNaming (p : Port) (set : MapSet) (f : FrameNo) (e : FrameEntry) (q : PageNo) :
    (s.setEntry p set f e).entriesNaming q + (if names q (s.resolve p set f) then 1 else 0) =
      s.entriesNaming q + if names q e then 1 else 0 := by
  have changed : ∀ set', set' = set →
      (Finset.univ.filter fun x : Port × FrameNo => names q ((s.setEntry p set f e).resolve x.1 set' x.2)).card +
        (if names q (s.resolve p set f) then 1 else 0) =
      (Finset.univ.filter fun x : Port × FrameNo => names q (s.resolve x.1 set' x.2)).card + if names q e then 1 else 0 := by
    intro set' same
    subst same
    have := card_change (P := fun x : Port × FrameNo => names q (s.resolve x.1 set' x.2) = true)
      (P' := fun x => names q ((s.setEntry p set' f e).resolve x.1 set' x.2) = true) (p, f) fun x hx => by
        rw [setEntry_resolve, if_neg fun h => hx (Prod.ext h.1 h.2.2)]
    simpa [setEntry_resolve] using this
  have kept : ∀ set', set' ≠ set →
      (Finset.univ.filter fun x : Port × FrameNo => names q ((s.setEntry p set f e).resolve x.1 set' x.2)).card =
      (Finset.univ.filter fun x : Port × FrameNo => names q (s.resolve x.1 set' x.2)).card := fun set' h =>
    card_filter_eq fun x => by rw [setEntry_resolve, if_neg fun n => h n.2.1]
  rw [entriesNaming_eq, entriesNaming_eq]
  cases set with
  | a => have := changed .a rfl; have := kept .b nofun; omega
  | b => have := changed .b rfl; have := kept .a nofun; omega

theorem entriesNaming_of_empty (empty : ∀ y set f, u.resolve y set f = none) (q : PageNo) : u.entriesNaming q = 0 := by
  rw [entriesNaming_eq]
  simp only [empty, names]
  rfl

/-- A disabled map set has no entry. -/
theorem resolve_of_initial (maps : ∀ p, u.map p = .initial) (y : Port) (set : MapSet) (f : FrameNo) : u.resolve y set f = none := by
  rw [State.resolve, maps]
  cases set <;> simp [PortMaps.initial, PortMaps.entry]

/-! ## Every move -/

/-- A change that keeps each map count and each entry's page, and takes no page out of use. -/
theorem State.MapCountsExact.of_same (h : s.MapCountsExact) (count : ∀ q, (u.page q).mapCount = (s.page q).mapCount)
    (used : ∀ q, (s.page q).inUse → (s.page q).mapCount ≠ 0 → (u.page q).inUse)
    (entries : ∀ y set f, (u.resolve y set f).map (·.page) = (s.resolve y set f).map (·.page)) : u.MapCountsExact := by
  intro q
  rw [count, entriesNaming_congr entries]
  refine ⟨(h q).1, fun n => ?_⟩
  by_contra pos
  by_cases use : (s.page q).inUse
  · exact n (used q use pos)
  · exact pos ((h q).2 use)

theorem State.MapCountsExact.of_pages (h : s.MapCountsExact) (pages : u.pages = s.pages) (maps : u.maps = s.maps) :
    u.MapCountsExact := by
  have page : u.page = s.page := by funext q; simp only [State.page, pages]
  exact h.of_same (fun q => by rw [page]) (fun q use _ => by rw [page]; exact use) fun y set f => by
    simp only [State.resolve, State.map, maps]

/-- A change of one page record that keeps its map count and leaves it in use while it is mapped. -/
theorem State.MapCountsExact.modPage (h : s.MapCountsExact) (q : PageNo) {f : PageRec → PageRec}
    (count : (f (s.page q)).mapCount = (s.page q).mapCount)
    (used : (s.page q).inUse → (s.page q).mapCount ≠ 0 → (f (s.page q)).inUse) : (s.modPage q f).MapCountsExact := by
  refine h.of_same (fun x => ?_) (fun x use pos => ?_) fun _ _ _ => rfl <;> rw [State.page_modPage] <;> split
  · next e => rw [e, count]
  · rfl
  · next e => subst e; exact used use pos
  · exact use

/-- A page changes its state: its map count stands, and it stays in use while it is mapped. -/
theorem State.MapCountsExact.changePage (h : s.MapCountsExact) (q : PageNo) {new : PageState} {f : PageRec → PageRec}
    (page : u.page = (s.changePage q new f).page) (maps : u.maps = s.maps)
    (count : (f (s.page q)).mapCount = (s.page q).mapCount)
    (used : (s.page q).mapCount ≠ 0 → new = .allocated ∨ new = .orphaned) : u.MapCountsExact := by
  refine h.of_same (fun x => ?_) (fun x use pos => ?_) (fun y set f => by simp only [State.resolve, State.map, maps]) <;>
    rw [page, changePage_page] <;> split
  · next e => rw [e]; exact count
  · rfl
  · next e => subst e; exact used pos
  · exact use

/-- An entry is written: the page it named loses a use, the page it names gains one. -/
theorem State.MapCountsExact.write (h : s.MapCountsExact) {p : Port} {set : MapSet} {f : FrameNo} {e : FrameEntry}
    (page : ∀ q, u.page q =
      { s.page q with
        mapCount := ((s.page q).mapCount + if names q e then 1 else 0) - (if names q (s.resolve p set f) then 1 else 0) })
    (maps : u.maps = (s.setEntry p set f e).maps) (used : ∀ q, names q e = true → (s.page q).inUse) : u.MapCountsExact := by
  intro q
  have moved := setEntry_entriesNaming (s := s) p set f e q
  rw [← entriesNaming_of_maps maps] at moved
  rw [page]
  refine ⟨?_, fun n => ?_⟩
  · have := (h q).1
    dsimp only
    omega
  · have idle : ¬ (s.page q).inUse := n
    have new : ¬ (names q e = true) := fun hq => idle (used q hq)
    have := (h q).2 idle
    simp [new, this]

/-- The records after a claim that raises one page's map count and lowers another's. -/
theorem page_mapped (q q' x : PageNo) :
    ((s.mapUp q).modPage q' fun r => { r with mapCount := r.mapCount - 1 }).page x =
      { s.page x with mapCount := ((s.page x).mapCount + if x = q then 1 else 0) - if x = q' then 1 else 0 } := by
  simp only [State.mapUp, State.page_modPage]
  by_cases h : x = q <;> by_cases h' : x = q' <;> (try subst h) <;> (try subst h') <;> simp_all

theorem page_mapUp (q x : PageNo) :
    (s.mapUp q).page x = { s.page x with mapCount := (s.page x).mapCount + if x = q then 1 else 0 } := by
  simp only [State.mapUp, State.page_modPage]
  by_cases h : x = q
  · subst h; simp
  · simp [h]

theorem page_mapLess (q x : PageNo) :
    (s.modPage q fun r => { r with mapCount := r.mapCount - 1 }).page x =
      { s.page x with mapCount := (s.page x).mapCount - if x = q then 1 else 0 } := by
  simp only [State.page_modPage]
  by_cases h : x = q
  · subst h; simp
  · simp [h]

theorem names_some (q : PageNo) (e : Entry) : names q (some e) = true ↔ q = e.page := by
  rw [names_iff]; exact Option.some_inj.trans eq_comm

theorem State.MapCountsExact.takeHead (h : s.MapCountsExact) (agrees : s.DirectoryAgrees) (p : Port) :
    (s.takeHead p).MapCountsExact := by
  cases e : s.freeList with
  | nil => rw [State.takeHead, e]; exact h
  | cons q rest =>
    rw [takeHead_cons e]
    have free : (s.page q).state = .free := (agrees.freeExactly q).mp (by simp [e])
    have zero : (s.page q).mapCount = 0 := (h q).2 (by rintro (n | n) <;> rw [free] at n <;> cases n)
    exact h.changePage q (f := fun r =>
      { r with owner := some p, grants := noGrants, mapCount := 0, pinCount := 0, poisoned := false }) rfl rfl zero.symm
      fun _ => .inl rfl

theorem State.MapCountsExact.takePages (h : s.MapCountsExact) (agrees : s.DirectoryAgrees) {p : Port} {n : Nat}
    (enough : n ≤ s.freeList.length) : (s.takePages p n).MapCountsExact := by
  induction n generalizing s with
  | zero => exact h.of_pages rfl rfl
  | succ n ih =>
    rw [takePages_succ enough]
    refine ih (h.takeHead agrees p) agrees.takeHead ?_
    obtain ⟨q, rest, e⟩ := List.exists_cons_of_length_pos (l := s.freeList) (by omega)
    rw [takeHead_cons e]
    show n ≤ rest.length
    simpa [e] using enough

/-- The pages of a bank change between FREE and WITHHELD. -/
theorem State.MapCountsExact.moveAll (h : s.MapCountsExact) {b : BankNo} {a c : PageState}
    (idle : a ≠ .allocated ∧ a ≠ .orphaned)
    (page : ∀ x, u.page x = if bankOf x = b ∧ (s.page x).state = a then { s.page x with state := c } else s.page x)
    (maps : u.maps = s.maps) : u.MapCountsExact := by
  refine h.of_same (fun x => ?_) (fun x use pos => ?_) (fun y set f => by simp only [State.resolve, State.map, maps]) <;>
    rw [page] <;> split
  · rfl
  · rfl
  · next hx => rcases use with e | e <;> rw [hx.2] at e
               · exact absurd e idle.1
               · exact absurd e idle.2
  · exact use

theorem openSession_map (p y : Port) :
    (s.openSession p).map y =
      { s.map y with
        present := if y = p then .a else (s.map y).present, pendingSet := if y = p then none else (s.map y).pendingSet,
        inFlight := if y = p then 0 else (s.map y).inFlight } := by
  have same : (s.openSession p).map y =
    (s.modMap p fun m => { m with present := .a, pendingSet := none, inFlight := 0 }).map y := rfl
  rw [same, State.map_modMap]
  split
  · next e => subst e; rfl
  · rfl

theorem beginClosing_map (p : Port) (reason : CloseReason) (y : Port) :
    (s.beginClosing p reason).map y =
      { s.map y with
        present := if y = p then .a else (s.map y).present, pendingSet := if y = p then none else (s.map y).pendingSet,
        inFlight := (s.map y).inFlight } := by
  have same : (s.beginClosing p reason).map y = (s.modMap p fun m => { m with present := .a, pendingSet := none }).map y := rfl
  rw [same, State.map_modMap]
  split
  · next e => subst e; rfl
  · rfl

/-- A change of the ports' selections and in-flight counts. -/
theorem State.MapCountsExact.of_selection (h : s.MapCountsExact) {present : Port → MapSet} {pendingSet : Port → Option MapSet}
    {inFlight : Port → Nat}
    (map : ∀ y, u.map y =
      { s.map y with present := present y, pendingSet := pendingSet y, inFlight := inFlight y })
    (pages : u.pages = s.pages := by rfl) : u.MapCountsExact := by
  have page : u.page = s.page := by funext q; simp only [State.page, pages]
  refine h.of_same (fun q => by rw [page]) (fun q use _ => by rw [page]; exact use) fun y set f => ?_
  rw [State.resolve, map]
  cases set <;> rfl

/-- Every move keeps the map counts exact. -/
theorem State.MapCountsExact.move (m : Move s u) (agrees : s.DirectoryAgrees) (h : s.MapCountsExact) : u.MapCountsExact := by
  cases m
  case enable p set f q a disabled used =>
    refine h.write (p := p) (set := set) (f := f) (e := some { page := q, access := a }) (fun x => ?_) rfl fun x hx => ?_
    · rw [page_mapUp, disabled]; simp only [names_some]; simp [names]
    · rw [names_some] at hx; rw [hx]; exact used
  case replace p set f e q a enabled other used =>
    refine h.write (p := p) (set := set) (f := f) (e := some { page := q, access := a }) (fun x => ?_) rfl fun x hx => ?_
    · rw [page_mapped, enabled]; simp only [names_some]
      rfl
    · rw [names_some] at hx; rw [hx]; exact used
  case disable p set f e enabled =>
    refine h.write (p := p) (set := set) (f := f) (e := none) (fun x => ?_) rfl fun x hx => by cases hx
    rw [page_mapLess, enabled]; simp only [names_some]; simp [names]
  case entryAccess p set f e samePage =>
    refine h.of_same (fun _ => rfl) (fun _ use _ => use) fun y set' f' => ?_
    rw [setEntry_resolve]
    split
    · next same => obtain ⟨rfl, rfl, rfl⟩ := same; exact samePage
    · rfl
  case selection p f setA setB =>
    refine h.of_same (fun _ => rfl) (fun _ use _ => use) fun y set' f' => ?_
    simp only [State.resolve, State.map_modMap]
    split
    · next e => subst e; cases set' <;> simp only [PortMaps.entry, setA, setB]
    · rfl
  case openSession p _ => exact h.of_selection (openSession_map p)
  case beginClosing p reason _ => exact h.of_selection (beginClosing_map p reason)
  case pins q n => exact h.modPage q rfl fun use _ => use
  case poison q => exact h.modPage q rfl fun use _ => use
  case setGrant q target right _ => exact h.modPage q rfl fun use _ => use
  case clearGrants p =>
    refine h.of_same (fun q => ?_) (fun q use _ => ?_) fun _ _ _ => rfl <;> rw [clearGrants_page, PageRec.clearGrant_eq]
    exact use
  case take enough => exact h.takePages agrees enough
  case releaseOrphan q _ unmapped _ =>
    exact h.changePage q (f := fun r => { r with owner := none, grants := noGrants }) rfl rfl rfl fun pos => absurd unmapped pos
  case releaseOwned p q _ unmapped _ =>
    exact h.changePage q (f := fun r => { r with owner := none, grants := noGrants }) rfl rfl rfl fun pos => absurd unmapped pos
  case orphan p q _ => exact h.changePage q (f := fun r => { r with owner := none }) rfl rfl rfl fun _ => .inr rfl
  case drain b _ => exact h.moveAll (a := .free) (c := .withheld) ⟨nofun, nofun⟩ (fun x => withhold_page b x) rfl
  case restore b _ => exact h.moveAll (a := .withheld) (c := .free) ⟨nofun, nofun⟩ (fun x => restored_page b x) rfl
  case clear good asserted start =>
    intro q
    have page : (s.powerOnTables.page q) = .free := powerOnTables_page q
    have none : s.powerOnTables.entriesNaming q = 0 := entriesNaming_of_empty (resolve_of_initial powerOnTables_map) q
    refine ⟨?_, fun _ => ?_⟩
    · show (s.powerOnTables.page q).mapCount = s.powerOnTables.entriesNaming q
      rw [page, none]; rfl
    · show (s.powerOnTables.page q).mapCount = 0
      rw [page]; rfl
  case resetLine =>
    intro q
    have zero : (s.resetLineTables.page q).mapCount = 0 := by rw [resetLineTables_page, PageRec.afterResetLine_eq]
    exact ⟨zero.trans (entriesNaming_of_empty (resolve_of_initial resetLineTables_map) q).symm, fun _ => zero⟩
  all_goals exact h.of_pages rfl rfl

/-- The Page Directory's tables in agreement, and the map counts exact: what every move keeps of both. -/
structure State.TablesAgree (s : State) : Prop where
  directory : s.DirectoryAgrees
  mapCounts : s.MapCountsExact

theorem State.TablesAgree.moves (m : Moves s u) (h : s.TablesAgree) : u.TablesAgree :=
  Moves.keeps (fun _ _ m h => ⟨h.directory.move m, h.mapCounts.move m h.directory⟩) m h

/-- Settles O52. -/
theorem stepsKeepMapCountsExact : Obligations.StepsKeepMapCountsExact := by
  intro s u sound exact' step
  have agrees := (directorySound_iff.mp sound).1
  exact (step_keeps (P := State.TablesAgree) (fun _ _ m h => ⟨h.directory.move m, h.mapCounts.move m h.directory⟩)
    (fun s l h => ⟨h.directory.of_tables rfl rfl rfl rfl, h.mapCounts⟩) step ⟨agrees, exact'⟩).mapCounts

end Sys2Proof.Machine

/-! # Turns: moves that keep the books of the quotas, the marks and the pins (R5, R7, R8, R12, R131 to R133)

A move of Laws/Moves.lean says too little of a quota, a mark or a pin: it lets a pin count take any value. A turn is a piece
of a step that does; beside the state it keeps the pages whose pins are owed: a job that has left the queue still owes an unpin
claim for each place of its lists. -/
namespace Sys2Proof.Machine

variable {s u v : State}

/-! ## The lock table (R11, R73) -/

theorem lockOf_eq_none {q : PageNo} : s.lockOf q = none ↔ ∀ l ∈ s.locks, l.page ≠ q := by simp [State.lockOf]

theorem lockOf_none_of_subset {q : PageNo} (pages : ∀ l ∈ u.locks, ∃ l' ∈ s.locks, l'.page = l.page) (h : s.lockOf q = none) :
    u.lockOf q = none := by
  rw [lockOf_eq_none] at *
  intro l hl
  obtain ⟨l', hl', e⟩ := pages l hl
  rw [← e]
  exact h l' hl'

/-- A change of an entry that leaves its page alone makes no entry. -/
theorem modLock_pages {q : PageNo} {f : LockEntry → LockEntry} (page : ∀ l, (f l).page = l.page) :
    ∀ l ∈ (s.modLock q f).locks, ∃ l' ∈ s.locks, l'.page = l.page := by
  intro l hl
  obtain ⟨l', hl', rfl⟩ := List.mem_map.mp (List.mem_of_mem_filter hl)
  refine ⟨l', hl', ?_⟩
  split
  · exact (page l').symm
  · rfl

/-- The dissolution of a page's entry removes it and no other. -/
theorem dissolve_locks (q : PageNo) : (s.dissolve q).locks = s.locks.filter (·.page ≠ q) := by
  unfold State.dissolve
  split
  · next h =>
    rw [lockOf_eq_none] at h
    exact (List.filter_eq_self.mpr fun l hl => by simpa using h l hl).symm
  · next l _ =>
    have told : (l.holders.foldl (fun s h => State.offer s h.port (.leaseLost q)) s).locks = s.locks :=
      foldl_keeps (f := fun (s : State) (h : Holder) => s.offer h.port (.leaseLost q)) (fun _ _ => rfl) _ _
    have answered : ∀ v : State, (l.waiters.foldl State.dissolveWaiter v).locks = v.locks := fun v =>
      foldl_keeps (g := State.locks) (fun s w => by unfold State.dissolveWaiter; split <;> rfl) _ _
    show (l.waiters.foldl State.dissolveWaiter _).locks.filter _ = _
    rw [answered, told]

theorem dissolve_lockOf (q x : PageNo) : (s.dissolve q).lockOf x = if x = q then none else s.lockOf x := by
  split
  · next h =>
    rw [h, lockOf_eq_none, dissolve_locks]
    intro l hl
    simpa using (List.mem_filter.mp hl).2
  · next h =>
    rw [State.lockOf, dissolve_locks, List.find?_filter, State.lockOf]
    congr 1
    funext l
    by_cases e : l.page = x <;> simp [e, h]

/-! ## The release of a page (R10) -/

theorem releasePage_page (q x : PageNo) :
    (s.releasePage q).page x =
      if x = q then { s.page q with state := s.releasedTo q, owner := none, grants := noGrants } else s.page x := by
  rw [State.releasePage, placeReleased_page, State.releasedTo, dissolve_page, dissolve_bank, State.releasedTo]

/-- A reading that the release does not touch: neither the ports, the lock table, the banks, the free list nor the pages. -/
theorem releasePage_keeps {β : Type} (g : State → β) (ports : ∀ s p f, g (State.modPort s p f) = g s)
    (locks : ∀ (s : State) l, g { s with locks := l } = g s) (place : ∀ s q, g (State.placeReleased s q) = g s) (q : PageNo) :
    g (s.releasePage q) = g s := by
  rw [State.releasePage, place, dissolve_keeps g ports locks]

/-- The release check releases the page it is made for, or nothing. -/
theorem orphanCheck_keeps {β : Type} (g : State → β) (ports : ∀ s p f, g (State.modPort s p f) = g s)
    (locks : ∀ (s : State) l, g { s with locks := l } = g s) (place : ∀ s q, g (State.placeReleased s q) = g s) (q : PageNo) :
    g (s.orphanCheck q) = g s := by
  unfold State.orphanCheck
  split
  · exact releasePage_keeps g ports locks place q
  · rfl

/-- What an ORPHANED page without a use is released by (R8). -/
def State.LastUseGone (s : State) (q : PageNo) : Prop :=
  (s.page q).state = .orphaned ∧ (s.page q).mapCount = 0 ∧ (s.page q).pinCount = 0

theorem orphanCheck_of_gone {q : PageNo} (h : s.LastUseGone q) : s.orphanCheck q = s.releasePage q := if_pos h
theorem orphanCheck_of_left {q : PageNo} (h : ¬ s.LastUseGone q) : s.orphanCheck q = s := if_neg h

/-! ## What changes nothing in the books -/

/-- Nothing of the books changes: no page record, owned count, quota, in-flight record or place of a job, and no lock entry is
made. -/
structure Quiet (s u : State) : Prop where
  pages : u.pages = s.pages
  owned : u.owned = s.owned
  config : u.config = s.config
  accesses : u.accesses = s.accesses
  jobs : u.jobs.map (fun j => (j.id, j.pages)) = s.jobs.map (fun j => (j.id, j.pages))
  locks : ∀ l ∈ u.locks, ∃ l' ∈ s.locks, l'.page = l.page

theorem Quiet.of_eq (pages : u.pages = s.pages) (owned : u.owned = s.owned) (config : u.config = s.config)
    (accesses : u.accesses = s.accesses) (jobs : u.jobs = s.jobs) (locks : u.locks = s.locks) : Quiet s u :=
  ⟨pages, owned, config, accesses, by rw [jobs], fun l hl => ⟨l, locks ▸ hl, rfl⟩⟩

theorem Quiet.refl : Quiet s s := .of_eq rfl rfl rfl rfl rfl rfl

theorem Quiet.trans (h : Quiet s u) (h' : Quiet u v) : Quiet s v where
  pages := h'.pages.trans h.pages
  owned := h'.owned.trans h.owned
  config := h'.config.trans h.config
  accesses := h'.accesses.trans h.accesses
  jobs := h'.jobs.trans h.jobs
  locks l hl := by
    obtain ⟨l', hl', e⟩ := h'.locks l hl
    obtain ⟨l'', hl'', e'⟩ := h.locks l' hl'
    exact ⟨l'', hl'', e'.trans e⟩

theorem Quiet.foldl {α : Type} {f : State → α → State} (h : ∀ s x, Quiet s (f s x)) (l : List α) (s : State) :
    Quiet s (l.foldl f s) := by
  induction l generalizing s with
  | nil => exact .refl
  | cons x l ih => exact (h s x).trans (ih _)

theorem Quiet.modLock (q : PageNo) {f : LockEntry → LockEntry} (page : ∀ l, (f l).page = l.page) : Quiet s (s.modLock q f) :=
  ⟨rfl, rfl, rfl, rfl, rfl, modLock_pages page⟩

theorem Quiet.modJob (id : Byte) {f : Job → Job} (same : ∀ j, (f j).id = j.id ∧ (f j).pages = j.pages) :
    Quiet s (s.modJob id f) := by
  refine ⟨rfl, rfl, rfl, rfl, ?_, fun l hl => ⟨l, hl, rfl⟩⟩
  rw [State.modJob, List.map_map]
  refine List.map_congr_left fun j _ => ?_
  simp only [Function.comp]
  split
  · rw [(same j).1, (same j).2]
  · rfl

theorem jobs_flatMap (l : List Job) : l.flatMap Job.pages = (l.map fun j => (j.id, j.pages)).flatMap (·.2) := by
  induction l with
  | nil => rfl
  | cons j l ih => rw [List.flatMap_cons, ih]; rfl

theorem jobs_ids (l : List Job) : l.map (·.id) = (l.map fun j => (j.id, j.pages)).map (·.1) := by
  rw [List.map_map]; rfl

theorem Quiet.page (h : Quiet s u) : u.page = s.page := by funext q; simp only [State.page, h.pages]
theorem Quiet.ownedBy (h : Quiet s u) : u.ownedBy = s.ownedBy := by funext p; simp only [State.ownedBy, h.owned]
theorem Quiet.usesOf (h : Quiet s u) (q : PageNo) : u.usesOf q = s.usesOf q := by
  rw [State.usesOf, State.usesOf, h.accesses, jobs_flatMap, h.jobs, ← jobs_flatMap]

/-! ## Turns -/

/-- A page is named by an enabled entry. -/
def State.Named (s : State) (q : PageNo) : Prop := ∃ y set f e, s.resolve y set f = some e ∧ e.page = q

/-- The books: the state, and the pages whose pins are owed. -/
abbrev Books := State × List PageNo

/-- A piece of a step, with what it owes. -/
inductive Turn : Books → Books → Prop
  | quiet {s u : State} {o : List PageNo} (moves : Moves s u) (quiet : Quiet s u) : Turn (s, o) (u, o)
  /- quotas -/
  | config {s : State} {o : List PageNo} (c : ConfigRec) (room : ∀ p : Port, s.ownedBy p ≤ s.config.quota[p] → s.ownedBy p ≤ c.quota[p]) :
      Turn (s, o) ({ s with config := c }, o)
  | take {s : State} {o : List PageNo} (p : Port) (n : Nat) (enough : n ≤ s.freeList.length)
      (quota : s.ownedBy p + n ≤ s.config.quota[p]) : Turn (s, o) (s.takePages p n, o)
  /- banks and grants -/
  | drain {s : State} {o : List PageNo} (b : BankNo) (online : (s.bank b).state = .online) :
      Turn (s, o) ((s.withholdBank b).modBank b fun r => { r with state := .draining }, o)
  | restore {s : State} {o : List PageNo} (b : BankNo) (drained : (s.bank b).state ≠ .online) :
      Turn (s, o) ((s.returnBank b).modBank b fun r => { r with state := .online }, o)
  | setGrant {s : State} {o : List PageNo} (q : PageNo) (target : Port) (right : Right)
      (allocated : (s.page q).state = .allocated) : Turn (s, o) (s.setGrant q target right, o)
  | clearGrants {s : State} {o : List PageNo} (p : Port) : Turn (s, o) (s.clearGrants p, o)
  /- claims and releases -/
  | enable {s : State} {o : List PageNo} (p : Port) (set : MapSet) (f : FrameNo) (q : PageNo) (a : Access)
      (disabled : s.resolve p set f = none) (used : (s.page q).inUse) :
      Turn (s, o) ((s.setEntry p set f (some { page := q, access := a })).mapUp q, o)
  | replace {s : State} {o : List PageNo} (p : Port) (set : MapSet) (f : FrameNo) (e : Entry) (q : PageNo) (a : Access)
      (enabled : s.resolve p set f = some e) (other : e.page ≠ q) (used : (s.page q).inUse) :
      Turn (s, o) (((s.setEntry p set f (some { page := q, access := a })).mapUp q).mapDown e.page, o)
  | disable {s : State} {o : List PageNo} (p : Port) (set : MapSet) (f : FrameNo) (e : Entry)
      (enabled : s.resolve p set f = some e) : Turn (s, o) ((s.setEntry p set f none).mapDown e.page, o)
  | releaseOwned {s : State} {o : List PageNo} (p : Port) (q : PageNo) (owned : s.owns p q = true)
      (unmapped : (s.page q).mapCount = 0) (unpinned : (s.page q).pinCount = 0) : Turn (s, o) (s.releaseOwned p q, o)
  | orphan {s : State} {o : List PageNo} (p : Port) (q : PageNo) (owned : s.owns p q = true)
      (left : (s.page q).mapCount ≠ 0 ∨ (s.page q).pinCount ≠ 0) :
      Turn (s, o) ((s.changePage q .orphaned fun r => { r with owner := none }).modOwned p (· - 1), o)
  | unpin {s : State} {o : List PageNo} (q : PageNo) : Turn (s, q :: o) (s.pinDown q, o)
  /- locks, accesses and jobs -/
  | newLock {s : State} {o : List PageNo} (q : PageNo) (h : Holder) (named : s.Named q) (noEntry : s.lockOf q = none)
      (room : s.locks.length < Config.lockPlaces) :
      Turn (s, o) ({ s with locks := s.locks ++ [{ page := q, holders := [h], waiters := [] }] }, o)
  | place {s : State} {o : List PageNo} (p : Port) (t : Tag) (q : PageNo) (offset : Nat) (kind : StoreKind)
      (named : s.Named q) : Turn (s, o) (s.placeAccess p t q offset kind, o)
  | dropAccess {s : State} {o : List PageNo} (p : Port) (t : Tag) (q : PageNo)
      (one : ∀ x, ((s.dropAccess p t).accesses.filter (·.page == x)).length + (if x = q then 1 else 0) =
        (s.accesses.filter (·.page == x)).length) : Turn (s, o) (s.dropAccess p t, q :: o)
  | acceptJob {s : State} {o : List PageNo} (j : Job) (counter : Byte) (room : s.jobs.length < Config.jobPlaces)
      (roomOfPort : (s.jobs.filter (·.port == j.port)).length < Config.jobsPerPort) (fresh : s.idInUse j.id = false)
      (queued : j.state = .queued) (named : ∀ q ∈ j.pages, s.Named q) :
      Turn (s, o) (j.pages.foldl State.pinUp { s with jobs := s.jobs ++ [j], nextJobId := counter }, o)
  | removeJob {s : State} {o : List PageNo} (j : Job) (queued : j ∈ s.jobs) : Turn (s, o) (s.removeJob j.id, j.pages ++ o)
  /- start-up -/
  | clear {s : State} {o : List PageNo} (good asserted : Bool) (start : ResetKind) :
      Turn (s, o)
        ({ s.powerOnTables with phase := .clearing, supplyGood := good, resetAsserted := asserted, nextStart := start }, [])
  | resetLine {s : State} {o : List PageNo} : Turn (s, o) (s.resetLineTables, [])

/-- A sequence of turns. -/
abbrev Turns : Books → Books → Prop := Relation.ReflTransGen Turn

theorem Turns.one {x y : Books} (h : Turn x y) : Turns x y := .single h

/-- A property of the books that every turn keeps is kept by every sequence of turns. -/
theorem Turns.keeps {P : Books → Prop} (keep : ∀ x y, Turn x y → P x → P y) {x y : Books} (h : Turns x y) (hx : P x) : P y := by
  induction h with
  | refl => exact hx
  | tail _ m ih => exact keep _ _ m ih

/-- Turns are moves. -/
theorem Turn.moves {x y : Books} (h : Turn x y) : Moves x.1 y.1 := by
  cases h
  case quiet m _ => exact m
  case config c _ => exact .single (.config c)
  case take enough _ => exact .single (.take _ _ enough)
  case drain online => exact .single (.drain _ online)
  case restore drained => exact .single (.restore _ drained)
  case setGrant allocated => exact .single (.setGrant _ _ _ allocated)
  case clearGrants => exact .single (.clearGrants _)
  case enable disabled used => exact .single (.enable _ _ _ _ _ disabled used)
  case replace enabled other used => exact mapDown_moves (.single (.replace _ _ _ _ _ _ enabled other used))
  case disable enabled => exact disableClaim_moves enabled
  case releaseOwned owned unmapped unpinned => exact releaseOwned_moves owned unmapped unpinned
  case orphan owned _ => exact .single (.orphan _ _ owned)
  case unpin => exact pinDown_moves _
  case newLock noEntry room => exact .single (.newLock _ _ noEntry room)
  case place => exact placeAccess_moves _ _ _ _ _
  case dropAccess => exact .single (.accesses _)
  case acceptJob room roomOfPort fresh queued _ =>
    exact (Moves.one (.addJob _ _ room roomOfPort fresh queued)).trans (Moves.foldl (fun _ q => pinUp_moves q) _ _)
  case removeJob => exact .single (.removeJob _)
  case clear => exact .single (.clear _ _ _)
  case resetLine => exact .single .resetLine

/-! ## The quotas through every turn (R5) -/

theorem orphanCheck_owned (q : PageNo) : (s.orphanCheck q).owned = s.owned :=
  orphanCheck_keeps State.owned (fun _ _ _ => rfl) (fun _ _ => rfl) (fun _ _ => rfl) q

theorem orphanCheck_config (q : PageNo) : (s.orphanCheck q).config = s.config :=
  orphanCheck_keeps State.config (fun _ _ _ => rfl) (fun _ _ => rfl) (fun _ _ => rfl) q

theorem State.WithinQuotas.of_same (h : s.WithinQuotas) (owned : u.owned = s.owned) (config : u.config = s.config) :
    u.WithinQuotas := by
  intro p
  rw [State.ownedBy, owned, config]
  exact h p

theorem takePages_ownedBy (p : Port) (n : Nat) (x : Port) :
    (s.takePages p n).ownedBy x = if x = p then s.ownedBy x + n else s.ownedBy x := by
  have taken : (s.takePages p n).ownedBy = ({ s with freeList := s.freeList.drop n }.modOwned p (· + n) : State).ownedBy :=
    foldl_keeps (g := State.ownedBy) (f := fun s q => State.allocPage s p q) (fun _ _ => rfl) _ _
  rw [taken, State.ownedBy_modOwned]
  split
  · next e => rw [e]; rfl
  · rfl

theorem takePages_config (p : Port) (n : Nat) : (s.takePages p n).config = s.config :=
  foldl_keeps (g := State.config) (f := fun s q => State.allocPage s p q) (fun _ _ => rfl) _ _

/-- A fall of one port's owned count. -/
theorem State.WithinQuotas.fall (h : s.WithinQuotas) {p : Port} (owned : u.ownedBy = (s.modOwned p (· - 1)).ownedBy)
    (config : u.config = s.config) : u.WithinQuotas := by
  intro x
  rw [owned, State.ownedBy_modOwned, config]
  have := h x
  split
  · next e => subst e; omega
  · exact this

theorem releaseOwned_ownedBy (p : Port) (q : PageNo) : (s.releaseOwned p q).ownedBy = (s.modOwned p (· - 1)).ownedBy := by
  have : (s.releasePage q).owned = s.owned :=
    releasePage_keeps State.owned (fun _ _ _ => rfl) (fun _ _ => rfl) (fun _ _ => rfl) q
  funext x
  simp only [State.releaseOwned, State.ownedBy_modOwned]
  simp only [State.ownedBy, this]

theorem State.WithinQuotas.turn {x y : Books} (m : Turn x y) (h : x.1.WithinQuotas) : y.1.WithinQuotas := by
  cases m
  case quiet q => exact h.of_same q.owned q.config
  case config room => exact fun p => room p (h p)
  case take s o p n enough quota =>
    intro x
    show (s.takePages p n).ownedBy x ≤ (s.takePages p n).config.quota[x]
    rw [takePages_ownedBy, takePages_config]
    split
    · next e => subst e; exact quota
    · exact h x
  case replace | disable | unpin => exact h.of_same (orphanCheck_owned _) (orphanCheck_config _)
  case releaseOwned s o p q _ _ _ =>
    exact h.fall (releaseOwned_ownedBy p q) (releasePage_keeps State.config (fun _ _ _ => rfl) (fun _ _ => rfl) (fun _ _ => rfl) q)
  case orphan p q _ _ => exact h.fall (p := p) rfl rfl
  case acceptJob =>
    exact h.of_same (foldl_keeps (g := State.owned) (f := State.pinUp) (fun _ _ => rfl) _ _)
      (foldl_keeps (g := State.config) (f := State.pinUp) (fun _ _ => rfl) _ _)
  case clear s o _ _ _ =>
    intro p
    show s.powerOnTables.ownedBy p ≤ _
    rw [powerOnTables_ownedBy]; exact Nat.zero_le _
  case resetLine => intro p; rw [resetLineTables_ownedBy]; exact Nat.zero_le _
  all_goals exact h.of_same rfl rfl

/-! ## The marks through every turn (R131 to R133) -/

/-- A page's mark agrees with its state. -/
structure PageRec.MarkFits (r : PageRec) : Prop where
  unmarked : r.state = .free ∨ r.state = .withheld → r.poisoned = false
  retired : r.state = .retired → r.poisoned = true

theorem marksSound_iff : s.MarksSound ↔ ∀ q, (s.page q).MarkFits :=
  ⟨fun h q => ⟨h.unmarked q, h.retired q⟩, fun h => ⟨fun q => (h q).unmarked, fun q => (h q).retired⟩⟩

/-- A page in use may bear a mark or none. -/
theorem PageRec.MarkFits.of_inUse {r : PageRec} (h : r.inUse) : r.MarkFits := by
  constructor
  · rintro (e | e) <;> rcases h with h | h <;> rw [h] at e <;> cases e
  · intro e; rcases h with h | h <;> rw [h] at e <;> cases e

theorem PageRec.MarkFits.of_same {r r' : PageRec} (h : r.MarkFits) (state : r'.state = r.state) (poisoned : r'.poisoned = r.poisoned) :
    r'.MarkFits := ⟨by rw [state, poisoned]; exact h.unmarked, by rw [state, poisoned]; exact h.retired⟩

/-- A page that changes between FREE and WITHHELD keeps its mark. -/
theorem PageRec.MarkFits.idle {r r' : PageRec} (h : r.MarkFits) (before : r.state = .free ∨ r.state = .withheld)
    (after : r'.state = .free ∨ r'.state = .withheld) (poisoned : r'.poisoned = r.poisoned) : r'.MarkFits :=
  ⟨fun _ => poisoned.trans (h.unmarked before), fun e => by rw [e] at after; rcases after with n | n <;> cases n⟩

/-- A page is released to the state that its mark calls for. -/
theorem PageRec.MarkFits.released (r : PageRec) (bank : BankState) :
    ({ r with state := r.releasedState bank, owner := none, grants := noGrants } : PageRec).MarkFits := by
  constructor <;> dsimp only <;> obtain ⟨p, e⟩ | ⟨p, -, e⟩ | ⟨p, -, e⟩ := releasedState_cases r bank <;> simp [e, p]

/-- A change of one page record at most. -/
theorem marks_of_change {q : PageNo} (h : ∀ x, (s.page x).MarkFits) (others : ∀ x, x ≠ q → u.page x = s.page x)
    (changed : (u.page q).MarkFits) (x : PageNo) : (u.page x).MarkFits := by
  by_cases e : x = q
  · rw [e]; exact changed
  · rw [others x e]; exact h x

theorem orphanCheck_marks {q : PageNo} (h : ∀ x, (s.page x).MarkFits) (x : PageNo) : ((s.orphanCheck q).page x).MarkFits := by
  by_cases gone : s.LastUseGone q
  · rw [orphanCheck_of_gone gone, releasePage_page]
    split
    · exact .released _ _
    · exact h x
  · rw [orphanCheck_of_left gone]; exact h x

theorem foldl_allocPage_page (p : Port) (l : List PageNo) (x : PageNo) :
    (l.foldl (fun s q => State.allocPage s p q) s).page x =
      if x ∈ l then
        { state := .allocated, owner := some p, grants := noGrants, mapCount := 0, pinCount := 0, poisoned := false }
      else s.page x := by
  induction l generalizing s with
  | nil => simp
  | cons q l ih =>
    rw [List.foldl_cons, ih, State.allocPage, changePage_page]
    by_cases h : x ∈ l
    · simp [h]
    · by_cases e : x = q <;> simp [h, e]

theorem takePages_page (p : Port) (n : Nat) (x : PageNo) :
    (s.takePages p n).page x =
      if x ∈ s.freeList.take n then
        { state := .allocated, owner := some p, grants := noGrants, mapCount := 0, pinCount := 0, poisoned := false }
      else s.page x := by
  rw [State.takePages, foldl_allocPage_page]; rfl

theorem foldl_pinUp_page (l : List PageNo) (x : PageNo) :
    (l.foldl State.pinUp s).page x = { s.page x with pinCount := (s.page x).pinCount + l.count x } := by
  induction l generalizing s with
  | nil => rfl
  | cons q l ih =>
    rw [List.foldl_cons, ih, State.pinUp, State.page_modPage]
    by_cases e : x = q
    · subst e; simp [Nat.add_assoc, Nat.add_comm 1]
    · simp [e, Ne.symm e]

theorem placeAccess_page (p : Port) (t : Tag) (q : PageNo) (offset : Nat) (kind : StoreKind) (x : PageNo) :
    (s.placeAccess p t q offset kind).page x =
      { s.page x with pinCount := (s.page x).pinCount + if x = q then 1 else 0 } := by
  have pinned : (s.placeAccess p t q offset kind).page x = (s.pinUp q).page x := rfl
  rw [pinned, State.pinUp, State.page_modPage]
  split
  · next e => rw [e]
  · rfl

theorem marks_turn {x y : Books} (m : Turn x y) (h : ∀ q, (x.1.page q).MarkFits) : ∀ q, (y.1.page q).MarkFits := by
  cases m
  case quiet quiet => rw [quiet.page]; exact h
  case take s o p n _ _ =>
    intro q
    show ((s.takePages p n).page q).MarkFits
    rw [takePages_page]
    split
    · exact .of_inUse (.inl rfl)
    · exact h q
  case drain s o b _ =>
    intro q
    show ((s.withholdBank b).page q).MarkFits
    rw [withhold_page]
    split
    · next hq => exact (h q).idle (.inl hq.2) (.inr rfl) rfl
    · exact h q
  case restore s o b _ =>
    intro q
    show ((s.returnBank b).page q).MarkFits
    rw [restored_page]
    split
    · next hq => exact (h q).idle (.inr hq.2) (.inl rfl) rfl
    · exact h q
  case setGrant q target right allocated =>
    refine marks_of_change (q := q) h (fun x hx => State.page_modPage_ne _ _ _ hx) ?_
    rw [State.setGrant, State.page_modPage_same]
    exact (h q).of_same rfl rfl
  case clearGrants s o p =>
    intro q
    show ((s.clearGrants p).page q).MarkFits
    rw [clearGrants_page, PageRec.clearGrant_eq]
    exact (h q).of_same rfl rfl
  case enable =>
    intro x
    rw [page_mapUp]
    exact (h x).of_same rfl rfl
  case replace =>
    refine orphanCheck_marks fun x => ?_
    rw [page_mapped]
    exact (h x).of_same rfl rfl
  case disable =>
    refine orphanCheck_marks fun x => ?_
    rw [page_mapLess]
    exact (h x).of_same rfl rfl
  case releaseOwned s o p q _ _ _ =>
    intro x
    show ((s.releasePage q).page x).MarkFits
    rw [releasePage_page]
    split
    · exact .released _ _
    · exact h x
  case orphan s o p q _ _ =>
    intro x
    rw [State.page_modOwned, changePage_page]
    split
    · exact .of_inUse (.inr rfl)
    · exact h x
  case unpin s o q =>
    refine orphanCheck_marks (marks_of_change (q := q) h (fun x hx => State.page_modPage_ne _ _ _ hx) ?_)
    rw [State.page_modPage_same]
    exact (h q).of_same rfl rfl
  case place s o p t q offset kind _ =>
    intro x
    rw [placeAccess_page]
    exact (h x).of_same rfl rfl
  case acceptJob =>
    intro x
    rw [foldl_pinUp_page]
    exact (h x).of_same rfl rfl
  case clear s o _ _ _ =>
    intro q
    show (s.powerOnTables.page q).MarkFits
    rw [powerOnTables_page]
    exact ⟨fun _ => rfl, nofun⟩
  case resetLine s o =>
    intro q
    rw [resetLineTables_page, PageRec.afterResetLine_eq]
    have kept := (h q).retired
    by_cases retired : (s.page q).state = .retired
    · exact ⟨by simp [retired], fun _ => by simpa [retired] using kept⟩
    · refine ⟨by simp [retired], fun e => absurd e ?_⟩
      dsimp only
      rw [if_neg retired]
      split <;> nofun
  all_goals exact h

end Sys2Proof.Machine

/-! # The pins through every turn (R7, R8, R12) -/
namespace Sys2Proof.Machine

variable {s u : State} {o : List PageNo}

/-! ## The uses of a page -/

/-- A job that leaves the queue takes its places with it, when no id stands twice. -/
theorem count_removeJob {l : List Job} (once : (l.map (·.id)).Nodup) {j : Job} (mem : j ∈ l) (q : PageNo) :
    ((l.filter (·.id ≠ j.id)).flatMap Job.pages).count q + j.pages.count q = (l.flatMap Job.pages).count q := by
  induction l with
  | nil => cases mem
  | cons x l ih =>
    obtain ⟨absent, once'⟩ := List.nodup_cons.mp once
    rcases List.mem_cons.mp mem with rfl | mem'
    · have rest : l.filter (·.id ≠ j.id) = l := List.filter_eq_self.mpr fun y hy => by
        simpa using fun e : y.id = j.id => absent (List.mem_map.mpr ⟨y, hy, e⟩)
      rw [List.filter_cons_of_neg (by simp), rest, List.flatMap_cons, List.count_append, Nat.add_comm]
    · have other : x.id ≠ j.id := fun e => absent (List.mem_map.mpr ⟨j, mem', e.symm⟩)
      rw [List.filter_cons_of_pos (by simpa using other), List.flatMap_cons, List.flatMap_cons, List.count_append,
        List.count_append, Nat.add_assoc, ih once' mem']

theorem usesOf_removeJob (once : (s.jobs.map (·.id)).Nodup) {j : Job} (mem : j ∈ s.jobs) (q : PageNo) :
    (s.removeJob j.id).usesOf q + j.pages.count q = s.usesOf q := by
  have := count_removeJob once mem q
  simp only [State.usesOf, State.removeJob]
  omega

/-- A page that an entry names is in use (R6, R12). -/
theorem State.TablesAgree.inUse_of_named (h : s.TablesAgree) {q : PageNo} (named : s.Named q) : (s.page q).inUse := by
  obtain ⟨y, set, f, e, found, rfl⟩ := named
  by_contra idle
  have zero := (h.mapCounts e.page).2 idle
  rw [(h.mapCounts e.page).1, entriesNaming_eq, Nat.add_eq_zero_iff, card_filter_zero, card_filter_zero] at zero
  have here : names e.page (s.resolve y set f) = true := by rw [found, names_iff]; rfl
  cases set with
  | a => exact zero.1 (y, f) here
  | b => exact zero.2 (y, f) here

/-! ## The pins with what is owed -/

/-- The pin counts are the uses and the pins owed; pages not in use have neither pin nor lock; an ORPHANED page has a use. -/
structure State.PinsOwed (s : State) (o : List PageNo) : Prop where
  tables : s.TablesAgree
  idsOnce : (s.jobs.map (·.id)).Nodup
  pins : ∀ q, (s.page q).pinCount = s.usesOf q + o.count q
  unused : ∀ q, ¬ (s.page q).inUse → (s.page q).pinCount = 0 ∧ s.lockOf q = none
  orphaned : ∀ q, (s.page q).state = .orphaned → (s.page q).mapCount ≠ 0 ∨ (s.page q).pinCount ≠ 0

theorem pinsOwed_iff (tables : s.TablesAgree) (idsOnce : (s.jobs.map (·.id)).Nodup) : s.PinsOwed [] ↔ s.PinCountsExact :=
  ⟨fun h => ⟨fun q => by simpa using h.pins q, h.unused, h.orphaned⟩,
    fun h => ⟨tables, idsOnce, fun q => by simpa using h.pins q, h.unused, h.orphaned⟩⟩

/-- What a turn must keep of one page. -/
structure PinsKeep (s u : State) (o o' : List PageNo) (q : PageNo) : Prop where
  pins : (s.page q).pinCount = s.usesOf q + o.count q → (u.page q).pinCount = u.usesOf q + o'.count q
  unused : ¬ (u.page q).inUse → (¬ (s.page q).inUse → (s.page q).pinCount = 0 ∧ s.lockOf q = none) →
    (u.page q).pinCount = 0 ∧ u.lockOf q = none
  orphaned : (u.page q).state = .orphaned →
    ((s.page q).state = .orphaned → (s.page q).mapCount ≠ 0 ∨ (s.page q).pinCount ≠ 0) →
    (u.page q).mapCount ≠ 0 ∨ (u.page q).pinCount ≠ 0

theorem State.PinsOwed.step {o' : List PageNo} (h : s.PinsOwed o) (moves : Moves s u) (idsOnce : (u.jobs.map (·.id)).Nodup)
    (keep : ∀ q, PinsKeep s u o o' q) : u.PinsOwed o' :=
  ⟨h.tables.moves moves, idsOnce, fun q => (keep q).pins (h.pins q), fun q n => (keep q).unused n (h.unused q),
    fun q e => (keep q).orphaned e (h.orphaned q)⟩

/-- A page whose state, counts, uses and lock entry stand. -/
theorem PinsKeep.of_same {q : PageNo} (state : (u.page q).state = (s.page q).state)
    (mapCount : (u.page q).mapCount = (s.page q).mapCount) (pinCount : (u.page q).pinCount = (s.page q).pinCount)
    (uses : u.usesOf q = s.usesOf q) (lock : s.lockOf q = none → u.lockOf q = none) : PinsKeep s u o o q := by
  have use : (u.page q).inUse ↔ (s.page q).inUse := by simp only [PageRec.inUse, state]
  refine ⟨fun h => by rw [pinCount, uses, h], fun n h => ?_, fun e h => by rw [mapCount, pinCount]; exact h (state ▸ e)⟩
  obtain ⟨zero, none⟩ := h (use.not.mp n)
  exact ⟨pinCount.trans zero, lock none⟩

/-- A page that changes between two states not in use. -/
theorem PinsKeep.idle {q : PageNo} (before : ¬ (s.page q).inUse) (after : ¬ (u.page q).inUse)
    (pinCount : (u.page q).pinCount = (s.page q).pinCount) (uses : u.usesOf q = s.usesOf q)
    (lock : s.lockOf q = none → u.lockOf q = none) : PinsKeep s u o o q := by
  refine ⟨fun h => by rw [pinCount, uses, h], fun _ h => ?_, fun e => absurd (.inr e) after⟩
  obtain ⟨zero, none⟩ := h before
  exact ⟨pinCount.trans zero, lock none⟩

/-- A page placed by its release, with its lock entry dissolved. -/
theorem PinsKeep.released {q : PageNo} (page : (u.page q).state = s.releasedTo q)
    (pinCount : (u.page q).pinCount = (s.page q).pinCount) (unpinned : (s.page q).pinCount = 0)
    (uses : u.usesOf q = s.usesOf q) (lock : u.lockOf q = none) : PinsKeep s u o o q := by
  have idle := releasedState_not_inUse (s.page q) (s.bank (bankOf q)).state
  refine ⟨fun h => by rw [pinCount, uses, h], fun _ _ => ⟨pinCount.trans unpinned, lock⟩, fun e => ?_⟩
  rw [page] at e
  exact absurd e idle.2

theorem not_inUse_of {r : PageRec} (h : r.state = .free ∨ r.state = .withheld) : ¬ r.inUse := by
  rintro (e | e) <;> rw [e] at h <;> rcases h with h | h <;> cases h

theorem releasePage_usesOf (q x : PageNo) : (s.releasePage q).usesOf x = s.usesOf x :=
  releasePage_keeps (State.usesOf · x) (fun _ _ _ => rfl) (fun _ _ => rfl) (fun _ _ => rfl) q

theorem releasePage_jobs (q : PageNo) : (s.releasePage q).jobs = s.jobs :=
  releasePage_keeps State.jobs (fun _ _ _ => rfl) (fun _ _ => rfl) (fun _ _ => rfl) q

theorem releasePage_lockOf (q x : PageNo) : (s.releasePage q).lockOf x = if x = q then none else s.lockOf x :=
  dissolve_lockOf q x

/-- A release of a page without a pin. -/
theorem PinsKeep.release {q : PageNo} (unpinned : (s.page q).pinCount = 0) (x : PageNo) :
    PinsKeep s (s.releasePage q) o o x := by
  by_cases e : x = q
  · subst e
    refine .released ?_ ?_ unpinned (releasePage_usesOf x x) (by rw [releasePage_lockOf, if_pos rfl]) <;>
      rw [releasePage_page, if_pos rfl]
  · refine .of_same ?_ ?_ ?_ (releasePage_usesOf q x) (fun n => by rw [releasePage_lockOf, if_neg e]; exact n) <;>
      rw [releasePage_page, if_neg e]

theorem PinsKeep.modOwned {o' : List PageNo} {q : PageNo} (h : PinsKeep s u o o' q) (p : Port) (f : Nat → Nat) :
    PinsKeep s (u.modOwned p f) o o' q := ⟨h.pins, h.unused, h.orphaned⟩

/-- A change of one page record at most, outside its state, its counts and its owner. -/
theorem PinsKeep.of_record {q : PageNo}
    (page : (u.page q).state = (s.page q).state ∧ (u.page q).mapCount = (s.page q).mapCount ∧
      (u.page q).pinCount = (s.page q).pinCount)
    (accesses : u.accesses = s.accesses) (jobs : u.jobs = s.jobs) (locks : u.locks = s.locks) : PinsKeep s u o o q :=
  .of_same page.1 page.2.1 page.2.2 (by simp only [State.usesOf, accesses, jobs]) fun n => by
    rw [State.lockOf, locks]; exact n

/-- A page whose pin count moves with its uses and what is owed, and which is in use or has no pin. -/
theorem PinsKeep.repinned {o' : List PageNo} {q : PageNo} (state : (u.page q).state = (s.page q).state)
    (mapCount : (u.page q).mapCount = (s.page q).mapCount)
    (pins : (s.page q).pinCount = s.usesOf q + o.count q → (u.page q).pinCount = u.usesOf q + o'.count q)
    (more : (s.page q).pinCount ≤ (u.page q).pinCount)
    (idle : ¬ (s.page q).inUse → (u.page q).pinCount = (s.page q).pinCount)
    (lock : s.lockOf q = none → u.lockOf q = none) : PinsKeep s u o o' q := by
  have use : (u.page q).inUse ↔ (s.page q).inUse := by simp only [PageRec.inUse, state]
  refine ⟨pins, fun n h => ?_, fun e h => ?_⟩
  · obtain ⟨zero, none⟩ := h (use.not.mp n)
    exact ⟨(idle (use.not.mp n)).trans zero, lock none⟩
  · rw [mapCount]
    exact (h (state ▸ e)).imp_right (by omega)

/-- A claim that lowers a count of a page, with its release check (R8): u is the state between. -/
theorem PinsKeep.claim {o' : List PageNo} {q : PageNo} {m n : PageNo → Nat}
    (page : ∀ x, u.page x = { s.page x with mapCount := m x, pinCount := n x })
    (pins : ∀ x, (s.page x).pinCount = s.usesOf x + o.count x → n x = u.usesOf x + o'.count x)
    (zero : ∀ x, (s.page x).pinCount = 0 → n x = 0)
    (others : ∀ x, x ≠ q → (s.page x).mapCount ≤ m x ∧ n x = (s.page x).pinCount) (locks : u.locks = s.locks) (x : PageNo) :
    PinsKeep s (u.orphanCheck q) o o' x := by
  have unused : ¬ (u.page x).inUse → (¬ (s.page x).inUse → (s.page x).pinCount = 0 ∧ s.lockOf x = none) →
      (u.page x).pinCount = 0 ∧ u.lockOf x = none := fun idle h => by
    rw [page] at idle
    obtain ⟨z, l⟩ := h idle
    exact ⟨by rw [page]; exact zero x z, by rw [State.lockOf, locks]; exact l⟩
  have other : x ≠ q → ((s.page x).state = .orphaned → (s.page x).mapCount ≠ 0 ∨ (s.page x).pinCount ≠ 0) →
      (u.page x).state = .orphaned → (u.page x).mapCount ≠ 0 ∨ (u.page x).pinCount ≠ 0 := fun hx h e => by
    rw [page] at e ⊢
    obtain ⟨le, same⟩ := others x hx
    dsimp only
    have := h e
    omega
  have pins' : (s.page x).pinCount = s.usesOf x + o.count x → (u.page x).pinCount = u.usesOf x + o'.count x := fun h => by
    rw [page]; exact pins x h
  by_cases gone : u.LastUseGone q
  · rw [orphanCheck_of_gone gone]
    have release := PinsKeep.release (o := o') gone.2.2 x
    refine ⟨fun h => release.pins (pins' h), fun idle h => release.unused idle fun idle' => unused idle' h,
      fun e h => release.orphaned e fun e' => ?_⟩
    by_cases hx : x = q
    · rw [hx, releasePage_page, if_pos rfl] at e
      exact absurd e (releasedState_not_inUse _ _).2
    · exact other hx h e'
  · rw [orphanCheck_of_left gone]
    refine ⟨pins', unused, fun e h => ?_⟩
    by_cases hx : x = q
    · subst hx
      by_contra none
      rw [not_or, not_not, not_not] at none
      exact gone ⟨e, none⟩
    · exact other hx h e

/-! ## Every turn -/

theorem orphanCheck_jobs (q : PageNo) : (s.orphanCheck q).jobs = s.jobs :=
  orphanCheck_keeps State.jobs (fun _ _ _ => rfl) (fun _ _ => rfl) (fun _ _ => rfl) q

theorem foldl_pinUp_keeps {β : Type} (g : State → β) (keep : ∀ s q, g (State.pinUp s q) = g s) (l : List PageNo) :
    g (l.foldl State.pinUp s) = g s := foldl_keeps keep l s

/-- No id stands twice in the copy queue after a turn (R101). -/
theorem idsOnce_turn {x y : Books} (m : Turn x y) (h : (x.1.jobs.map (·.id)).Nodup) : (y.1.jobs.map (·.id)).Nodup := by
  cases m
  case quiet quiet =>
    rw [jobs_ids, quiet.jobs, ← jobs_ids]; exact h
  case take => rw [show (State.takePages _ _ _).jobs = _ from foldl_keeps (g := State.jobs)
    (f := fun s q => State.allocPage s _ q) (fun _ _ => rfl) _ _]; exact h
  case replace | disable | unpin => show ((State.orphanCheck _ _).jobs.map _).Nodup; rw [orphanCheck_jobs]; exact h
  case releaseOwned => show ((State.releasePage _ _).jobs.map _).Nodup; rw [releasePage_jobs]; exact h
  case acceptJob j _ _ _ fresh _ _ =>
    rw [foldl_pinUp_keeps State.jobs fun _ _ => rfl, List.map_append]
    refine List.nodup_append.mpr ⟨h, List.nodup_singleton _, ?_⟩
    rintro a ha b hb rfl
    obtain ⟨j', hj', e⟩ := List.mem_map.mp ha
    simp only [State.idInUse, List.any_eq_false, beq_iff_eq] at fresh
    exact fresh j' hj' (e.trans (by simpa using hb))
  case removeJob => exact h.sublist (List.filter_sublist.map _)
  case clear | resetLine => exact List.nodup_nil
  all_goals exact h

theorem pinsKeep_take (h : s.PinsOwed o) (p : Port) (n : Nat) (q : PageNo) : PinsKeep s (s.takePages p n) o o q := by
  have uses : (s.takePages p n).usesOf q = s.usesOf q :=
    foldl_keeps (g := (State.usesOf · q)) (f := fun s q => State.allocPage s p q) (fun _ _ => rfl) _ _
  have locks : (s.takePages p n).lockOf q = s.lockOf q :=
    foldl_keeps (g := (State.lockOf · q)) (f := fun s q => State.allocPage s p q) (fun _ _ => rfl) _ _
  have page := takePages_page (s := s) p n q
  by_cases taken : q ∈ s.freeList.take n
  · rw [if_pos taken] at page
    have free : (s.page q).state = .free := (h.tables.directory.freeExactly q).mp (List.mem_of_mem_take taken)
    have zero : (s.page q).pinCount = 0 := (h.unused q (not_inUse_of (.inl free))).1
    exact ⟨fun e => by rw [page, uses, ← e, zero], fun n _ => absurd (by rw [page]; exact .inl rfl) n,
      fun e => by rw [page] at e; cases e⟩
  · rw [if_neg taken] at page
    exact .of_same (by rw [page]) (by rw [page]) (by rw [page]) uses fun n => locks.trans n

/-- The pages of a bank change between FREE and WITHHELD. -/
theorem pinsKeep_moveAll {b : BankNo} {a c : PageState} (idle : a = .free ∨ a = .withheld) (idle' : c = .free ∨ c = .withheld)
    {q : PageNo} (page : u.page q = if bankOf q = b ∧ (s.page q).state = a then { s.page q with state := c } else s.page q)
    (uses : u.usesOf q = s.usesOf q) (lock : u.lockOf q = s.lockOf q) : PinsKeep s u o o q := by
  split at page
  · next moved =>
    exact .idle (not_inUse_of (moved.2 ▸ idle)) (not_inUse_of (by rw [page]; exact idle')) (by rw [page]) uses fun n => lock.trans n
  · exact .of_same (by rw [page]) (by rw [page]) (by rw [page]) uses fun n => lock.trans n

theorem pinsKeep_setGrant (x : PageNo) (target : Port) (right : Right) (q : PageNo) :
    PinsKeep s (s.setGrant x target right) o o q := by
  refine .of_record ?_ rfl rfl rfl
  rw [State.setGrant, State.page_modPage]
  split
  · next e => rw [e]; exact ⟨rfl, rfl, rfl⟩
  · exact ⟨rfl, rfl, rfl⟩

theorem pinsKeep_clearGrants (p : Port) (q : PageNo) : PinsKeep s (s.clearGrants p) o o q := by
  refine .of_record ?_ rfl rfl rfl
  rw [clearGrants_page, PageRec.clearGrant_eq]
  exact ⟨rfl, rfl, rfl⟩

theorem pinsKeep_enable (p : Port) (set : MapSet) (f : FrameNo) (e : FrameEntry) (x q : PageNo) :
    PinsKeep s ((s.setEntry p set f e).mapUp x) o o q := by
  have page := page_mapUp (s := s.setEntry p set f e) x q
  rw [setEntry_page] at page
  refine ⟨fun h => by rw [page]; exact h, fun n h => ?_, fun e h => ?_⟩ <;> rw [page] at *
  · exact h n
  · exact (h e).imp_left (by dsimp only; omega)

theorem pinsKeep_replace (p : Port) (set : MapSet) (f : FrameNo) (e : FrameEntry) (x old q : PageNo) :
    PinsKeep s (((s.setEntry p set f e).mapUp x).mapDown old) o o q :=
  PinsKeep.claim (s := s) (q := old) (fun y => page_mapped (s := s.setEntry p set f e) x old y) (fun _ h => h) (fun _ h => h)
    (fun y hy => ⟨by simp [hy], rfl⟩) rfl q

theorem pinsKeep_disable (p : Port) (set : MapSet) (f : FrameNo) (e : FrameEntry) (old q : PageNo) :
    PinsKeep s ((s.setEntry p set f e).mapDown old) o o q :=
  PinsKeep.claim (s := s) (q := old) (fun y => page_mapLess (s := s.setEntry p set f e) old y) (fun _ h => h) (fun _ h => h)
    (fun y hy => ⟨by simp [hy], rfl⟩) rfl q

theorem pinsKeep_orphan {x : PageNo} (left : (s.page x).mapCount ≠ 0 ∨ (s.page x).pinCount ≠ 0) (q : PageNo) :
    PinsKeep s (s.changePage x .orphaned fun r => { r with owner := none }) o o q := by
  have page := changePage_page (s := s) x q .orphaned fun r => { r with owner := none }
  by_cases e : q = x
  · subst e
    rw [if_pos rfl] at page
    exact ⟨fun h => by rw [page]; exact h, fun n _ => absurd (by rw [page]; exact .inr rfl) n, fun _ _ => by rw [page]; exact left⟩
  · rw [if_neg e] at page
    exact .of_same (by rw [page]) (by rw [page]) (by rw [page]) rfl id

theorem page_unpinned (q x : PageNo) :
    (s.modPage q fun r => { r with pinCount := r.pinCount - 1 }).page x =
      { s.page x with pinCount := (s.page x).pinCount - if x = q then 1 else 0 } := by
  rw [State.page_modPage]
  split
  · next e => rw [e]
  · rfl

theorem pinsKeep_unpin (x q : PageNo) : PinsKeep s (s.pinDown x) (x :: o) o q := by
  refine PinsKeep.claim (fun y => page_unpinned x y) (fun y h => ?_) (fun y h => by omega)
    (fun y hy => ⟨Nat.le_refl _, by simp only [hy, if_false, Nat.sub_zero]⟩) rfl q
  show (s.page y).pinCount - _ = s.usesOf y + _
  rw [h, List.count_cons]
  by_cases e : y = x
  · subst e; simp
  · simp [e, Ne.symm e]

theorem pinsKeep_newLock (h : s.PinsOwed o) {x : PageNo} (named : s.Named x) (l : LockEntry) (page : l.page = x) (q : PageNo) :
    PinsKeep s { s with locks := s.locks ++ [l] } o o q := by
  by_cases e : q = x
  · subst e
    exact ⟨id, fun n _ => absurd (h.tables.inUse_of_named named) n, fun e f => f e⟩
  · refine .of_same rfl rfl rfl rfl fun n => ?_
    rw [lockOf_eq_none] at n ⊢
    intro l' hl'
    rcases List.mem_append.mp hl' with hl' | hl'
    · exact n l' hl'
    · rw [List.mem_singleton.mp hl', page]; exact Ne.symm e

theorem placeAccess_usesOf (p : Port) (t : Tag) (x : PageNo) (offset : Nat) (kind : StoreKind) (q : PageNo) :
    (s.placeAccess p t x offset kind).usesOf q = s.usesOf q + if q = x then 1 else 0 := by
  have accesses : (s.placeAccess p t x offset kind).accesses =
    s.accesses ++ [{ port := p, tag := t, kind := kind, page := x, offset := offset }] := rfl
  have jobs : (s.placeAccess p t x offset kind).jobs = s.jobs := rfl
  rw [State.usesOf, accesses, jobs, State.usesOf, List.filter_append, List.length_append]
  by_cases e : q = x
  · subst e; simp; omega
  · simp [e, Ne.symm e]

theorem pinsKeep_place (h : s.PinsOwed o) (p : Port) (t : Tag) {x : PageNo} (offset : Nat) (kind : StoreKind)
    (named : s.Named x) (q : PageNo) : PinsKeep s (s.placeAccess p t x offset kind) o o q := by
  have page := placeAccess_page (s := s) p t x offset kind q
  refine .repinned (by rw [page]) (by rw [page]) (fun e => ?_) (by rw [page]; exact Nat.le_add_right _ _) (fun n => ?_) id
  · rw [page, placeAccess_usesOf]; dsimp only; omega
  · have : q ≠ x := fun e => n (e ▸ h.tables.inUse_of_named named)
    rw [page]; simp [this]

theorem pinsKeep_dropAccess {p : Port} {t : Tag} {x : PageNo}
    (one : ∀ y, ((s.dropAccess p t).accesses.filter (·.page == y)).length + (if y = x then 1 else 0) =
      (s.accesses.filter (·.page == y)).length) (q : PageNo) : PinsKeep s (s.dropAccess p t) o (x :: o) q := by
  refine ⟨fun e => ?_, fun n f => f n, fun e f => f e⟩
  have one := one q
  have jobs : (s.dropAccess p t).jobs = s.jobs := rfl
  show (s.page q).pinCount = _
  rw [e, State.usesOf, State.usesOf, List.count_cons, jobs]
  by_cases e' : q = x
  · subst e'; simp only [beq_self_eq_true, if_true] at one ⊢; omega
  · simp only [e', if_false, beq_iff_eq, Ne.symm e'] at one ⊢; omega

theorem acceptJob_usesOf (j : Job) (counter : Byte) (q : PageNo) :
    (j.pages.foldl State.pinUp { s with jobs := s.jobs ++ [j], nextJobId := counter }).usesOf q =
      s.usesOf q + j.pages.count q := by
  rw [foldl_pinUp_keeps (State.usesOf · q) fun _ _ => rfl]
  simp only [State.usesOf, List.flatMap_append, List.flatMap_singleton, List.count_append]
  omega

theorem pinsKeep_acceptJob (h : s.PinsOwed o) (j : Job) (counter : Byte) (named : ∀ q ∈ j.pages, s.Named q) (q : PageNo) :
    PinsKeep s (j.pages.foldl State.pinUp { s with jobs := s.jobs ++ [j], nextJobId := counter }) o o q := by
  have page : (j.pages.foldl State.pinUp { s with jobs := s.jobs ++ [j], nextJobId := counter }).page q =
      { s.page q with pinCount := (s.page q).pinCount + j.pages.count q } := foldl_pinUp_page j.pages q
  have locks : (j.pages.foldl State.pinUp { s with jobs := s.jobs ++ [j], nextJobId := counter }).lockOf q = s.lockOf q :=
    foldl_pinUp_keeps (State.lockOf · q) (fun _ _ => rfl) _
  refine .repinned (by rw [page]) (by rw [page]) (fun e => ?_) (by rw [page]; exact Nat.le_add_right _ _) (fun n => ?_)
    fun n => locks.trans n
  · rw [page, acceptJob_usesOf]; dsimp only; omega
  · have absent : q ∉ j.pages := fun mem => n (h.tables.inUse_of_named (named q mem))
    rw [page, List.count_eq_zero_of_not_mem absent]; rfl

theorem pinsKeep_removeJob (h : s.PinsOwed o) {j : Job} (mem : j ∈ s.jobs) (q : PageNo) :
    PinsKeep s (s.removeJob j.id) o (j.pages ++ o) q := by
  refine ⟨fun e => ?_, fun n f => f n, fun e f => f e⟩
  have := usesOf_removeJob h.idsOnce mem q
  show (s.page q).pinCount = _
  rw [e, List.count_append]; omega

/-- A start that leaves no access, no job, no lock and no pin. -/
theorem pinsKeep_start {q : PageNo} (accesses : u.accesses = []) (jobs : u.jobs = []) (locks : u.locks = [])
    (pinCount : (u.page q).pinCount = 0) (state : (u.page q).state ≠ .orphaned) : PinsKeep s u o [] q := by
  refine ⟨fun _ => ?_, fun _ _ => ⟨pinCount, by rw [State.lockOf, locks]; rfl⟩, fun e => absurd e state⟩
  rw [pinCount, State.usesOf, accesses, jobs]; rfl

theorem pinsKeep_resetLine (q : PageNo) : PinsKeep s s.resetLineTables o [] q := by
  refine pinsKeep_start rfl rfl rfl ?_ ?_ <;> rw [resetLineTables_page, PageRec.afterResetLine_eq]
  dsimp only
  split
  · nofun
  · split <;> nofun

theorem pinsKeep_turn {o' : List PageNo} (m : Turn (s, o) (u, o')) (h : s.PinsOwed o) (q : PageNo) : PinsKeep s u o o' q := by
  cases m
  case quiet quiet =>
    exact .of_same (by rw [quiet.page]) (by rw [quiet.page]) (by rw [quiet.page]) (quiet.usesOf q)
      (lockOf_none_of_subset quiet.locks)
  case take p n _ _ => exact pinsKeep_take h p n q
  case drain b _ => exact pinsKeep_moveAll (.inl rfl) (.inr rfl) (withhold_page b q) rfl rfl
  case restore b _ => exact pinsKeep_moveAll (.inr rfl) (.inl rfl) (restored_page b q) rfl rfl
  case setGrant x target right _ => exact pinsKeep_setGrant x target right q
  case clearGrants p => exact pinsKeep_clearGrants p q
  case enable => exact pinsKeep_enable _ _ _ _ _ q
  case replace => exact pinsKeep_replace _ _ _ _ _ _ q
  case disable => exact pinsKeep_disable _ _ _ _ _ q
  case releaseOwned unpinned => exact (PinsKeep.release unpinned q).modOwned _ _
  case orphan left => exact (pinsKeep_orphan left q).modOwned _ _
  case unpin x => exact pinsKeep_unpin x q
  case newLock named _ _ => exact pinsKeep_newLock h named _ rfl q
  case place named => exact pinsKeep_place h _ _ _ _ named q
  case dropAccess one => exact pinsKeep_dropAccess one q
  case acceptJob j counter _ _ _ _ named => exact pinsKeep_acceptJob h j counter named q
  case removeJob mem => exact pinsKeep_removeJob h mem q
  case clear =>
    have page : s.powerOnTables.page q = .free := powerOnTables_page q
    refine pinsKeep_start rfl rfl rfl ?_ ?_
    · exact congrArg PageRec.pinCount page
    · exact fun e => by have := (congrArg PageRec.state page).symm.trans e; cases this
  case resetLine => exact pinsKeep_resetLine q
  all_goals exact .of_same rfl rfl rfl rfl id

/-- Every turn keeps the pins with what is owed. -/
theorem pinsOwed_turn {x y : Books} (m : Turn x y) (h : x.1.PinsOwed x.2) : y.1.PinsOwed y.2 :=
  h.step m.moves (idsOnce_turn m h.idsOnce) (pinsKeep_turn m h)

end Sys2Proof.Machine

/-! # Every command is a sequence of turns

Laws/Steps.lean says that every command is a sequence of moves; here the same is said with the books kept. Where an operation
changes nothing in the books (`Quiet`), its moves are one turn. -/
namespace Sys2Proof.Machine

variable {s u v : State}

/-- An operation that leaves the books as balanced as it finds them, whatever is owed. -/
def Balanced (s u : State) : Prop := ∀ o, Turns (s, o) (u, o)

theorem Balanced.refl : Balanced s s := fun _ => .refl

theorem Balanced.trans (h : Balanced s u) (h' : Balanced u v) : Balanced s v := fun o => (h o).trans (h' o)

theorem Balanced.one (h : ∀ o, Turn (s, o) (u, o)) : Balanced s u := fun o => .single (h o)

theorem Balanced.quiet (moves : Moves s u) (quiet : Quiet s u) : Balanced s u := .one fun _ => .quiet moves quiet

theorem Balanced.foldl {α : Type} {f : State → α → State} (h : ∀ s x, Balanced s (f s x)) (l : List α) (s : State) :
    Balanced s (l.foldl f s) := by
  induction l generalizing s with
  | nil => exact .refl
  | cons x l ih => exact (h s x).trans (ih _)

/-! ## Messages -/

theorem Quiet.modPort (p : Port) (f : PortCtl → PortCtl) : Quiet s (s.modPort p f) := .of_eq rfl rfl rfl rfl rfl rfl

theorem Quiet.answer (p : Port) (t : Tag) (code : Byte) (st : Status) (pay : Payload) : Quiet s (s.answer p t code st pay) :=
  .modPort _ _

theorem answer_balanced (p : Port) (t : Tag) (code : Byte) (st : Status) (pay : Payload) :
    Balanced s (s.answer p t code st pay) := .quiet (answer_moves _ _ _ _ _) (.modPort _ _)

theorem refuse_balanced (p : Port) (t : Tag) (code : Byte) (st : Status) : Balanced s (s.refuse p t code st) :=
  .quiet (refuse_moves _ _ _ _) (.modPort _ _)

theorem offer_balanced (p : Port) (e : Event) : Balanced s (s.offer p e) := .quiet (offer_moves _ _) (.modPort _ _)

theorem offerSupervisor_quiet (e : Event) : Quiet s (s.offerSupervisor e) := by
  unfold State.offerSupervisor
  split
  · exact .refl
  · exact .modPort _ _

/-! ## The Lock Unit -/

theorem regrant_quiet (q : PageNo) (hs : List Holder) (ws : List Waiter) : Quiet s (s.regrant q hs ws) := by
  unfold State.regrant
  refine Quiet.trans (Quiet.modLock q ?_) (Quiet.foldl (f := fun s w => s.answerGranted q w) (fun _ _ => .answer _ _ _ _ _) _ _)
  exact fun _ => rfl

theorem dropHolder_quiet (q : PageNo) (p : Port) : Quiet s (s.dropHolder q p) := by
  unfold State.dropHolder
  split
  · exact .refl
  · exact regrant_quiet _ _ _

theorem dropWaiter_quiet (q : PageNo) (p : Port) : Quiet s (s.dropWaiter q p) := by
  unfold State.dropWaiter
  split
  · exact .refl
  · exact regrant_quiet _ _ _

theorem grantStep_quiet (q : PageNo) : Quiet s (s.grantStep q) := by
  unfold State.grantStep
  split
  · exact .refl
  · exact regrant_quiet _ _ _

theorem unlockForTeardown_quiet (p : Port) (q : PageNo) : Quiet s (s.unlockForTeardown p q) := by
  unfold State.unlockForTeardown
  split
  · exact .refl
  · split
    · exact regrant_quiet _ _ _
    · exact (Quiet.modPort _ _).trans (regrant_quiet _ _ _)

theorem release_quiet (p : Port) (t : Tag) (page : Half) : Quiet s (s.release p t page) := by
  unfold State.release
  split
  · exact .modPort _ _
  split
  · exact (dropHolder_quiet _ _).trans (.modPort _ _)
  · exact .modPort _ _

theorem renew_quiet (p : Port) (t : Tag) (page asked : Half) : Quiet s (s.renew p t page asked) := by
  unfold State.renew
  split
  · exact .modPort _ _
  split
  · refine Quiet.trans (Quiet.modLock _ ?_) (.modPort p _)
    exact fun _ => rfl
  · exact .modPort _ _

theorem leaseRunOut_quiet (q : PageNo) (p : Port) : Quiet s (s.leaseRunOut q p) := by
  unfold State.leaseRunOut State.expireLease
  split
  · exact (dropHolder_quiet q p).trans (.modPort p _)
  · exact .refl

theorem waitRunOut_quiet (q : PageNo) (p : Port) : Quiet s (s.waitRunOut q p) := by
  unfold State.waitRunOut State.timeOutWait
  split
  · split
    · exact .refl
    · exact (Quiet.modPort _ _).trans (dropWaiter_quiet _ _)
  · exact .refl

theorem resolvePresent_named {p : Port} {f : FrameNo} {e : Entry} (h : s.resolvePresent p f = some e) : s.Named e.page :=
  ⟨p, (s.map p).present, f, e, h, rfl⟩

theorem acquire_balanced (p : Port) (t : Tag) (frame : Byte) (mode : LockMode) (asked wait : Half) :
    Balanced s (s.acquire p t frame mode asked wait) := by
  unfold State.acquire
  split
  · exact answer_balanced _ _ _ _ _
  split
  · exact answer_balanced _ _ _ _ _
  next resolved =>
  split
  · exact answer_balanced _ _ _ _ _
  split
  · next none =>
    split
    · exact answer_balanced _ _ _ _ _
    · next room =>
      refine Balanced.trans ?_ (answer_balanced _ _ _ _ _)
      simp only [State.hasLock, none, Option.isSome_none, Bool.false_eq_true, if_false]
      exact .one fun _ => .newLock _ _ (resolvePresent_named resolved) none (by omega)
  · next l entry =>
    split
    · exact answer_balanced _ _ _ _ _
    next absent =>
    simp only [not_or, Bool.not_eq_true] at absent
    split
    · next grant =>
      refine Balanced.trans ?_ (answer_balanced _ _ _ _ _)
      simp only [State.hasLock, entry, Option.isSome_some, if_true]
      cases mode with
      | exclusive => simp [LockEntry.grantsAtOnce] at grant
      | shared =>
        simp only [LockEntry.grantsAtOnce, Bool.and_eq_true, List.isEmpty_iff, List.all_eq_true, beq_iff_eq] at grant
        exact .quiet (.single (.addHolder _ l _ entry absent rfl grant.1 grant.2)) (.modLock _ fun _ => rfl)
    · split
      · exact answer_balanced _ _ _ _ _
      · refine .quiet (acquireWait_moves entry absent) ?_
        unfold State.acquireWait
        refine Quiet.trans (Quiet.modLock _ ?_) (.modPort p _)
        exact fun _ => rfl

/-! ## The Page Directory -/

theorem bankOfflineCheck_quiet (b : BankNo) : Quiet s (s.bankOfflineCheck b) := by
  unfold State.bankOfflineCheck
  split
  · exact Quiet.trans (u := s.modBank b fun r => { r with state := .offline }) (.of_eq rfl rfl rfl rfl rfl rfl)
      (offerSupervisor_quiet _)
  · exact .refl

theorem bankOfflineCheck_balanced (b : BankNo) : Balanced s (s.bankOfflineCheck b) :=
  .quiet (bankOfflineCheck_moves b) (bankOfflineCheck_quiet b)

theorem drainBank_balanced (b : BankNo) (cause : BankCause) (online : (s.bank b).state = .online) :
    Balanced s (s.drainBank b cause) := by
  refine Balanced.trans (.one fun _ => .drain b online) (Balanced.trans ?_ (bankOfflineCheck_balanced b))
  exact .quiet (offerSupervisor_moves _) (offerSupervisor_quiet _)

theorem retireLimitCheck_balanced (b : BankNo) : Balanced s (s.retireLimitCheck b) := by
  unfold State.retireLimitCheck
  split
  · next h => exact drainBank_balanced b _ h.1
  · exact .refl

theorem settleBank_balanced (before : State) (q : PageNo) : Balanced s (before.settleBank s q) := by
  unfold State.settleBank
  split
  · exact .refl
  · split
    · split
      · exact retireLimitCheck_balanced _
      · exact bankOfflineCheck_balanced _
    · exact bankOfflineCheck_balanced _
    all_goals exact .refl

/-- An unpin claim pays one pin that is owed. -/
theorem unpinClaim_turns (q : PageNo) (o : List PageNo) : Turns (s, q :: o) (s.unpinClaim q, o) :=
  (Turns.one (.unpin q)).trans (settleBank_balanced s q o)

/-- The unpin claims of some pages pay what they owe. -/
theorem unpinClaims_turns (l : List PageNo) (o : List PageNo) : Turns (s, l ++ o) (l.foldl State.unpinClaim s, o) := by
  induction l generalizing s with
  | nil => exact .refl
  | cons q l ih => exact (unpinClaim_turns q (l ++ o)).trans ih

theorem alloc_balanced (p : Port) (t : Tag) (count : Byte) : Balanced s (s.alloc p t count) := by
  simp only [State.alloc]
  split
  · exact answer_balanced _ _ _ _ _
  split
  · exact answer_balanced _ _ _ _ _
  split
  · exact answer_balanced _ _ _ _ _
  · exact Balanced.trans (.one fun _ => .take p _ (by omega) (by omega)) (answer_balanced _ _ _ _ _)

theorem free_balanced (p : Port) (t : Tag) (page : Half) : Balanced s (s.free p t page) := by
  unfold State.free
  split
  · exact answer_balanced _ _ _ _ _
  split
  · exact answer_balanced _ _ _ _ _
  split
  · exact answer_balanced _ _ _ _ _
  split
  · exact answer_balanced _ _ _ _ _
  split
  · exact answer_balanced _ _ _ _ _
  next owned unmapped unpinned _ =>
    refine Balanced.trans (Balanced.trans ?_ (answer_balanced p t _ _ _)) (settleBank_balanced s _)
    exact .one fun _ => .releaseOwned p _ (by simpa using owned) (by omega) (by omega)

theorem drain_balanced (p : Port) (t : Tag) (bank : Byte) : Balanced s (s.drain p t bank) := by
  unfold State.drain
  split
  · exact answer_balanced _ _ _ _ _
  split
  · exact answer_balanced _ _ _ _ _
  · next h => exact (answer_balanced _ _ _ _ _).trans (drainBank_balanced _ _ (by simpa using h))

theorem restore_balanced (p : Port) (t : Tag) (bank : Byte) : Balanced s (s.restore p t bank) := by
  unfold State.restore
  split
  · exact answer_balanced _ _ _ _ _
  split
  · exact answer_balanced _ _ _ _ _
  · next h =>
    refine (answer_balanced p t 0x62 .ok .none).trans (Balanced.trans (.one fun _ => .restore _ (by simpa using h)) ?_)
    exact .quiet (offerSupervisor_moves _) (offerSupervisor_quiet _)

theorem disownPage_balanced {p : Port} {q : PageNo} (owned : s.owns p q = true) : Balanced s (s.disownPage p q) := by
  unfold State.disownPage
  split
  · next h => exact Balanced.trans (.one fun _ => .releaseOwned p q owned h.1 h.2) (settleBank_balanced s q)
  · next h => exact .one fun _ => .orphan p q owned (not_and_or.mp h)

theorem disownAll_balanced (p : Port) (l : List PageNo) (nodup : l.Nodup) (owned : ∀ q ∈ l, s.owns p q = true) :
    Balanced s (l.foldl (fun s q => s.disownPage p q) s) := by
  induction l generalizing s with
  | nil => exact .refl
  | cons q l ih =>
    obtain ⟨hq, hl⟩ := List.nodup_cons.mp nodup
    refine (disownPage_balanced (owned q (by simp))).trans (ih hl fun x hx => ?_)
    exact disownPage_owns (owned x (by simp [hx])) fun e => hq (e ▸ hx)

theorem mem_ownedPages {p : Port} {q : PageNo} :
    q ∈ s.pagesWhere (fun _ r => r.state == .allocated && r.owner == some p) ↔ s.owns p q = true := by
  rw [State.pagesWhere, mem_indexesWhere]; rfl

theorem ownershipStep_balanced (p : Port) : Balanced s (s.ownershipStep p) :=
  disownAll_balanced p _ (nodup_indexesWhere _ _) fun _ hq => mem_ownedPages.mp hq

/-! ## The Frame Map Unit -/

theorem setEntry_quiet (p : Port) (set : MapSet) (f : FrameNo) (e : FrameEntry) : Quiet s (s.setEntry p set f e) :=
  .of_eq rfl rfl rfl rfl rfl rfl

theorem mapTaken_balanced {p : Port} {t : Tag} {set : MapSet} {f : FrameNo} {q : PageNo} {a : Access} (used : (s.page q).inUse) :
    Balanced s (s.mapTaken p t set f q a) := by
  simp only [State.mapTaken]
  cases h : s.resolve p set f with
  | none => exact Balanced.trans (.one fun _ => .enable p set f q a h used) (answer_balanced _ _ _ _ _)
  | some e =>
    refine Balanced.trans ?_ (answer_balanced _ _ _ _ _)
    simp only [State.mapClaim]
    split
    · next same => exact .quiet (.single (.entryAccess p set f _ (by simp [h, same]))) (setEntry_quiet _ _ _ _)
    · next other => exact Balanced.trans (.one fun _ => .replace p set f e q a h other used) (settleBank_balanced _ _)

theorem mapFrame_balanced (p : Port) (t : Tag) (set : MapSet) (frame : Byte) (page : Half) (a : Access) :
    Balanced s (s.mapFrame p t set frame page a) := by
  unfold State.mapFrame
  split
  · split
    · next h => exact mapTaken_balanced (inUse_of_allows h)
    · exact answer_balanced _ _ _ _ _
  all_goals exact answer_balanced _ _ _ _ _

theorem unmapFrame_balanced (p : Port) (t : Tag) (set : MapSet) (frame : Byte) : Balanced s (s.unmapFrame p t set frame) := by
  unfold State.unmapFrame
  split
  · exact answer_balanced _ _ _ _ _
  split
  · exact answer_balanced _ _ _ _ _
  · next h =>
    exact Balanced.trans (Balanced.trans (.one fun _ => .disable p set _ _ h) (answer_balanced _ _ _ _ _)) (settleBank_balanced s _)

theorem selectFrames_quiet (p : Port) (t : Tag) (set : MapSet) : Quiet s (s.selectFrames p t set) := by
  unfold State.selectFrames
  split
  · exact .modPort _ _
  split
  · exact .modPort _ _
  split <;> exact .of_eq rfl rfl rfl rfl rfl rfl

theorem downgradeEntry_balanced (p : Port) (x : MapSet × FrameNo) : Balanced s (s.downgradeEntry p x) :=
  .quiet (downgradeEntry_moves p x) (setEntry_quiet _ _ _ _)

theorem disableEntry_balanced (p : Port) (x : MapSet × FrameNo) : Balanced s (s.disableEntry p x) := by
  unfold State.disableEntry
  split
  · exact .refl
  · next h => exact Balanced.trans (.one fun _ => .disable p x.1 x.2 _ h) (settleBank_balanced _ _)

theorem offerMapChanged_balanced (target : Port) (q : PageNo) (pairs : List ChangedEntry) :
    Balanced s (s.offerMapChanged target q pairs) := by
  simp only [State.offerMapChanged]
  split
  · exact .refl
  split
  · exact offer_balanced _ _
  · exact (offer_balanced _ _).trans (offer_balanced _ _)

theorem grantTaken_balanced {p : Port} {t : Tag} {q : PageNo} {target : Port} {right : Right}
    (allocated : (s.page q).state = .allocated) : Balanced s (s.grantTaken p t q target right) := by
  have set : Balanced s (s.setGrant q target right) := .one fun _ => .setGrant q target right allocated
  have removed : ∀ l : List (MapSet × FrameNo), Balanced s
      ((l.foldl (fun s x => s.disableEntry target x) (s.setGrant q target right)).answer p t 0x12 .ok) := fun l =>
    (set.trans (Balanced.foldl (fun _ x => disableEntry_balanced _ x) l _)).trans (answer_balanced _ _ _ _ _)
  simp only [State.grantTaken]
  split
  · exact ((set.trans (Balanced.foldl (fun _ x => downgradeEntry_balanced _ x) _ _)).trans (answer_balanced _ _ _ _ _)).trans
      (offerMapChanged_balanced _ _ _)
  · exact (removed _).trans (offerMapChanged_balanced _ _ _)
  · exact (removed _).trans (offerMapChanged_balanced _ _ _)
  all_goals exact set.trans (answer_balanced _ _ _ _ _)

theorem grant_balanced (p : Port) (t : Tag) (page : Half) (target : Byte) (right : Right) :
    Balanced s (s.grant p t page target right) := by
  unfold State.grant
  split
  · split
    · exact answer_balanced _ _ _ _ _
    split
    · exact answer_balanced _ _ _ _ _
    split
    · exact answer_balanced _ _ _ _ _
    next owned _ _ => exact grantTaken_balanced (owns_iff.mp (by simpa using owned)).1
  all_goals exact answer_balanced _ _ _ _ _

/-! ## The Access Unit and the end of CLOSING -/

theorem checkAccess_named {p : Port} {frame : Byte} {offset : Half} {kind : StoreKind} {q : PageNo}
    (h : s.checkAccess p frame offset kind = .ok q) : s.Named q := by
  unfold State.checkAccess at h
  split at h
  · cases h
  split at h
  · cases h
  split at h
  · cases h
  next resolved =>
  split at h
  · cases h
  split at h
  · cases h
  split at h
  · cases h
  · cases h
    exact resolvePresent_named resolved

theorem access_balanced (p : Port) (t : Tag) (frame : Byte) (offset : Half) (kind : StoreKind) :
    Balanced s (s.access p t frame offset kind) := by
  unfold State.access
  split
  · exact answer_balanced _ _ _ _ _
  · next h => exact .one fun _ => .place p t _ _ kind (checkAccess_named h)

theorem closedCheck_quiet (p : Port) : Quiet s (s.closedCheck p) := by
  have answered : ∀ v : State, Quiet v (v.answerClose p) := fun v => by
    unfold State.answerClose
    split
    · split
      · exact .refl
      · exact .modPort _ _
    · exact .refl
  have told : ∀ v : State, Quiet v (v.offerPortDown p) := fun v => by
    unfold State.offerPortDown
    split
    · split
      · exact .refl
      · exact .modPort _ _
    all_goals exact .refl
  unfold State.closedCheck
  split
  · exact (((Quiet.modPort _ _).trans (answered _)).trans (told _)).trans (.modPort _ _)
  · exact .refl

theorem closedCheck_balanced (p : Port) : Balanced s (s.closedCheck p) := .quiet (closedCheck_moves p) (closedCheck_quiet p)

/-! ## The Copy Engine -/

theorem reportJobEnd_balanced (j : Job) (outcome : JobOutcome) : Balanced s (s.reportJobEnd j outcome) := by
  refine .quiet (reportJobEnd_moves j outcome) ?_
  unfold State.reportJobEnd
  split
  · exact .modPort _ _
  · exact (Quiet.modPort _ _).trans (closedCheck_quiet _)

/-- A job of the queue leaves it, and its unpin claims pay for its places. -/
theorem leaveQueue_balanced {j x : Job} (queued : x ∈ s.jobs) (id : x.id = j.id) (pages : x.pages = j.pages) :
    Balanced s ((s.removeJob j.id).unpinJob j) := fun o => by
  have left : Turn (s, o) (s.removeJob x.id, x.pages ++ o) := .removeJob x queued
  rw [id, pages] at left
  exact (Turns.one left).trans (unpinClaims_turns j.pages o)

theorem finishJob_balanced {j x : Job} (queued : x ∈ s.jobs) (id : x.id = j.id) (pages : x.pages = j.pages)
    (outcome : JobOutcome) : Balanced s (s.finishJob j outcome) :=
  (leaveQueue_balanced queued id pages).trans (reportJobEnd_balanced j outcome)

theorem modJob_quiet (id : Byte) {f : Job → Job} (same : ∀ j, (f j).id = j.id ∧ (f j).pages = j.pages) :
    Quiet s (s.modJob id f) := .modJob id same

theorem activate_balanced {j : Job} (idle : s.activeJob = none) (mem : j ∈ s.jobs) : Balanced s (s.activate j) :=
  .quiet (.single (.activate j idle mem))
    (Quiet.trans (u := s.modJob j.id fun x => { x with state := .active }) (.modJob j.id fun _ => ⟨rfl, rfl⟩)
      (.of_eq rfl rfl rfl rfl rfl rfl))

/-- The job made ACTIVE is in the queue. -/
theorem activate_mem {j : Job} (mem : j ∈ s.jobs) : { j with state := .active } ∈ (s.activate j).jobs :=
  List.mem_map.mpr ⟨j, mem, if_pos rfl⟩

theorem placeCopyOp_balanced (id : Byte) (kind : StoreKind) (place : PageNo × Nat) :
    Balanced s (s.placeCopyOp id kind place) := .quiet (placeCopyOp_moves _ _ _) (.of_eq rfl rfl rfl rfl rfl rfl)

theorem runChoice_balanced (n : Nat) : Balanced s (State.runChoice n s) := by
  induction n generalizing s with
  | zero => exact .refl
  | succ n ih =>
    rw [State.runChoice]
    split
    · exact .refl
    next idle =>
    split
    · exact .refl
    next j next =>
    have act := activate_balanced idle (nextJob_mem next)
    split
    · exact act.trans (placeCopyOp_balanced _ _ _)
    · exact (act.trans (finishJob_balanced (activate_mem (nextJob_mem next)) rfl rfl _)).trans ih

theorem choose_balanced : Balanced s s.choose := runChoice_balanced _

theorem decisionPoint_balanced {j x : Job} (queued : x ∈ s.jobs) (id : x.id = j.id) (pages : x.pages = j.pages) :
    Balanced s (s.decisionPoint j) := by
  unfold State.decisionPoint
  split
  · exact placeCopyOp_balanced _ _ _
  · exact (finishJob_balanced queued id pages _).trans choose_balanced

/-- What a traversal in Option delivers comes of its elements. -/
theorem mem_of_mapM {α β : Type} {f : α → Option β} {l : List α} {ys : List β} (h : l.mapM f = some ys) :
    ∀ y ∈ ys, ∃ x ∈ l, f x = some y := by
  induction l generalizing ys with
  | nil => cases h; nofun
  | cons x l ih =>
    rw [List.mapM_cons] at h
    obtain ⟨y, hy, h⟩ := Option.bind_eq_some_iff.mp h
    obtain ⟨ys', hys, h⟩ := Option.bind_eq_some_iff.mp h
    cases h
    intro z hz
    rcases List.mem_cons.mp hz with rfl | hz
    · exact ⟨x, by simp, hy⟩
    · obtain ⟨w, hw, e⟩ := ih hys z hz
      exact ⟨w, by simp [hw], e⟩

/-- The pages of a range that resolves are named by entries (R7, R104). -/
theorem resolveRange_named {p : Port} {set : MapSet} {frame offset length : Nat} {es : List Entry}
    (h : s.resolveRange p set frame offset length = some es) : ∀ q ∈ es.map (·.page), s.Named q := by
  intro q hq
  obtain ⟨e, he, rfl⟩ := List.mem_map.mp hq
  obtain ⟨i, _, hi⟩ := mem_of_mapM h e he
  obtain ⟨f, _, hf⟩ := Option.bind_eq_some_iff.mp hi
  exact ⟨p, set, f, e, hf, rfl⟩

theorem acceptJob_balanced {p : Port} {t : Tag} {code : Byte} {kind : JobKind} {dstSet : MapSet} {dstPages : List PageNo}
    {dstStart length : Nat} (room : s.jobsFull p = false)
    (named : ∀ q ∈ (newJob (s.freeId Config.jobPlaces s.nextJobId) p kind dstSet dstPages dstStart length).pages, s.Named q) :
    Balanced s (s.acceptJob p t code kind dstSet dstPages dstStart length) := by
  simp only [State.jobsFull, Bool.or_eq_false_iff, decide_eq_false_iff_not, Nat.not_le] at room
  refine Balanced.trans ?_ choose_balanced
  refine Balanced.trans ?_ (answer_balanced _ _ _ _ _)
  exact .one fun _ => .acceptJob _ _ room.1 room.2 (freeId_fresh room.1 _) rfl named

theorem copy_balanced (p : Port) (t : Tag) (ss : SetCode) (sf : Byte) (so : Half) (ds : SetCode) (df : Byte) (dOff : Half)
    (n : Word) : Balanced s (s.copy p t ss sf so ds df dOff n) := by
  simp only [State.copy]
  split
  · exact answer_balanced _ _ _ _ _
  split
  · next src dst =>
    split
    · exact answer_balanced _ _ _ _ _
    split
    · exact answer_balanced _ _ _ _ _
    split
    · exact answer_balanced _ _ _ _ _
    · next room =>
      refine acceptJob_balanced (by simpa using room) fun q hq => ?_
      exact (List.mem_append.mp hq).elim (resolveRange_named src q) (resolveRange_named dst q)
  all_goals exact answer_balanced _ _ _ _ _

theorem fill_balanced (p : Port) (t : Tag) (ds : SetCode) (df : Byte) (dOff : Half) (n pattern : Word) :
    Balanced s (s.fill p t ds df dOff n pattern) := by
  simp only [State.fill]
  split
  · exact answer_balanced _ _ _ _ _
  split
  · exact answer_balanced _ _ _ _ _
  next dst =>
  split
  · exact answer_balanced _ _ _ _ _
  split
  · exact answer_balanced _ _ _ _ _
  · next room => exact acceptJob_balanced (by simpa using room) (resolveRange_named dst)

theorem jobOf_some {p : Port} {id : Byte} {j : Job} (h : s.jobOf p id = some j) : j ∈ s.jobs ∧ j.id = id ∧ j.port = p := by
  have := List.find?_some h
  simp only [Bool.and_eq_true, beq_iff_eq] at this
  exact ⟨List.mem_of_find?_eq_some h, this.1, this.2⟩

theorem cancel_balanced (p : Port) (t : Tag) (id : Byte) : Balanced s (s.cancel p t id) := by
  unfold State.cancel
  split
  · exact answer_balanced _ _ _ _ _
  · next j found =>
    obtain ⟨mem, rfl, -⟩ := jobOf_some found
    split
    · have leave : Balanced (s.answer p t 0x52 .ok) (((s.answer p t 0x52 .ok).removeJob j.id).unpinJob j) :=
        leaveQueue_balanced (x := j) mem rfl rfl
      exact ((answer_balanced _ _ _ _ _).trans leave).trans (offer_balanced _ _)
    · exact Balanced.trans (.quiet (.single (.cancelJob _)) (.modJob _ fun _ => ⟨rfl, rfl⟩)) (answer_balanced _ _ _ _ _)

/-! ## The switch and the completions -/

theorem handHeld_balanced (p : Port) (t : Tag) (r : Request) : Balanced s (s.handHeld p t r) := by
  unfold State.handHeld
  split
  · exact access_balanced _ _ _ _ _
  · exact acquire_balanced _ _ _ _ _ _
  · exact copy_balanced _ _ _ _ _ _ _ _ _
  · exact fill_balanced _ _ _ _ _ _ _
  all_goals exact .refl

theorem releaseHeld_balanced (p : Port) (x : Slot) : Balanced s (s.releaseHeld p x) :=
  Balanced.trans (.quiet (.single (.port p _ (.setSlot _ x.tag .inFlight))) (.modPort _ _)) (handHeld_balanced p x.tag x.request)

theorem switchTo_balanced (p : Port) (set : MapSet) : Balanced s (s.switchTo p set) := by
  simp only [State.switchTo]
  refine Balanced.trans ?_ (Balanced.foldl (fun _ x => releaseHeld_balanced p x) _ _)
  refine Balanced.trans (.quiet (.single (.selection p (fun m => { m with present := set, pendingSet := none }) rfl rfl))
    (.of_eq rfl rfl rfl rfl rfl rfl)) ?_
  unfold State.answerSelect
  split
  · exact .refl
  · exact answer_balanced _ _ _ _ _

theorem switchCheck_balanced (p : Port) : Balanced s (s.switchCheck p) := by
  unfold State.switchCheck
  split
  · exact .refl
  · split
    · exact switchTo_balanced _ _
    · exact .refl

theorem endAccess_balanced (p : Port) : Balanced s (s.endAccess p) := by
  unfold State.endAccess
  refine Balanced.trans ?_ (closedCheck_balanced p)
  refine Balanced.trans ?_ (switchCheck_balanced p)
  exact .quiet ((Moves.one (.selection p _ rfl rfl)).trans (.single (.port p _ (.inFlight _ _)))) (.of_eq rfl rfl rfl rfl rfl rfl)

theorem replyAccess_balanced (p : Port) (t : Tag) (code : Byte) (st : Status) (pay : Payload) :
    Balanced s (s.replyAccess p t code st pay) := by
  refine .quiet (replyAccess_moves _ _ _ _ _) ?_
  unfold State.replyAccess
  split <;> exact .modPort _ _

/-- The record of an access, taken from the records, is one use of its page less. -/
def State.OneAccess (s : State) (p : Port) (t : Tag) (q : PageNo) : Prop :=
  ∀ x, ((s.dropAccess p t).accesses.filter (·.page == x)).length + (if x = q then 1 else 0) =
    (s.accesses.filter (·.page == x)).length

theorem completeAccess_balanced {p : Port} {t : Tag} {op : StoreOp} (one : s.OneAccess p t op.page) (st : Status) (pay : Payload) :
    Balanced s (s.completeAccess p t op st pay) := by
  refine Balanced.trans (fun o => ?_) ((replyAccess_balanced _ _ _ _ _).trans (endAccess_balanced p))
  exact (Turns.one (.dropAccess p t op.page one)).trans (unpinClaim_turns op.page o)

theorem befall_quiet : Quiet s s.befall := by rw [befall_rest]; exact .of_eq rfl rfl rfl rfl rfl rfl

theorem befallBad_quiet (op : StoreOp) : Quiet s (s.befallBad op) := by
  rw [befallBad_rest]; exact .of_eq rfl rfl rfl rfl rfl rfl

theorem popOp_quiet (b : BankNo) (m : Pool) : Quiet s (s.popOp b m) := .of_eq rfl rfl rfl rfl rfl rfl

end Sys2Proof.Machine

namespace Sys2Proof.Machine

variable {s u v : State}

/-! ## Sessions and the Supervisor Unit -/

theorem dropJob_balanced (p : Port) (id : Byte) : Balanced s (s.dropJob p id) := by
  unfold State.dropJob
  split
  · exact .refl
  · next found =>
    obtain ⟨mem, rfl, -⟩ := jobOf_some found
    exact leaveQueue_balanced mem rfl rfl

theorem markActive_balanced (p : Port) : Balanced s (s.markActive p) := by
  refine .quiet (markActive_moves p) ?_
  unfold State.markActive
  split
  · exact .modPort _ _
  · split
    · refine Quiet.trans (Quiet.modJob _ ?_) (.modPort p _)
      exact fun _ => ⟨rfl, rfl⟩
    · exact .modPort _ _

theorem tearDownPart_balanced (p : Port) (x : TeardownPart) : Balanced s (s.tearDownPart p x) := by
  unfold State.tearDownPart
  split
  · exact .quiet (unlockForTeardown_moves _ _) (unlockForTeardown_quiet _ _)
  · exact disableEntry_balanced _ _
  · exact dropJob_balanced _ _
  · exact markActive_balanced _
  · exact ownershipStep_balanced _
  · exact .one fun _ => .clearGrants _
  · exact closedCheck_balanced _

theorem tearDownShares_balanced (p : Port) : Balanced s (s.tearDownShares p) := by
  have rescheduled : Balanced s { s with schedule := (interleave s.schedule (s.teardownShares p)).2.tail } :=
    .quiet (.single (.schedule _)) (.of_eq rfl rfl rfl rfl rfl rfl)
  exact rescheduled.trans (Balanced.foldl (f := fun s x => State.tearDownPart s p x) (fun _ x => tearDownPart_balanced p x) _ _)

theorem enterClosing_balanced {p : Port} {reason : CloseReason} (opened : (s.port p).session = .opened) :
    Balanced s (s.enterClosing p reason) := by
  refine Balanced.trans ?_ (tearDownShares_balanced p)
  refine Balanced.trans (.quiet (.single (.beginClosing p reason opened)) (.of_eq rfl rfl rfl rfl rfl rfl)) ?_
  cases reason with
  | ejected => exact offer_balanced _ _
  | closed => exact .refl
  | linkLost => exact .refl

theorem openPort_balanced (p : Port) (t : Tag) : Balanced s (s.openPort p t) := by
  refine .quiet (openPort_moves p t) ?_
  unfold State.openPort
  split
  · exact .of_eq rfl rfl rfl rfl rfl rfl
  all_goals exact .modPort _ _

theorem claim_balanced {p : Port} {t : Tag} (opened : (s.port p).session = .opened) : Balanced s (s.claim p t) := by
  refine .quiet (claim_moves opened) ?_
  unfold State.claim
  split
  · exact .of_eq rfl rfl rfl rfl rfl rfl
  · split <;> exact .modPort _ _

theorem handover_balanced (p : Port) (t : Tag) (target : Byte) : Balanced s (s.handover p t target) := by
  refine .quiet (handover_moves p t target) ?_
  unfold State.handover
  split
  · exact .modPort _ _
  split
  · exact .modPort _ _
  split
  · exact .modPort _ _
  · exact .of_eq rfl rfl rfl rfl rfl rfl

/-- A CONFIGURE that passes its checks sets no quota below the port's owned count (R198). -/
theorem write_quota {f : ConfigFields} (enough : s.quotaTooLow f = false) (p : Port) (within : s.ownedBy p ≤ s.config.quota[p]) :
    s.ownedBy p ≤ (s.config.write f).quota[p] := by
  simp only [State.quotaTooLow, List.any_eq_false, List.mem_finRange, true_implies] at enough
  have named := enough p
  simp only [ConfigRec.write, Fin.getElem_fin, getElem_mapEach]
  simp only [Fin.getElem_fin] at named within
  cases h : f.quotas[p.val] with
  | none => simpa [h] using within
  | some n => simpa [h] using named

theorem configure_balanced (p : Port) (t : Tag) (f : ConfigFields) : Balanced s (s.configure p t f) := by
  simp only [State.configure]
  split
  · exact answer_balanced _ _ _ _ _
  split
  · exact answer_balanced _ _ _ _ _
  next enough =>
  have set : Balanced s ({ s with config := s.config.write f }.answer p t 0x60 .ok (.config (s.config.write f))) :=
    Balanced.trans (.one fun _ => .config _ (write_quota (by simpa using enough))) (answer_balanced _ _ _ _ _)
  split
  · exact set.trans (Balanced.foldl (fun _ b => retireLimitCheck_balanced b) _ _)
  · exact set

theorem eject_balanced (p : Port) (t : Tag) (target : Byte) : Balanced s (s.eject p t target) := by
  unfold State.eject
  split
  · exact answer_balanced _ _ _ _ _
  split
  · exact answer_balanced _ _ _ _ _
  split
  · exact answer_balanced _ _ _ _ _
  · next opened =>
    exact (answer_balanced _ _ _ _ _).trans
      (enterClosing_balanced (by rw [answer_session]; simpa [State.isOpen] using opened))

/-! ## Requests -/

theorem handOver_balanced {p : Port} {t : Tag} {r : Request} (h : r.passesUnopened = true ∨ (s.port p).session = .opened) :
    Balanced s (s.handOver p t r) := by
  unfold State.handOver
  split
  · exact openPort_balanced _ _
  · exact enterClosing_balanced (by simpa [Request.passesUnopened] using h)
  · exact answer_balanced _ _ _ _ _
  · exact claim_balanced (by simpa [Request.passesUnopened] using h)
  · exact handover_balanced _ _ _
  · exact alloc_balanced _ _ _
  · exact free_balanced _ _ _
  · exact grant_balanced _ _ _ _ _
  · unfold State.pageQuery; split <;> exact answer_balanced _ _ _ _ _
  · exact mapFrame_balanced _ _ _ _ _ _
  · exact unmapFrame_balanced _ _ _ _
  · exact .quiet (selectFrames_moves _ _ _) (selectFrames_quiet _ _ _)
  · simp only [State.mapQuery]; split <;> exact answer_balanced _ _ _ _ _
  · exact handHeld_balanced _ _ _
  · exact handHeld_balanced _ _ _
  · exact .quiet (release_moves _ _ _) (release_quiet _ _ _)
  · exact .quiet (renew_moves _ _ _ _) (renew_quiet _ _ _ _)
  · exact handHeld_balanced _ _ _
  · exact handHeld_balanced _ _ _
  · exact cancel_balanced _ _ _
  · unfold State.jobQuery; split <;> exact answer_balanced _ _ _ _ _
  · exact configure_balanced _ _ _
  · exact drain_balanced _ _ _
  · exact restore_balanced _ _ _
  · exact eject_balanced _ _ _
  · exact answer_balanced _ _ _ _ _

theorem take_balanced {p : Port} {t : Tag} {r : Request} (h : s.portCheck p t r = none) : Balanced s (s.take p t r) := by
  obtain ⟨opened, fresh, room, _⟩ := portCheck_none h
  have occupy : ∀ st, Balanced s (s.occupy p t r st) := fun st =>
    .quiet (.single (.port p _ (.occupy _ { tag := t, request := r, state := st } fresh room))) (.modPort _ _)
  unfold State.take
  split
  · exact occupy _
  · exact (occupy _).trans (handOver_balanced (by simpa [State.occupy] using opened))

theorem judge_balanced (p : Port) (t : Tag) (code : Byte) (m : Parsed) : Balanced s (s.judge p t code m) := by
  unfold State.judge
  split
  · exact .refl
  · split
    · exact refuse_balanced _ _ _ _
    · exact refuse_balanced _ _ _ _
    · split
      · exact refuse_balanced _ _ _ _
      · next h => exact take_balanced h

/-- A command's effect made under a condition. -/
theorem ite_balanced {c : Prop} [Decidable c] (h : c → Balanced s u) : Balanced s (if c then u else s) := by
  split
  · next hc => exact h hc
  · exact .refl

theorem receive_balanced (p : Port) (t : Tag) (code : Byte) (m : Parsed) : Balanced s (s.receive p t code m) :=
  ite_balanced fun _ => judge_balanced _ _ _ _

/-! ## The line, the timers and start-up -/

theorem setRx_balanced (p : Port) (rx : RxState) (gap : Option Nat) : Balanced s (s.setRx p rx gap) :=
  .quiet (setRx_moves p rx gap) (.modPort _ _)

theorem reject_balanced (p : Port) (rx : RxState) (gap : Option Nat) (reason : RejectReason) :
    Balanced s (s.reject p rx gap reason) := (setRx_balanced p rx gap).trans (offer_balanced _ _)

theorem frameComplete_balanced (p : Port) (body : List Byte) : Balanced s (s.frameComplete p body) := by
  unfold State.frameComplete
  split
  · exact .refl
  · split
    · unfold State.judgeBody
      split
      · exact judge_balanced _ _ _ _
      all_goals exact .refl
    · exact offer_balanced _ _

theorem receiveByte_balanced (p : Port) (b : Byte) : Balanced s (s.receiveByte p b) := by
  simp only [State.receiveByte]
  split
  · split
    · exact setRx_balanced _ _ _
    · exact .refl
  · split
    · exact setRx_balanced _ _ _
    · exact reject_balanced _ _ _ _
  · split <;> exact setRx_balanced _ _ _
  · exact setRx_balanced _ _ _
  · split
    · exact (setRx_balanced _ _ _).trans (frameComplete_balanced _ _)
    · exact reject_balanced _ _ _ _
  · exact setRx_balanced _ _ _

theorem receiveError_balanced (p : Port) : Balanced s (s.receiveError p) := by
  refine .quiet (receiveError_moves p) ?_
  simp only [State.receiveError]
  split
  · exact .refl
  all_goals exact .of_eq rfl rfl rfl rfl rfl rfl

theorem gapRunOut_quiet (p : Port) : Quiet s (s.gapRunOut p) := by
  unfold State.gapRunOut
  split
  · exact .of_eq rfl rfl rfl rfl rfl rfl
  · exact .refl

theorem resyncRunOut_quiet (p : Port) : Quiet s (s.resyncRunOut p) := by
  unfold State.resyncRunOut
  split
  · exact .modPort _ _
  · exact .refl

theorem breakBegins_balanced (p : Port) : Balanced s (s.breakBegins p) := by
  simp only [State.breakBegins]
  split
  · exact .refl
  split
  · have off : Balanced s (s.modPort p (·.breakOff)) := .quiet (.single (.port p _ (.breakOff _))) (.modPort _ _)
    split
    · next opened => exact off.trans (enterClosing_balanced (by simpa [State.isOpen, PortCtl.breakOff] using opened))
    · exact off
  · next running =>
    exact .quiet (.single (.lineBreak p true (by simpa [State.isRunning] using running))) (.modPort _ _)

theorem breakEnds_balanced (p : Port) : Balanced s (s.breakEnds p) := by
  refine .quiet (breakEnds_moves p) ?_
  unfold State.breakEnds
  split
  · exact .refl
  split <;> exact .modPort _ _

theorem dueGaps_quiet (l : List Port) : Quiet s (l.foldl State.takeGapDue s) :=
  Quiet.foldl (f := State.takeGapDue) (fun _ p => (gapRunOut_quiet p).trans (resyncRunOut_quiet p)) l s

theorem dueLeases_quiet (l : List (PageNo × Port)) : Quiet s (l.foldl (fun s x => State.leaseRunOut s x.1 x.2) s) :=
  Quiet.foldl (fun _ x => leaseRunOut_quiet x.1 x.2) l s

theorem dueWaits_quiet (l : List (PageNo × Port)) : Quiet s (l.foldl (fun s x => State.waitRunOut s x.1 x.2) s) :=
  Quiet.foldl (fun _ x => waitRunOut_quiet x.1 x.2) l s

theorem takeDue_quiet : Quiet s s.takeDue := ((dueGaps_quiet _).trans (dueLeases_quiet _)).trans (dueWaits_quiet _)

theorem lowerTimers_quiet : Quiet s s.lowerTimers := by
  refine ⟨rfl, rfl, rfl, rfl, rfl, fun l hl => ?_⟩
  obtain ⟨l', hl', rfl⟩ := List.mem_map.mp hl
  exact ⟨l', hl', rfl⟩

theorem enterRunning_quiet (straps : Vector Straps 4) : Quiet s (s.enterRunning straps) :=
  Quiet.trans (u := { s with phase := .running, straps := straps, ports := mapEach s.ports (fun _ c => c.silence) })
    (.of_eq rfl rfl rfl rfl rfl rfl) (Quiet.foldl (fun _ _ => .modPort _ _) _ _)

theorem carryOp_quiet (b : BankNo) (outcome : StoreOutcome) : Quiet s (s.carryOp b outcome) := by
  unfold State.carryOp
  split
  · exact .refl
  · simp only
    split
    · exact (befallBad_quiet _).trans (.of_eq rfl rfl rfl rfl rfl rfl)
    · exact befall_quiet.trans (.of_eq rfl rfl rfl rfl rfl rfl)

/-! ## Store completions

A completion of an access does two things before its turns: it takes its record away, owing the unpin claim, and an
uncorrectable one poisons the page. -/

/-- What a command does to the books before its turns. -/
inductive Front (s : State) : Books → Prop
  | none : Front s (s, [])
  | good (b : BankNo) (op : StoreOp) (rest : List StoreOp) (p : Port) (t : Tag) (running : s.phase = .running)
      (head : s.queue b = op :: rest) (origin : op.origin = .access p t) :
      Front s ((s.befall.popOp b (op.store s.befall.pool)).dropAccess p t, [op.page])
  | bad (b : BankNo) (op : StoreOp) (rest : List StoreOp) (p : Port) (t : Tag) (running : s.phase = .running)
      (head : s.queue b = op :: rest) (origin : op.origin = .access p t) :
      Front s ((((s.befallBad op).poison op.page).popOp b (s.befallBad op).pool).dropAccess p t, [op.page])
  | copyBad (b : BankNo) (op : StoreOp) (rest : List StoreOp) (id : Byte) (n : Nat) (running : s.phase = .running)
      (head : s.queue b = op :: rest) (origin : op.origin = .copy id) (read : op.kind = .read n) :
      Front s (((s.befallBad op).poison op.page).popOp b (s.befallBad op).pool, [])

theorem Balanced.front (h : Balanced s u) : ∃ x, Front s x ∧ Turns x (u, []) := ⟨_, .none, h []⟩

theorem completeAccess_turns (p : Port) (t : Tag) (op : StoreOp) (st : Status) (pay : Payload) :
    Turns (s.dropAccess p t, [op.page]) (s.completeAccess p t op st pay, []) :=
  (unpinClaim_turns op.page []).trans (((replyAccess_balanced p t _ st pay).trans (endAccess_balanced p)) [])

theorem accessGood_front (b : BankNo) (running : s.phase = .running) : ∃ x, Front s x ∧ Turns x (s.accessGood b, []) := by
  unfold State.accessGood
  split
  · exact Balanced.refl.front
  · next op rest head =>
    split
    · exact Balanced.refl.front
    · next p t origin =>
      simp only
      split
      · exact ⟨_, .good b op rest p t running head origin, completeAccess_turns _ _ _ _ _⟩
      · exact Balanced.refl.front

theorem accessBad_front (b : BankNo) (running : s.phase = .running) : ∃ x, Front s x ∧ Turns x (s.accessBad b, []) := by
  unfold State.accessBad
  split
  · exact Balanced.refl.front
  · next op rest head =>
    split
    · exact Balanced.refl.front
    · next p t origin =>
      split
      · exact ⟨_, .bad b op rest p t running head origin, completeAccess_turns _ _ _ _ _⟩
      · exact Balanced.refl.front

theorem activeJob_mem {j : Job} (h : s.activeJob = some j) : j ∈ s.jobs := List.mem_of_find?_eq_some h

theorem copyReadGood_balanced (b : BankNo) : Balanced s (s.copyReadGood b) := by
  refine .quiet (copyReadGood_moves b) ?_
  unfold State.copyReadGood
  split
  · exact .refl
  · split
    · simp only
      split
      · split <;> exact befall_quiet.trans (.of_eq rfl rfl rfl rfl rfl rfl)
      · exact .refl
    all_goals exact .refl

theorem copyReadBad_front (b : BankNo) (running : s.phase = .running) : ∃ x, Front s x ∧ Turns x (s.copyReadBad b, []) := by
  unfold State.copyReadBad
  split
  · exact Balanced.refl.front
  · next op rest head =>
    split
    · next id n origin read =>
      simp only
      have front := Front.copyBad b op rest id n running head origin read
      split
      · exact ⟨_, front, .refl⟩
      · next j active =>
        have mem : j ∈ (((s.befallBad op).poison op.page).popOp b (s.befallBad op).pool).jobs := by
          show j ∈ (s.befallBad op).jobs
          rw [befallBad_jobs]; exact activeJob_mem active
        exact ⟨_, front, ((finishJob_balanced mem rfl rfl _).trans choose_balanced) []⟩
    all_goals exact Balanced.refl.front

theorem copyWriteGood_balanced (b : BankNo) : Balanced s (s.copyWriteGood b) := by
  unfold State.copyWriteGood
  split
  · exact .refl
  · next op rest head =>
    split
    · next id data _ _ =>
      simp only
      have popped : Balanced s { s.befall.popOp b (op.store s.befall.pool) with segment := [] } :=
        .quiet ((befall_moves.trans (.single (.pop b op rest _ (by simpa using head) (.inr rfl)))).trans (.single (.segment _)))
          (befall_quiet.trans (.of_eq rfl rfl rfl rfl rfl rfl))
      split
      · exact popped
      · next j active =>
        have mem : j ∈ s.befall.jobs := by rw [befall_jobs]; exact activeJob_mem active
        have moved : { j with bytesDone := j.bytesDone + data.length } ∈
            ({ s.befall.popOp b (op.store s.befall.pool) with segment := [] }.modJob j.id fun x =>
              { x with bytesDone := x.bytesDone + data.length }).jobs := List.mem_map.mpr ⟨j, mem, if_pos rfl⟩
        exact (popped.trans (.quiet (.single (.jobBytes _ _)) (.modJob _ fun _ => ⟨rfl, rfl⟩))).trans
          (decisionPoint_balanced moved rfl rfl)
    all_goals exact .refl

/-! ## Commands -/

theorem releaseReset_turns : Turns (s, []) (s.releaseReset, []) := by
  simp only [State.releaseReset]
  have released : Turns (s, []) ({ s with resetAsserted := false }, []) :=
    .single (.quiet (.single .released) (.of_eq rfl rfl rfl rfl rfl rfl))
  refine released.trans ?_
  split
  · exact .refl
  · split
    · exact .single .resetLine
    · exact .single (.clear _ _ _)

/-- A command's effect made under a condition. -/
theorem ite_front {c : Prop} [Decidable c] (h : c → ∃ x, Front s x ∧ Turns x (u, [])) :
    ∃ x, Front s x ∧ Turns x (if c then u else s, []) := by
  split
  · next hc => exact h hc
  · exact Balanced.refl.front

theorem isRunning_iff : s.isRunning = true ↔ s.phase = .running := beq_iff_eq

/-- Every command is its front part and a sequence of turns that owes nothing at its end. -/
theorem exec_turns (i : Instr) (s : State) : ∃ u, exec i s = .next u ∧ ∃ x, Front s x ∧ Turns x (u, []) := by
  cases i
  case byteReceived p b => exact ⟨_, rfl, (ite_balanced fun _ => receiveByte_balanced p b).front⟩
  case characterError p => exact ⟨_, rfl, (ite_balanced fun _ => receiveError_balanced p).front⟩
  case breakBegins p => exact ⟨_, rfl, (breakBegins_balanced p).front⟩
  case breakEnds p => exact ⟨_, rfl, (breakEnds_balanced p).front⟩
  case gapTimerRunsOut p => exact ⟨_, rfl, (ite_balanced fun _ => .quiet (gapRunOut_moves p) (gapRunOut_quiet p)).front⟩
  case resyncEnd p => exact ⟨_, rfl, (ite_balanced fun _ => .quiet (resyncRunOut_moves p) (resyncRunOut_quiet p)).front⟩
  case lastByteSent p => exact ⟨_, rfl, (ite_balanced fun h => .quiet (.single (.port p _ (.sent _ h.2))) (.modPort _ _)).front⟩
  case tick =>
    exact ⟨_, rfl, (ite_balanced fun _ =>
      .quiet (takeDue_moves.trans (.single .lowerTimers)) (takeDue_quiet.trans lowerTimers_quiet)).front⟩
  case leaseExpiry q p => exact ⟨_, rfl, (ite_balanced fun _ => .quiet (leaseRunOut_moves q p) (leaseRunOut_quiet q p)).front⟩
  case waitTimeout q p => exact ⟨_, rfl, (ite_balanced fun _ => .quiet (waitRunOut_moves q p) (waitRunOut_quiet q p)).front⟩
  case grantStep q => exact ⟨_, rfl, (ite_balanced fun _ => .quiet (grantStep_moves q) (grantStep_quiet q)).front⟩
  case accessCompletionGood b => exact ⟨_, rfl, ite_front fun h => accessGood_front b (isRunning_iff.mp h)⟩
  case accessCompletionUncorrectable b => exact ⟨_, rfl, ite_front fun h => accessBad_front b (isRunning_iff.mp h)⟩
  case switch p => exact ⟨_, rfl, (ite_balanced fun _ => switchCheck_balanced p).front⟩
  case bankOffline b => exact ⟨_, rfl, (ite_balanced fun _ => bankOfflineCheck_balanced b).front⟩
  case jobChoice => exact ⟨_, rfl, (ite_balanced fun _ => choose_balanced).front⟩
  case copyReadComplete b => exact ⟨_, rfl, (ite_balanced fun _ => copyReadGood_balanced b).front⟩
  case copyReadUncorrectable b => exact ⟨_, rfl, ite_front fun h => copyReadBad_front b (isRunning_iff.mp h)⟩
  case copyWriteComplete b => exact ⟨_, rfl, (ite_balanced fun _ => copyWriteGood_balanced b).front⟩
  case closedReached p => exact ⟨_, rfl, (ite_balanced fun _ => closedCheck_balanced p).front⟩
  case powerOn =>
    refine ⟨_, rfl, _, .none, ?_⟩
    split
    · exact .single (.quiet (.single (.halt true s.resetAsserted .powerOn)) (.of_eq rfl rfl rfl rfl rfl rfl))
    · exact .single (.clear true s.resetAsserted .powerOn)
  case supplyFails =>
    exact ⟨_, rfl, (Balanced.quiet (.single (.halt false s.resetAsserted .powerOn)) (.of_eq rfl rfl rfl rfl rfl rfl)).front⟩
  case resetAsserted =>
    refine ⟨_, rfl, _, .none, ?_⟩
    split
    · exact .refl
    · exact .single (.quiet (.single (.halt s.supplyGood true s.startAfterAssertion)) (.of_eq rfl rfl rfl rfl rfl rfl))
  case resetReleased => exact ⟨_, rfl, ite_front fun _ => ⟨_, .none, releaseReset_turns⟩⟩
  case runningEntry =>
    exact ⟨_, rfl, (ite_balanced fun _ => .quiet (enterRunning_moves _) (enterRunning_quiet _)).front⟩
  case operationCarriedToEnd b outcome =>
    obtain ⟨u, hu, moves⟩ := exec_moves (.operationCarriedToEnd b outcome) s
    refine ⟨u, hu, (Balanced.quiet moves ?_).front⟩
    cases hu
    split
    · exact carryOp_quiet b outcome
    · exact .refl
  all_goals exact ⟨_, rfl, (receive_balanced _ _ _ _).front⟩

/-- A step is a front part and a sequence of turns, from the state with the rest of the queue. -/
theorem step_turns (h : step s = .next u) : u = s ∨ ∃ rest x, Front { s with pending := rest } x ∧ Turns x (u, []) := by
  unfold step at h
  split at h
  · cases h; exact .inl rfl
  · next c rest _ =>
    obtain ⟨v, hv, x, front, turns⟩ := exec_turns c { s with pending := rest }
    rw [hv] at h
    cases h
    exact .inr ⟨rest, x, front, turns⟩

end Sys2Proof.Machine

/-! # Every step keeps the directory, the marks and the pins (R2, R3, R5, R7, R8, R12, R131 to R133)

A command is a front part and turns (`exec_turns`). The front part is a completion's: it takes an access out of the records, and an
uncorrectable one poisons the page. In a sound state the operation's page is in use, and the record is its only one. -/
namespace Sys2Proof.Machine

variable {s u : State}

/-! ## The operation at the head of a bank queue -/

/-- A record that leaves is one use of its page less, when no two records bear one tag (R54). -/
theorem count_dropAccess {l : List AccessRec} (once : (l.map fun r => (r.port, r.tag)).Nodup) {r : AccessRec} (mem : r ∈ l)
    (q : PageNo) :
    ((l.filter fun x => !(x.port == r.port && x.tag == r.tag)).filter (·.page == q)).length + (if q = r.page then 1 else 0) =
      (l.filter (·.page == q)).length := by
  induction l with
  | nil => cases mem
  | cons x l ih =>
    obtain ⟨absent, once'⟩ := List.nodup_cons.mp once
    rcases List.mem_cons.mp mem with rfl | mem'
    · have rest : (l.filter fun x => !(x.port == r.port && x.tag == r.tag)) = l := List.filter_eq_self.mpr fun y hy => by
        have other : y.port = r.port → ¬ y.tag = r.tag := fun e e' => absent (List.mem_map.mpr ⟨y, hy, Prod.ext e e'⟩)
        simpa [← imp_iff_not_or] using other
      rw [List.filter_cons_of_neg (by simp), rest, List.filter_cons]
      by_cases e : q = r.page
      · subst e; simp
      · simp [e, Ne.symm e]
    · have other : x.port = r.port → ¬ x.tag = r.tag := fun e e' => absent (List.mem_map.mpr ⟨r, mem', Prod.ext e.symm e'.symm⟩)
      rw [List.filter_cons_of_pos (by simpa [← imp_iff_not_or] using other), List.filter_cons, List.filter_cons]
      have := ih once' mem'
      split
      · rw [List.length_cons, List.length_cons]; omega
      · exact this

/-- The operation of an access at the head of a bank queue has its record (R63, R67). -/
theorem State.WorkSound.record (h : s.WorkSound) (running : s.phase = .running) {b : BankNo} {op : StoreOp} {rest : List StoreOp}
    (head : s.queue b = op :: rest) {p : Port} {t : Tag} (origin : op.origin = .access p t) :
    ∃ r ∈ s.accesses, r.port = p ∧ r.tag = t ∧ r.page = op.page := by
  have mem : op ∈ (s.queue b).filter fun op => !op.isCopy := by
    rw [head]; exact List.mem_filter.mpr ⟨by simp, by simp [StoreOp.isCopy, origin]⟩
  rw [h.accessOps running b] at mem
  obtain ⟨r, hr, rfl⟩ := List.mem_map.mp mem
  simp only [AccessRec.op, Origin.access.injEq] at origin
  exact ⟨r, (List.mem_filter.mp hr).1, origin.1, origin.2, rfl⟩

theorem State.WorkSound.oneAccess (h : s.WorkSound) {r : AccessRec} (mem : r ∈ s.accesses) : s.OneAccess r.port r.tag r.page :=
  count_dropAccess h.recordsOnce mem

theorem usesOf_of_access {r : AccessRec} (mem : r ∈ s.accesses) : s.usesOf r.page ≠ 0 := by
  have : 0 < (s.accesses.filter (·.page == r.page)).length :=
    List.length_pos_of_mem (List.mem_filter.mpr ⟨mem, beq_self_eq_true _⟩)
  rw [State.usesOf]; omega

theorem usesOf_of_place {j : Job} (mem : j ∈ s.jobs) {q : PageNo} (place : q ∈ j.pages) : s.usesOf q ≠ 0 := by
  have : 0 < (s.jobs.flatMap Job.pages).count q := List.count_pos_iff.mpr (List.mem_flatMap.mpr ⟨j, mem, place⟩)
  rw [State.usesOf]; omega

theorem mem_copyOps {b : BankNo} {op : StoreOp} (mem : op ∈ s.queue b) (copy : op.isCopy = true) : op ∈ s.copyOps := by
  rw [State.copyOps, List.mem_filter]
  refine ⟨?_, copy⟩
  match b with
  | 0 | 1 | 2 | 3 => simp [mem]

theorem srcAt_mem {j : Job} {q : PageNo} {offset : Nat} (h : j.srcAt = some (q, offset)) : q ∈ j.pages := by
  unfold Job.srcAt at h
  split at h
  · next set pages start kind =>
    obtain ⟨y, hy, e⟩ := Option.map_eq_some_iff.mp h
    cases e
    rw [Job.pages, kind]
    exact List.mem_append_left _ (List.mem_of_getElem? hy)
  · cases h

/-- The read that a bank performs for the ACTIVE job is of a place of its list (R109). -/
theorem State.WorkSound.readPlace (h : s.WorkSound) (running : s.phase = .running) {b : BankNo} {op : StoreOp}
    {rest : List StoreOp} (head : s.queue b = op :: rest) {id : Byte} (origin : op.origin = .copy id) {n : Nat}
    (read : op.kind = .read n) : ∃ j ∈ s.jobs, op.page ∈ j.pages := by
  have mem : op ∈ s.copyOps := mem_copyOps (b := b) (by rw [head]; simp) (by simp [StoreOp.isCopy, origin])
  obtain ⟨empty, outstanding⟩ := h.copyOps running
  obtain ⟨j, hj, active⟩ := h.active fun none => by rw [empty none] at mem; cases mem
  obtain ⟨op', one, -, out⟩ := outstanding j hj active
  rw [one, List.mem_singleton] at mem
  subst mem
  rcases out with ⟨-, place⟩ | ⟨_, write, -⟩
  · exact ⟨j, hj, srcAt_mem place⟩
  · rw [read] at write; cases write

theorem State.PinCountsExact.inUse_of_uses (h : s.PinCountsExact) {q : PageNo} (uses : s.usesOf q ≠ 0) : (s.page q).inUse := by
  by_contra idle
  rw [← h.pins, (h.unused q idle).1] at uses
  exact uses rfl

/-! ## The front part of a step -/

theorem good_turn {b : BankNo} {op : StoreOp} {rest : List StoreOp} (head : s.queue b = op :: rest) :
    Turn (s, []) (s.befall.popOp b (op.store s.befall.pool), []) :=
  .quiet (befall_moves.trans (.single (.pop b op rest _ (by simpa using head) (.inr rfl)))) (befall_quiet.trans (popOp_quiet _ _))

theorem bad_turn {b : BankNo} {op : StoreOp} {rest : List StoreOp} (head : s.queue b = op :: rest) :
    Turn (s, []) ((s.befallBad op).popOp b (s.befallBad op).pool, []) :=
  .quiet ((befallBad_moves op).trans (.single (.pop b op rest _ (by simpa using head) (.inl rfl))))
    ((befallBad_quiet op).trans (popOp_quiet _ _))

theorem Turn.dropOwed {p : Port} {t : Tag} {q : PageNo} (one : s.OneAccess p t q) :
    Turn (s, []) (s.dropAccess p t, [q]) := .dropAccess p t q one

theorem State.OneAccess.of_accesses {p : Port} {t : Tag} {q : PageNo} (h : s.OneAccess p t q) (accesses : u.accesses = s.accesses) :
    u.OneAccess p t q := by
  unfold State.OneAccess at *
  simp only [State.dropAccess, accesses] at *
  exact h

theorem poison_page (q x : PageNo) :
    (s.poison q).page x = { s.page x with poisoned := if x = q then true else (s.page x).poisoned } := by
  rw [State.poison, State.page_modPage]
  split
  · next e => rw [e]
  · rfl

theorem State.PinsOwed.poison {o : List PageNo} (h : s.PinsOwed o) (q : PageNo) : (s.poison q).PinsOwed o :=
  h.step (.single (.poison q)) h.idsOnce fun x => .of_record (by rw [poison_page]; exact ⟨rfl, rfl, rfl⟩) rfl rfl rfl

/-- What a front part needs of the state it is made in. -/
structure State.FrontReady (s : State) : Prop where
  work : s.WorkSound
  pins : s.PinsOwed []
  exact : s.PinCountsExact
  marks : ∀ q, (s.page q).MarkFits

theorem State.Sound.frontReady (h : s.Sound) (rest : List Instr) : ({ s with pending := rest } : State).FrontReady := by
  have tables : ({ s with pending := rest } : State).TablesAgree :=
    ⟨(directorySound_iff.mp h.directory).1.of_tables rfl rfl rfl rfl, h.mapCounts⟩
  have pins : ({ s with pending := rest } : State).PinCountsExact := ⟨h.pinCounts.pins, h.pinCounts.unused, h.pinCounts.orphaned⟩
  obtain ⟨inPage, counts, recordsOnce, jobs, active, accessOps, copyOps, starting⟩ := h.work
  exact ⟨⟨inPage, counts, recordsOnce, jobs, active, accessOps, copyOps, starting⟩,
    (pinsOwed_iff tables h.jobs.idsOnce).mpr pins, pins, fun q => marksSound_iff.mp h.marks q⟩

/-- The page that a front part poisons is in use. -/
theorem State.FrontReady.poisoned (h : s.FrontReady) {q : PageNo} (uses : s.usesOf q ≠ 0) (pages : u.pages = s.pages) :
    ∀ x, ((u.poison q).page x).MarkFits := by
  have page : u.page = s.page := by funext q; simp only [State.page, pages]
  refine marks_of_change (s := s) (q := q) h.marks (fun x hx => ?_) ?_
  · rw [poison_page, if_neg hx, page]
  · rw [poison_page, page]
    exact .of_inUse (h.exact.inUse_of_uses uses)

theorem Front.pinsOwed {x : Books} (f : Front s x) (h : s.FrontReady) : x.1.PinsOwed x.2 := by
  cases f
  case none => exact h.pins
  case good b op rest p t running head origin =>
    obtain ⟨r, mem, rfl, rfl, page⟩ := h.work.record running head origin
    have popped := pinsOwed_turn (good_turn head) h.pins
    refine pinsOwed_turn (.dropOwed ?_) popped
    rw [← page]
    exact (h.work.oneAccess mem).of_accesses befall_quiet.accesses
  case bad b op rest p t running head origin =>
    obtain ⟨r, mem, rfl, rfl, page⟩ := h.work.record running head origin
    have popped := (pinsOwed_turn (bad_turn head) h.pins).poison op.page
    refine pinsOwed_turn (.dropOwed ?_) popped
    rw [← page]
    exact (h.work.oneAccess mem).of_accesses (befallBad_quiet op).accesses
  case copyBad b op rest id n running head origin read => exact (pinsOwed_turn (bad_turn head) h.pins).poison op.page

theorem State.FrontReady.marks_turned {o : List PageNo} (h : s.FrontReady) (m : Turn (s, []) (u, o)) : ∀ q, (u.page q).MarkFits :=
  marks_turn m h.marks

theorem Front.marks {x : Books} (f : Front s x) (h : s.FrontReady) : ∀ q, (x.1.page q).MarkFits := by
  cases f
  case none => exact h.marks
  case good b op rest p t running head origin =>
    have popped := h.marks_turned (good_turn head)
    exact popped
  case bad b op rest p t running head origin =>
    obtain ⟨r, mem, rfl, rfl, page⟩ := h.work.record running head origin
    exact h.poisoned (page ▸ usesOf_of_access mem) (befallBad_quiet op).pages
  case copyBad b op rest id n running head origin read =>
    obtain ⟨j, mem, place⟩ := h.work.readPlace running head origin read
    exact h.poisoned (usesOf_of_place mem place) (befallBad_quiet op).pages

theorem Front.withinQuotas {x : Books} (f : Front s x) (h : s.WithinQuotas) : x.1.WithinQuotas := by
  cases f
  case none => exact h
  case good => exact h.of_same befall_quiet.owned befall_quiet.config
  case bad op _ _ _ _ _ _ => exact h.of_same (befallBad_quiet op).owned (befallBad_quiet op).config
  case copyBad op _ _ _ _ _ _ _ => exact h.of_same (befallBad_quiet op).owned (befallBad_quiet op).config

/-! ## The obligations -/

theorem step_keeps_withinQuotas (h : s.WithinQuotas) (taken : step s = .next u) : u.WithinQuotas := by
  rcases step_turns taken with rfl | ⟨rest, x, front, turns⟩
  · exact h
  · exact turns.keeps (P := fun x => x.1.WithinQuotas) (fun _ _ m h => h.turn m) (front.withinQuotas (h.of_same rfl rfl))

theorem step_keeps_directorySound (h : s.DirectorySound) (taken : step s = .next u) : u.DirectorySound := by
  obtain ⟨agrees, quotas⟩ := directorySound_iff.mp h
  exact directorySound_iff.mpr ⟨step_keeps (P := State.DirectoryAgrees) (fun _ _ m h => h.move m)
    (fun s l h => h.of_tables rfl rfl rfl rfl) taken agrees, step_keeps_withinQuotas quotas taken⟩

theorem step_keeps_marks (h : s.Sound) (taken : step s = .next u) : u.MarksSound := by
  rcases step_turns taken with rfl | ⟨rest, x, front, turns⟩
  · exact h.marks
  · exact marksSound_iff.mpr (turns.keeps (P := fun x => ∀ q, (x.1.page q).MarkFits) (fun _ _ => marks_turn)
      (front.marks (h.frontReady rest)))

/-- Settles O51: the tables through every move, the quotas and the marks through every turn. -/
theorem stepsKeepTheDirectorySound : Obligations.StepsKeepTheDirectorySound :=
  ⟨fun _ _ => step_keeps_directorySound, fun _ _ => step_keeps_marks⟩

/-- Settles O53: through every turn the pins are the uses and the pins owed, and at the end of a step nothing is owed. -/
theorem stepsKeepPinCountsExact : Obligations.StepsKeepPinCountsExact := by
  intro s u sound taken
  rcases step_turns taken with rfl | ⟨rest, x, front, turns⟩
  · exact sound.pinCounts
  · have owed := turns.keeps (P := fun x => x.1.PinsOwed x.2) (fun _ _ => pinsOwed_turn)
      (front.pinsOwed (sound.frontReady rest))
    exact (pinsOwed_iff owed.tables owed.idsOnce).mp owed

end Sys2Proof.Machine

/-! # Start-up (R27, R28, R136, R137, R203 to R205) -/
namespace Sys2Proof.Machine

variable {s u : State}

/-! ## The state after reset -/

theorem reset_page (q : PageNo) : State.reset.page q = .free := by simp [State.page, State.reset]
theorem reset_bank (b : BankNo) : State.reset.bank b = .initial := by simp [State.bank, State.reset]
theorem reset_map (p : Port) : State.reset.map p = .initial := by simp [State.map, State.reset]
theorem reset_queue (b : BankNo) : State.reset.queue b = [] := by simp [State.queue, State.reset]
theorem reset_ownedBy (p : Port) : State.reset.ownedBy p = 0 := by simp [State.ownedBy, State.reset]
theorem reset_freeList : State.reset.freeList = List.finRange 2048 := by rw [State.reset]

theorem reset_port (p : Port) :
    State.reset.port p = { PortCtl.initial false with outbound := [.event (.ready .powerOn)], tx := .sending } := by
  simp [State.port, State.reset]

/-- No session, no access in flight and no slot after a reset. -/
theorem reset_port_idle (p : Port) :
    (State.reset.port p).session = .closed ∧ (State.reset.port p).closeReason = none ∧ (State.reset.port p).inFlight = 0 ∧
      (State.reset.port p).activeJob = false ∧ (State.reset.port p).slots = [] := by
  rw [reset_port]; exact ⟨rfl, rfl, rfl, rfl, rfl⟩

theorem reset_directory : State.reset.DirectorySound :=
  directorySound_iff.mpr ⟨directoryAgrees_of_fresh reset_page reset_bank reset_freeList reset_ownedBy,
    fun p => by rw [reset_ownedBy]; exact Nat.zero_le _⟩

theorem reset_marks : State.reset.MarksSound := marksSound_iff.mpr fun q => by rw [reset_page]; exact ⟨fun _ => rfl, nofun⟩

theorem reset_mapCounts : State.reset.MapCountsExact := fun q => by
  rw [reset_page, entriesNaming_of_empty (resolve_of_initial reset_map)]; exact ⟨rfl, fun _ => rfl⟩

theorem reset_pinCounts : State.reset.PinCountsExact where
  pins q := by rw [reset_page]; rfl
  unused q _ := by rw [reset_page]; exact ⟨rfl, rfl⟩
  orphaned q h := by rw [reset_page] at h; cases h

theorem reset_ports : State.reset.PortsBounded := fun p => by
  rw [reset_port]
  exact ⟨Nat.zero_le _, List.nodup_nil, by decide, by decide, Nat.zero_le _⟩

theorem reset_transmitters : State.reset.TransmittersFollow := fun _ p => by
  rw [reset_port]; exact ⟨by decide, nofun, nofun⟩

theorem reset_work : State.reset.WorkSound where
  inPage b op h := by rw [reset_queue] at h; cases h
  counts p := ⟨(reset_port_idle p).2.2.1, by rw [reset_map]; rfl⟩
  recordsOnce := List.nodup_nil
  jobs := nofun
  active h := absurd rfl h
  accessOps _ b := by rw [reset_queue]; rfl
  copyOps _ := ⟨fun _ => by simp only [State.copyOps, reset_queue]; rfl, nofun⟩
  starting _ := ⟨rfl, rfl, fun _ => reset_queue⟩

theorem reset_sessions : State.reset.SessionsSound where
  reason p := by rw [reset_port]; exact ⟨fun h => absurd rfl h, nofun⟩
  closing p h := by rw [(reset_port_idle p).1] at h; cases h
  activeJob p := by rw [reset_port]; exact ⟨nofun, nofun⟩
  notOpen p _ := ⟨resolve_of_initial reset_map p, by rw [reset_map]; rfl, by rw [reset_map]; rfl, nofun, nofun, reset_ownedBy p,
    fun q used => by rw [reset_page] at used; rcases used with h | h <;> cases h⟩
  closed p _ := by
    obtain ⟨-, -, none, -, slots⟩ := reset_port_idle p
    exact ⟨none, slots, nofun⟩

theorem reset_slots_empty (p : Port) : (State.reset.port p).slots = [] := by
  obtain ⟨-, -, -, -, slots⟩ := reset_port_idle p
  exact slots

theorem reset_slots : State.reset.SlotsSound where
  held p x h := by rw [reset_slots_empty] at h; cases h
  inFlight p x h := by rw [reset_slots_empty] at h; cases h
  records := nofun
  select p h := by rw [reset_map] at h; exact absurd rfl h
  close p h := by rw [reset_port] at h; cases h

/-- Settles O60. -/
theorem resetMeetsEveryInvariant : Obligations.ResetMeetsEveryInvariant where
  phase := ⟨nofun, nofun⟩
  pool := rfl
  directory := reset_directory
  marks := reset_marks
  mapCounts := reset_mapCounts
  pinCounts := reset_pinCounts
  ports := reset_ports
  transmitters := reset_transmitters
  holder := nofun
  locks := ⟨Nat.zero_le _, List.nodup_nil, nofun⟩
  jobs := ⟨Nat.zero_le _, fun _ => Nat.zero_le _, List.nodup_nil, Nat.zero_le _⟩
  work := reset_work
  sessions := reset_sessions
  waiters := ⟨fun p x h => absurd h (by rw [reset_slots_empty]; exact List.not_mem_nil), nofun, List.nodup_nil⟩
  slots := reset_slots

/-! ## The entry to RUNNING after a power-on -/

/-- At the entry to RUNNING each port is silent but for READY (R182, R204). -/
theorem enterRunning_eq (straps : Vector Straps 4) :
    s.enterRunning straps =
      { s with phase := .running, straps := straps,
               ports := mapEach s.ports fun _ c => c.silence.offerEvent (.ready s.nextStart) } := by
  have port : ∀ p, (s.enterRunning straps).port p = (s.port p).silence.offerEvent (.ready s.nextStart) := fun p => by
    match p with
    | 0 | 1 | 2 | 3 => simp [State.enterRunning, State.offer, State.port]
  have ports : (s.enterRunning straps).ports = mapEach s.ports fun _ c => c.silence.offerEvent (.ready s.nextStart) := by
    ext1 i hi
    rw [getElem_mapEach]
    exact port ⟨i, hi⟩
  rw [← ports]
  rfl

/-- What POWER_ON leads to with the reset line released. -/
def State.poweredOn (s : State) : State :=
  { s.powerOnTables with phase := .clearing, supplyGood := true, nextStart := .powerOn }

theorem exec_powerOn (released : s.resetAsserted = false) : exec .powerOn s = .next s.poweredOn := by
  show Host.Outcome.next (if s.resetAsserted = true then _ else s.poweredOn) = _
  rw [if_neg (by rw [released]; nofun)]

/-- The entry to RUNNING after a power-on, on lines without a break. -/
theorem poweredOn_enterRunning (noBreak : ∀ p, (s.port p).breakInForce = false) :
    s.poweredOn.enterRunning #v[.low, .low, .low, .low] =
      { State.reset with
        resetAsserted := s.resetAsserted, schedule := s.schedule, faults := s.faults, pending := s.pending } := by
  have ports : mapEach s.poweredOn.ports (fun _ c => c.silence.offerEvent (.ready s.poweredOn.nextStart)) = State.reset.ports := by
    ext1 i hi
    have silent : s.poweredOn.ports[i] = PortCtl.initial false := by
      rw [← noBreak ⟨i, hi⟩]
      exact powerOnTables_port ⟨i, hi⟩
    have after : State.reset.ports[i] =
      { PortCtl.initial false with outbound := [.event (.ready .powerOn)], tx := .sending } := reset_port ⟨i, hi⟩
    rw [getElem_mapEach, silent, after]
    rfl
  rw [enterRunning_eq, ports]
  simp only [State.poweredOn, State.powerOnTables]
  rfl

/-- Settles O7. -/
theorem resetStateIsWherePowerOnLeads : Obligations.ResetStateIsWherePowerOnLeads := by
  intro s released noBreak schedule faults pending
  have entry : exec (.runningEntry .low .low .low .low) s.poweredOn =
    .next (s.poweredOn.enterRunning #v[.low, .low, .low, .low]) := rfl
  rw [runAll, exec_powerOn released]
  simp only [runAll, entry]
  rw [poweredOn_enterRunning noBreak, released, schedule, faults, pending, State.reset]

/-! ## The tables after a power-on and after the reset line -/

theorem fresh_initial (breakInForce : Bool) : (PortCtl.initial breakInForce).Fresh :=
  ⟨rfl, rfl, rfl, rfl, rfl, rfl, rfl, rfl, rfl, rfl⟩

/-- What both starts leave of the tables. -/
theorem freshTables_of (ports : ∀ p, ∃ b, u.port p = .initial b) (maps : ∀ p, u.map p = .initial) (accesses : u.accesses = [])
    (owned : ∀ p, u.ownedBy p = 0) (locks : u.locks = []) (jobs : u.jobs = []) (lastServed : u.lastServed = 3)
    (nextJobId : u.nextJobId = 0) (role : u.role = none) (config : u.config = .initial) : u.FreshTables where
  ports p := by obtain ⟨b, e⟩ := ports p; rw [e]; exact fresh_initial b
  entries := resolve_of_initial maps
  selection p := by rw [maps]; exact ⟨rfl, rfl, rfl⟩
  accesses := accesses
  owned := owned
  locks := locks
  jobs := jobs
  lastServed := lastServed
  nextJobId := nextJobId
  role := role
  config := config.trans rfl

theorem poweredOn_freshTables : s.poweredOn.FreshTables :=
  freshTables_of (fun p => ⟨_, powerOnTables_port (s := s) p⟩) (powerOnTables_map (s := s)) rfl (powerOnTables_ownedBy (s := s))
    rfl rfl rfl rfl rfl rfl

theorem resetLineTables_freshTables : s.resetLineTables.FreshTables :=
  freshTables_of (fun p => ⟨_, resetLineTables_port (s := s) p⟩) (resetLineTables_map (s := s)) rfl
    (resetLineTables_ownedBy (s := s)) rfl rfl rfl rfl rfl rfl

theorem poweredOn_pool : s.poweredOn.pool = { cells := [], damage := [] } := by
  rw [State.poweredOn, State.powerOnTables, State.reset]

theorem poweredOn_freshPool : s.poweredOn.FreshPool where
  pages := powerOnTables_page (s := s)
  freeList := by rw [State.poweredOn, powerOnTables_freeList]
  banks := powerOnTables_bank (s := s)
  pool _ := by rw [poweredOn_pool]; rfl
  checks := by rw [poweredOn_pool]
  queues := powerOnTables_queue (s := s)

/-- RESET stops what a device does, and nothing else (R72, R121, R205). -/
theorem haltedFrom_haltDevice {good asserted : Bool} {start : ResetKind} :
    ({ s.haltDevice with supplyGood := good, resetAsserted := asserted, nextStart := start } : State).HaltedFrom s where
  phase := rfl
  ports p := by
    show s.haltDevice.port p = _
    simp only [State.haltDevice, State.port, Fin.getElem_fin, getElem_mapEach]
    rfl
  queues b := by
    show s.haltDevice.queue b = _
    simp [State.haltDevice, State.queue, carriedOps]
  rest := rfl

/-- Settles O2. -/
theorem powerOnInitialisesEveryTable : Obligations.PowerOnInitialisesEveryTable := by
  intro s
  refine ⟨fun released => ?_, fun asserted => ?_⟩
  · exact ⟨_, exec_powerOn released, rfl, rfl, rfl, poweredOn_freshTables, poweredOn_freshPool,
      fun p => (congrArg PortCtl.breakInForce (powerOnTables_port (s := s) p)).trans rfl⟩
  · have halted : exec .powerOn s =
        .next { s.haltDevice with supplyGood := true, resetAsserted := s.resetAsserted, nextStart := .powerOn } := by
      show Host.Outcome.next (if s.resetAsserted = true then _ else _) = _
      rw [if_pos asserted]
      rfl
    exact ⟨_, halted, haltedFrom_haltDevice, rfl, asserted, rfl⟩

theorem exec_resetReleased (asserted : s.resetAsserted = true) : exec .resetReleased s = .next s.releaseReset := by
  show Host.Outcome.next (if s.resetAsserted = true then _ else _) = _
  rw [if_pos asserted]

theorem releaseReset_resetLine (good : s.supplyGood = true) (start : s.nextStart = .resetLine) :
    s.releaseReset = ({ s with resetAsserted := false } : State).resetLineTables := by
  simp [State.releaseReset, good, start]

/-- Settles O5. -/
theorem resetLineKeepsRetiredPagesAlone : Obligations.ResetLineKeepsRetiredPagesAlone := by
  intro s asserted good start
  refine ⟨_, (exec_resetReleased asserted).trans (congrArg _ (releaseReset_resetLine good start)), rfl, rfl,
    resetLineTables_freshTables, rfl, fun _ => rfl, fun p => ?_, fun q => ?_, mem_resetLine_freeList, sorted_resetLine_freeList,
    fun b => ?_⟩
  · rw [resetLineTables_port]
    rfl
  · rw [resetLineTables_page, PageRec.afterResetLine_eq]
    simp only [BankRec.startsOffline, decide_eq_true_eq]
    rfl
  · rw [resetLineTables_bank, BankRec.afterResetLine_eq]
    rfl

end Sys2Proof.Machine

/-! # ALLOC, FREE and the bank checks (R10, R13 to R16, R125, R129, R134) -/
namespace Sys2Proof.Machine

variable {s u : State} {p : Port} {t : Tag}

/-! ## Requests at their units -/

/-- The state in which a request that is taken reaches its unit. -/
def State.handed (s : State) (p : Port) (t : Tag) (r : Request) : State := s.withSlot p t r .inFlight

theorem handed_answer (h : s.Takes p t) (r : Request) (code : Byte) (st : Status) (pay : Payload) :
    (s.handed p t r).answer p t code st pay = s.reply p t code st pay := answer_withSlot h.tagFree r .inFlight code st pay

/-- What a reply leaves of the ports rests on the ports alone. -/
theorem answer_ports (ports : u.ports = s.ports) (code : Byte) (st : Status) (pay : Payload) :
    (u.answer p t code st pay).ports = (s.answer p t code st pay).ports := by
  simp only [State.answer, State.modPort, State.port, ports]

/-! ## ALLOC (R13, R14) -/

theorem foldl_allocPage_bank (p : Port) (l : List PageNo) (nodup : l.Nodup) (free : ∀ q ∈ l, (s.page q).state = .free) (b : BankNo) :
    (l.foldl (fun s q => State.allocPage s p q) s).bank b =
      { s.bank b with free := (s.bank b).free - (l.filter (bankOf · = b)).length,
                      allocated := (s.bank b).allocated + (l.filter (bankOf · = b)).length } := by
  induction l generalizing s with
  | nil => rfl
  | cons q l ih =>
    obtain ⟨absent, nodup'⟩ := List.nodup_cons.mp nodup
    have rest : ∀ x ∈ l, ((s.allocPage p q).page x).state = .free := fun x hx => by
      have other : x ≠ q := fun e => absent (e ▸ hx)
      rw [State.allocPage, changePage_page, if_neg other]
      exact free x (by simp [hx])
    rw [List.foldl_cons, ih nodup' rest, State.allocPage, changePage_bank, free q (by simp)]
    by_cases hb : bankOf q = b
    · rw [if_pos hb.symm, List.filter_cons_of_pos (by simpa using hb)]
      simp only [BankRec.remove, BankRec.insert, List.length_cons]
      congr 1 <;> omega
    · rw [if_neg (Ne.symm hb), List.filter_cons_of_neg (by simpa using hb)]

theorem foldl_allocPage_rest (p : Port) (l : List PageNo) :
    l.foldl (fun s q => State.allocPage s p q) s =
      { s with pages := (l.foldl (fun s q => State.allocPage s p q) s).pages,
               banks := (l.foldl (fun s q => State.allocPage s p q) s).banks } := by
  induction l generalizing s with
  | nil => rfl
  | cons q l ih => rw [List.foldl_cons, ih]; rfl

/-- ALLOC changes the Page Directory's tables alone. -/
theorem takePages_rest (n : Nat) :
    s.takePages p n =
      { s with pages := (s.takePages p n).pages, banks := (s.takePages p n).banks, freeList := s.freeList.drop n,
               owned := (s.takePages p n).owned } := by
  have owned : (s.takePages p n).owned = ({ s with freeList := s.freeList.drop n }.modOwned p (· + n) : State).owned :=
    foldl_keeps (g := State.owned) (f := fun s q => State.allocPage s p q) (fun _ _ => rfl) _ _
  rw [owned, State.takePages, foldl_allocPage_rest]
  rfl

theorem takePages_freeList (n : Nat) : (s.takePages p n).freeList = s.freeList.drop n := by rw [takePages_rest]

theorem takePages_ports (n : Nat) : (s.takePages p n).ports = s.ports := by rw [takePages_rest]

theorem takePages_bank (freeOnce : s.freeList.Nodup) (free : ∀ q ∈ s.freeList, (s.page q).state = .free) (n : Nat) (b : BankNo) :
    (s.takePages p n).bank b =
      { s.bank b with free := (s.bank b).free - ((s.freeList.take n).filter (bankOf · = b)).length,
                      allocated := (s.bank b).allocated + ((s.freeList.take n).filter (bankOf · = b)).length } := by
  rw [State.takePages, foldl_allocPage_bank]
  · rfl
  · exact freeOnce.sublist (List.take_sublist n _)
  · exact fun q hq => free q (List.mem_of_mem_take hq)

theorem exec_alloc (h : s.Takes p t) (count : Byte) :
    exec (.alloc p t count) s = .next
      (if count.toNat = 0 ∨ 8 < count.toNat then s.reply p t 0x10 .bounds
      else if s.config.quota[p] < s.owned[p] + count.toNat then s.reply p t 0x10 .quota
      else if s.freeList.length < count.toNat then s.reply p t 0x10 .noSpace
      else ((s.handed p t (.alloc count)).takePages p count.toNat).answer p t 0x10 .ok
        (.pages (s.freeList.take count.toNat))) := by
  simp only [← handed_answer h (.alloc count)]
  exact congrArg Host.Outcome.next (receive_handed h 0x10 nofun rfl)

/-- Settles O24. -/
theorem allocTakesTheHeadOfTheFreeList : Obligations.AllocTakesTheHeadOfTheFreeList := by
  intro p t count s h n
  rw [exec_alloc h]
  refine ⟨fun bad => ?_, fun one eight quota => ?_, fun one eight quota space => ?_, fun one eight quota space sound => ?_⟩
  · rw [if_pos bad]
  · rw [if_neg (by omega), if_pos quota]
  · rw [if_neg (by omega), if_neg (Nat.not_lt.mpr quota), if_pos space]
  · rw [if_neg (by omega), if_neg (Nat.not_lt.mpr quota), if_neg (Nat.not_lt.mpr space)]
    refine ⟨_, rfl, takePages_freeList n, takePages_page p n, takePages_ownedBy p n,
      takePages_bank (s := s.handed p t (.alloc count)) sound.freeOnce (fun q hq => (sound.freeExactly q).mp hq) n, ?_, ?_⟩
    · rw [← handed_answer h (.alloc count)]
      exact answer_ports (takePages_ports n) _ _ _
    · rw [takePages_rest]
      rfl

/-! ## The bank checks of a release (R10, R125, R129, R134) -/

theorem settleBank_same {q : PageNo} (same : (s.page q).state = (u.page q).state) : s.settleBank u q = u := if_pos same

theorem settleBank_free {q : PageNo} (moved : (s.page q).state ≠ (u.page q).state) (free : (u.page q).state = .free) :
    s.settleBank u q = u := by
  rw [State.settleBank, if_neg moved, free]

theorem settleBank_withheld {q : PageNo} (moved : (s.page q).state ≠ (u.page q).state) (withheld : (u.page q).state = .withheld) :
    s.settleBank u q = u.bankOfflineCheck (bankOf q) := by
  rw [State.settleBank, if_neg moved, withheld]

theorem settleBank_retired {q : PageNo} (moved : (s.page q).state ≠ (u.page q).state) (retired : (u.page q).state = .retired) :
    s.settleBank u q =
      if (u.bank (bankOf q)).state = .online then u.retireLimitCheck (bankOf q) else u.bankOfflineCheck (bankOf q) := by
  rw [State.settleBank, if_neg moved, retired]

/-- Settles O48. -/
theorem bankChecksMoveTheBank : Obligations.BankChecksMoveTheBank := by
  intro s b
  refine ⟨fun running => ?_, rfl, rfl, fun u q => settleBank_same, fun u q moved =>
    ⟨settleBank_free moved, settleBank_withheld moved, settleBank_retired moved⟩⟩
  exact congrArg Host.Outcome.next (if_pos (isRunning_iff.mpr running))

/-! ## FREE (R15, R16) -/

theorem dissolve_of_none {q : PageNo} (h : s.lockOf q = none) : s.dissolve q = s := by rw [State.dissolve, h]

theorem placeReleased_of_allocated {q : PageNo} (allocated : (s.page q).state = .allocated) :
    s.placeReleased q =
      (({ s with freeList := if s.releasedTo q = .free then s.freeList ++ [q] else s.freeList } : State).modBank (bankOf q)
        fun b => (b.remove .allocated).insert (s.releasedTo q)).modPage q fun r =>
          { r with state := s.releasedTo q, owner := none, grants := noGrants } := by
  rw [← allocated]
  rfl

theorem owns_iff_Owns {q : PageNo} : s.owns p q = true ↔ s.Owns p q := owns_iff

/-- The release of a page ALLOCATED to a port without a lock entry leaves the ports alone. -/
theorem releaseOwned_withSlot {q : PageNo} (noLock : s.lockOf q = none) (r : Request) :
    (s.handed p t r).releaseOwned p q = ((s.placeReleased q).modOwned p (· - 1)).handed p t r := by
  have noLock' : (s.handed p t r).lockOf q = none := noLock
  rw [State.releaseOwned, State.releasePage, dissolve_of_none noLock']
  rfl

/-- The bank checks after the release of a page that was in use. -/
theorem settleBank_released {q : PageNo} (used : (s.page q).inUse) {r : PageRec} {bank : BankState}
    (page : (u.page q).state = r.releasedState bank) (state : (u.bank (bankOf q)).state = bank) :
    s.settleBank u q =
      if r.releasedState bank = .free then u
      else if r.releasedState bank = .retired ∧ bank = .online then u.retireLimitCheck (bankOf q)
      else u.bankOfflineCheck (bankOf q) := by
  have moved : (s.page q).state ≠ (u.page q).state := by
    have idle := releasedState_not_inUse r bank
    rw [page]
    rcases used with e | e <;> rw [e]
    · exact Ne.symm idle.1
    · exact Ne.symm idle.2
  obtain ⟨-, h⟩ | ⟨-, -, h⟩ | ⟨-, offline, h⟩ := releasedState_cases r bank <;> rw [h] at page ⊢
  · rw [settleBank_retired moved page, state]
    simp
  · rw [settleBank_free moved page]
    rfl
  · rw [settleBank_withheld moved page, if_neg nofun, if_neg (by simp)]

theorem exec_free (h : s.Takes p t) (page : Half) :
    exec (.free p t page) s = .next
      (match below 2048 page.toNat with
      | none => s.reply p t 0x11 .bounds
      | some q =>
        if !s.owns p q then s.reply p t 0x11 .denied
        else if 0 < (s.page q).mapCount then s.reply p t 0x11 .inUse
        else if 0 < (s.page q).pinCount then s.reply p t 0x11 .inUse
        else if s.hasLock q then s.reply p t 0x11 .inUse
        else (s.handed p t (.free page)).settleBank
          (((s.handed p t (.free page)).releaseOwned p q).answer p t 0x11 .ok) q) := by
  simp only [← handed_answer h (.free page)]
  exact congrArg Host.Outcome.next (receive_handed h 0x11 nofun rfl)

/-- Settles O25. -/
theorem freeReleasesThePage : Obligations.FreeReleasesThePage := by
  intro p t page s h
  rw [exec_free h]
  refine ⟨fun bad => by rw [below_eq_none.mpr bad], fun q hq => ?_⟩
  rw [← hq, below_val]
  dsimp only
  refine ⟨fun denied => ?_, fun owned used => ?_, fun owned unmapped unpinned noLock => ?_⟩
  · rw [if_pos (by simpa [← owns_iff_Owns] using denied)]
  · rw [if_neg (by simp [owns_iff_Owns.mpr owned])]
    split
    · rfl
    split
    · rfl
    next unmapped unpinned =>
    have lock : s.hasLock q = true := Option.isSome_iff_ne_none.mpr ((used.resolve_left unmapped).resolve_left unpinned)
    rw [if_pos lock]
  · have noLock' : s.hasLock q = false := by rw [State.hasLock, noLock]; rfl
    rw [if_neg (by simp [owns_iff_Owns.mpr owned]), if_neg (by omega), if_neg (by omega), if_neg (by simp [noLock']),
      releaseOwned_withSlot noLock]
    have placed : ((s.placeReleased q).modOwned p (· - 1)).Takes p t :=
      ⟨⟨h.hears.running, h.hears.line⟩, h.opened, h.tagFree, h.slotFree⟩
    rw [handed_answer placed, placeReleased_of_allocated owned.1]
    refine congrArg Host.Outcome.next ((settleBank_released (r := s.page q) (.inl owned.1) ?_ ?_).trans rfl)
    · rw [State.reply, State.page_modPort, State.page_modOwned, State.page_modPage_same]
      rfl
    · rw [State.reply, State.bank_modPort, State.bank_modOwned, State.bank_modPage, State.bank_modBank_same, BankRec.insert_state,
        BankRec.remove_state]
      rfl

end Sys2Proof.Machine

/-! # The release of a page, and the messages of a step (R6 to R8, R10, R11) -/
namespace Sys2Proof.Machine

variable {s u v : State} {p : Port} {t : Tag}

/-! ## Messages and freed slots leave the rest of a Port Controller alone -/

/-- A Port Controller that has been offered messages and has had slots freed. -/
structure PortCtl.Told (c d : PortCtl) : Prop where
  session : d.session = c.session
  closeReason : d.closeReason = c.closeReason
  inFlight : d.inFlight = c.inFlight
  activeJob : d.activeJob = c.activeJob
  rx : d.rx = c.rx
  gap : d.gap = c.gap
  breakInForce : d.breakInForce = c.breakInForce

theorem PortCtl.Told.refl (c : PortCtl) : c.Told c := ⟨rfl, rfl, rfl, rfl, rfl, rfl, rfl⟩

theorem PortCtl.Told.trans {c d e : PortCtl} (h : c.Told d) (h' : d.Told e) : c.Told e :=
  ⟨h'.session.trans h.session, h'.closeReason.trans h.closeReason, h'.inFlight.trans h.inFlight,
    h'.activeJob.trans h.activeJob, h'.rx.trans h.rx, h'.gap.trans h.gap, h'.breakInForce.trans h.breakInForce⟩

theorem told_offerReply (c : PortCtl) (t : Tag) (code : Byte) (st : Status) (pay : Payload) : c.Told (c.offerReply t code st pay) := by
  unfold PortCtl.offerReply
  split <;> exact ⟨rfl, rfl, rfl, rfl, rfl, rfl, rfl⟩

theorem told_admitOverflow (c : PortCtl) : c.Told c.admitOverflow := by
  unfold PortCtl.admitOverflow
  split <;> exact ⟨rfl, rfl, rfl, rfl, rfl, rfl, rfl⟩

theorem told_admitOrLose (c : PortCtl) (e : Event) : c.Told (c.admitOrLose e) := by
  unfold PortCtl.admitOrLose
  split <;> exact ⟨rfl, rfl, rfl, rfl, rfl, rfl, rfl⟩

theorem told_offerEvent (c : PortCtl) (e : Event) : c.Told (c.offerEvent e) := by
  have admitted := (told_admitOverflow c).trans (told_admitOrLose c.admitOverflow e)
  unfold PortCtl.offerEvent
  split
  · split <;> exact ⟨rfl, rfl, rfl, rfl, rfl, rfl, rfl⟩
  · exact admitted
  all_goals
    split
    · exact admitted
    · exact .refl c

theorem told_freeSlot (c : PortCtl) (t : Tag) : c.Told (c.freeSlot t) := ⟨rfl, rfl, rfl, rfl, rfl, rfl, rfl⟩

/-- Every port has been offered messages and has had slots freed, at the most. -/
def State.Told (s u : State) : Prop := ∀ x, (s.port x).Told (u.port x)

theorem State.Told.refl : s.Told s := fun _ => .refl _
theorem State.Told.trans (h : s.Told u) (h' : u.Told v) : s.Told v := fun x => (h x).trans (h' x)
theorem State.Told.of_ports (ports : u.ports = s.ports) : s.Told u := fun x => by
  simp only [State.port, ports]; exact .refl _

theorem State.Told.modPort (p : Port) {f : PortCtl → PortCtl} (h : ∀ c : PortCtl, c.Told (f c)) : s.Told (s.modPort p f) := fun x => by
  rw [State.port_modPort]
  split
  · next e => rw [e]; exact h _
  · exact .refl _

theorem State.Told.foldl {α : Type} {f : State → α → State} (h : ∀ s x, State.Told s (f s x)) (l : List α) (s : State) :
    s.Told (l.foldl f s) := by
  induction l generalizing s with
  | nil => exact .refl
  | cons x l ih => exact (h s x).trans (ih _)

theorem State.Told.isOpen (h : s.Told u) (x : Port) : u.isOpen x = s.isOpen x := by rw [State.isOpen, (h x).session]; rfl

theorem offer_told (p : Port) (e : Event) : s.Told (s.offer p e) := .modPort p fun c => told_offerEvent c e

theorem answer_told (p : Port) (t : Tag) (code : Byte) (st : Status) (pay : Payload) : s.Told (s.answer p t code st pay) :=
  .modPort p fun c => (told_freeSlot c t).trans (told_offerReply _ _ _ _ _)

theorem offerSupervisor_told (e : Event) : s.Told (s.offerSupervisor e) := by
  unfold State.offerSupervisor
  split
  · exact .refl
  · exact offer_told _ _

/-! ## Dissolution, port by port (R11) -/

/-- What the dissolution of an entry does to the port of a waiter. -/
def PortCtl.waitDissolved (c : PortCtl) (t : Tag) : PortCtl :=
  if c.session = .opened then (c.freeSlot t).offerReply t 0x40 .notFound .none else c.freeSlot t

theorem told_waitDissolved (c : PortCtl) (t : Tag) : c.Told (c.waitDissolved t) := by
  unfold PortCtl.waitDissolved
  split
  · exact (told_freeSlot c t).trans (told_offerReply _ _ _ _ _)
  · exact told_freeSlot c t

theorem dissolveWaiter_eq (w : Waiter) : s.dissolveWaiter w = s.modPort w.port (·.waitDissolved w.tag) := by
  unfold State.dissolveWaiter
  by_cases h : (s.port w.port).session = .opened
  · rw [if_pos (by simpa [State.isOpen] using h)]
    simp only [State.answer, State.modPort, PortCtl.waitDissolved, if_pos h]
  · rw [if_neg (by simpa [State.isOpen] using h)]
    simp only [State.modPort, PortCtl.waitDissolved, if_neg h]

/-- A port-by-port change for each record of a list. -/
def State.tellEach {α : Type} (s : State) (port : α → Port) (f : α → PortCtl → PortCtl) (l : List α) : State :=
  l.foldl (fun s a => s.modPort (port a) (f a)) s

theorem tellEach_rest {α : Type} (port : α → Port) (f : α → PortCtl → PortCtl) (l : List α) :
    s.tellEach port f l = { s with ports := (s.tellEach port f l).ports } := by
  induction l generalizing s with
  | nil => rfl
  | cons a l ih =>
    show (s.modPort (port a) (f a)).tellEach port f l = _
    rw [ih]
    rfl

theorem tellEach_other {α : Type} (port : α → Port) (f : α → PortCtl → PortCtl) {l : List α} {x : Port}
    (absent : x ∉ l.map port) : (s.tellEach port f l).port x = s.port x := by
  induction l generalizing s with
  | nil => rfl
  | cons a l ih =>
    rw [List.map_cons, List.mem_cons, not_or] at absent
    show ((s.modPort (port a) (f a)).tellEach port f l).port x = _
    rw [ih absent.2, State.port_modPort_ne _ _ _ absent.1]

theorem tellEach_named {α : Type} (port : α → Port) (f : α → PortCtl → PortCtl) {l : List α} (once : (l.map port).Nodup) {a : α}
    (mem : a ∈ l) : (s.tellEach port f l).port (port a) = f a (s.port (port a)) := by
  induction l generalizing s with
  | nil => cases mem
  | cons b l ih =>
    obtain ⟨absent, once'⟩ := List.nodup_cons.mp once
    show ((s.modPort (port b) (f b)).tellEach port f l).port (port a) = _
    rcases List.mem_cons.mp mem with rfl | mem'
    · rw [tellEach_other port f absent, State.port_modPort_same]
    · rw [ih once' mem', State.port_modPort_ne _ _ _ ?_]
      intro e
      exact absent (List.mem_map.mpr ⟨a, mem', e⟩)

/-- The dissolution of an entry: its holders told, its waiters answered, its place freed (R11). -/
theorem dissolve_of_some {q : PageNo} {l : LockEntry} (h : s.lockOf q = some l) :
    s.dissolve q =
      ((s.tellEach (·.port) (fun _ => (·.offerEvent (.leaseLost q))) l.holders).tellEach (·.port)
        (fun w => (·.waitDissolved w.tag)) l.waiters).dropLock q := by
  have waiters : State.dissolveWaiter = fun s (w : Waiter) => s.modPort w.port (·.waitDissolved w.tag) := by
    funext s w; exact dissolveWaiter_eq w
  rw [State.dissolve, h]
  dsimp only
  rw [waiters]
  rfl

theorem dissolve_rest (q : PageNo) :
    s.dissolve q = { s with ports := (s.dissolve q).ports, locks := (s.dissolve q).locks } := by
  cases h : s.lockOf q with
  | none => rw [dissolve_of_none h]
  | some l => rw [dissolve_of_some h, tellEach_rest, tellEach_rest (l := l.holders)]; rfl

theorem dissolve_told (q : PageNo) : s.Told (s.dissolve q) := by
  cases h : s.lockOf q with
  | none => rw [dissolve_of_none h]; exact .refl
  | some l =>
    rw [dissolve_of_some h]
    exact (State.Told.foldl (fun _ a => .modPort _ fun c => told_offerEvent c _) l.holders s).trans
      (State.Told.foldl (fun _ a => .modPort _ fun c => told_waitDissolved c _) l.waiters _)

section
variable {q : PageNo} {l : LockEntry} (entry : s.lockOf q = some l) (once : (l.holders.map (·.port) ++ l.waiters.map (·.port)).Nodup)
include entry

theorem dissolve_port_other {x : Port} (noHolder : x ∉ l.holders.map (·.port)) (noWaiter : x ∉ l.waiters.map (·.port)) :
    (s.dissolve q).port x = s.port x := by
  rw [dissolve_of_some entry]
  exact (tellEach_other _ _ noWaiter).trans (tellEach_other _ _ noHolder)

include once

theorem dissolve_port_holder {h : Holder} (mem : h ∈ l.holders) :
    (s.dissolve q).port h.port = (s.port h.port).offerEvent (.leaseLost q) := by
  have apart := List.disjoint_of_nodup_append once (List.mem_map_of_mem (f := (·.port)) mem)
  rw [dissolve_of_some entry]
  exact (tellEach_other _ _ apart).trans (tellEach_named _ _ (List.nodup_append.mp once).1 mem)

theorem dissolve_port_waiter {w : Waiter} (mem : w ∈ l.waiters) :
    (s.dissolve q).port w.port = (s.port w.port).waitDissolved w.tag := by
  have apart := fun holder => List.disjoint_of_nodup_append once holder (List.mem_map_of_mem (f := (·.port)) mem)
  rw [dissolve_of_some entry]
  refine (tellEach_named _ _ (List.nodup_append.mp once).2.1 mem).trans ?_
  rw [tellEach_other _ _ apart]

end

/-! ## The release and the claims (R6 to R8, R10) -/

theorem releasePage_rest (q : PageNo) :
    s.releasePage q =
      { s with pages := (s.releasePage q).pages, freeList := (s.releasePage q).freeList, banks := (s.releasePage q).banks,
               locks := (s.releasePage q).locks, ports := (s.releasePage q).ports } := by
  rw [State.releasePage, dissolve_rest]
  rfl

theorem releasePage_freeList (q : PageNo) :
    (s.releasePage q).freeList = if s.releasedTo q = .free then s.freeList ++ [q] else s.freeList := by
  rw [State.releasePage, placeReleased_freeList, State.releasedTo, dissolve_page, dissolve_bank,
    dissolve_keeps State.freeList (fun _ _ _ => rfl) (fun _ _ => rfl)]
  rfl

theorem releasePage_bank (q : PageNo) (b : BankNo) :
    (s.releasePage q).bank b =
      if b = bankOf q then ((s.bank b).remove (s.page q).state).insert (s.releasedTo q) else s.bank b := by
  rw [State.releasePage, placeReleased_bank, State.releasedTo, dissolve_page, dissolve_bank]
  rfl

theorem releasePage_port (q : PageNo) (x : Port) : (s.releasePage q).port x = (s.dissolve q).port x := rfl

theorem releasedTo_free_iff (q : PageNo) :
    s.releasedTo q = .free ↔ (s.page q).poisoned = false ∧ (s.bank (bankOf q)).state = .online := by
  unfold State.releasedTo PageRec.releasedState
  by_cases poisoned : (s.page q).poisoned = true
  · simp [poisoned]
  · by_cases online : (s.bank (bankOf q)).state = .online <;> simp [poisoned, online]

/-- A claim releases its page exactly when the page has then no use and is ORPHANED (R8). -/
theorem survivesUnpin_iff {q : PageNo} :
    ¬ s.SurvivesUnpin q ↔ (s.modPage q fun r => { r with pinCount := r.pinCount - 1 }).LastUseGone q := by
  rw [State.LastUseGone, State.page_modPage_same, State.SurvivesUnpin]
  simp only [not_or, not_not, Nat.not_lt, Nat.sub_eq_zero_iff_le]

theorem survivesUnmap_iff {q : PageNo} :
    ¬ s.SurvivesUnmap q ↔ (s.modPage q fun r => { r with mapCount := r.mapCount - 1 }).LastUseGone q := by
  rw [State.LastUseGone, State.page_modPage_same, State.SurvivesUnmap]
  simp only [not_or, not_not, Nat.not_lt, Nat.sub_eq_zero_iff_le]

theorem pinDown_of_survives {q : PageNo} (h : s.SurvivesUnpin q) :
    s.pinDown q = s.modPage q fun r => { r with pinCount := r.pinCount - 1 } :=
  orphanCheck_of_left fun gone => survivesUnpin_iff.mpr gone h

theorem pinDown_of_gone {q : PageNo} (h : ¬ s.SurvivesUnpin q) :
    s.pinDown q = (s.modPage q fun r => { r with pinCount := r.pinCount - 1 }).releasePage q :=
  orphanCheck_of_gone (survivesUnpin_iff.mp h)

theorem mapDown_of_survives {q : PageNo} (h : s.SurvivesUnmap q) :
    s.mapDown q = s.modPage q fun r => { r with mapCount := r.mapCount - 1 } :=
  orphanCheck_of_left fun gone => survivesUnmap_iff.mpr gone h

theorem mapDown_of_gone {q : PageNo} (h : ¬ s.SurvivesUnmap q) :
    s.mapDown q = (s.modPage q fun r => { r with mapCount := r.mapCount - 1 }).releasePage q :=
  orphanCheck_of_gone (survivesUnmap_iff.mp h)

theorem unpinClaim_of_survives {q : PageNo} (h : s.SurvivesUnpin q) :
    s.unpinClaim q = s.modPage q fun r => { r with pinCount := r.pinCount - 1 } := by
  rw [State.unpinClaim, pinDown_of_survives h]
  exact settleBank_same (by rw [State.page_modPage_same])

theorem unmapClaim_of_survives {q : PageNo} (h : s.SurvivesUnmap q) :
    s.unmapClaim q = s.modPage q fun r => { r with mapCount := r.mapCount - 1 } := by
  rw [State.unmapClaim, mapDown_of_survives h]
  exact settleBank_same (by rw [State.page_modPage_same])

/-- What a release leaves of the ports (R11). -/
theorem releasePage_tells {q : PageNo} {l : LockEntry} (entry : s.lockOf q = some l)
    (once : (l.holders.map (·.port) ++ l.waiters.map (·.port)).Nodup) (p : Port) :
    (∀ h ∈ l.holders, h.port = p → (s.releasePage q).port p = (s.port p).offerEvent (.leaseLost q)) ∧
      (∀ w ∈ l.waiters, w.port = p → (s.releasePage q).port p = (s.port p).waitDissolved w.tag) ∧
      (l.holds p = false → l.waits p = false → (s.releasePage q).port p = s.port p) := by
  refine ⟨fun h mem e => ?_, fun w mem e => ?_, fun noHolder noWaiter => dissolve_port_other entry ?_ ?_⟩
  · subst e; exact dissolve_port_holder entry once mem
  · subst e; exact dissolve_port_waiter entry once mem
  · simpa [LockEntry.holds] using noHolder
  · simpa [LockEntry.waits] using noWaiter

theorem lockOf_mem {q : PageNo} {l : LockEntry} (h : s.lockOf q = some l) : l ∈ s.locks ∧ l.page = q :=
  ⟨List.mem_of_find?_eq_some h, by simpa using List.find?_some h⟩

/-- Settles O26. -/
theorem releasePlacesThePage : Obligations.ReleasePlacesThePage := by
  refine ⟨fun s q => ⟨unpinClaim_of_survives, fun h => ?_, unmapClaim_of_survives, fun h => ?_⟩, fun s q sound => ?_⟩
  · rw [State.unpinClaim, pinDown_of_gone h]
  · rw [State.unmapClaim, mapDown_of_gone h]
  refine ⟨by rw [releasePage_lockOf, if_pos rfl], fun x hx => ⟨by rw [releasePage_lockOf, if_neg hx],
    by rw [releasePage_page, if_neg hx]⟩, (releasePage_page q q).trans (if_pos rfl), ?_, ?_, fun b hb => ?_, ?_, fun none => ?_,
    releasePage_rest q⟩
  · rw [releasePage_freeList]
    exact if_congr (releasedTo_free_iff q) rfl rfl
  · rw [releasePage_bank, if_pos rfl, releasePage_page, if_pos rfl]
  · rw [releasePage_bank, if_neg hb]
  · intro l entry p
    exact releasePage_tells entry (sound.entries l (lockOf_mem entry).1).portsOnce p
  · rw [State.releasePage, dissolve_of_none none]
    rfl

end Sys2Proof.Machine

/-! # The end of an access and of a job (R65, R66, R68, R69, R71, R114, R119, R120, R130) -/
namespace Sys2Proof.Machine

variable {s u : State} {p : Port} {t : Tag}

/-! ## The claims offer messages at the most -/

theorem releasePage_told (q : PageNo) : s.Told (s.releasePage q) := (dissolve_told q).trans (.of_ports rfl)

theorem orphanCheck_told (q : PageNo) : s.Told (s.orphanCheck q) := by
  unfold State.orphanCheck
  split
  · exact releasePage_told q
  · exact .refl

theorem pinDown_told (q : PageNo) : s.Told (s.pinDown q) :=
  State.Told.trans (u := s.modPage q fun r => { r with pinCount := r.pinCount - 1 }) (.of_ports rfl) (orphanCheck_told q)
theorem mapDown_told (q : PageNo) : s.Told (s.mapDown q) :=
  State.Told.trans (u := s.modPage q fun r => { r with mapCount := r.mapCount - 1 }) (.of_ports rfl) (orphanCheck_told q)

theorem moveBank_told (b : BankNo) (new : BankState) (cause : BankCause) : s.Told (s.moveBank b new cause) :=
  State.Told.trans (u := s.modBank b fun r => { r with state := new }) (.of_ports rfl) (offerSupervisor_told _)

theorem bankOfflineCheck_told (b : BankNo) : s.Told (s.bankOfflineCheck b) := by
  unfold State.bankOfflineCheck
  split
  · exact moveBank_told _ _ _
  · exact .refl

theorem retireLimitCheck_told (b : BankNo) : s.Told (s.retireLimitCheck b) := by
  unfold State.retireLimitCheck
  split
  · have withheld : s.Told (s.withholdBank b) := .of_ports rfl
    exact (withheld.trans (moveBank_told b _ _)).trans (bankOfflineCheck_told b)
  · exact .refl

theorem settleBank_told (before : State) (q : PageNo) : s.Told (before.settleBank s q) := by
  unfold State.settleBank
  split
  · exact .refl
  split
  · split
    · exact retireLimitCheck_told _
    · exact bankOfflineCheck_told _
  · exact bankOfflineCheck_told _
  all_goals exact .refl

theorem unpinClaim_told (q : PageNo) : s.Told (s.unpinClaim q) := (pinDown_told q).trans (settleBank_told s q)
theorem unmapClaim_told (q : PageNo) : s.Told (s.unmapClaim q) := (mapDown_told q).trans (settleBank_told s q)

theorem unpinClaims_told (l : List PageNo) : s.Told (l.foldl State.unpinClaim s) := .foldl (fun _ q => unpinClaim_told q) l s

/-! ## The end of a job -/

/-- Settles O43. -/
theorem jobEndReportsTheBytesMoved : Obligations.JobEndReportsTheBytesMoved := by
  intro s j outcome
  have told : s.Told ((s.removeJob j.id).unpinJob j) :=
    State.Told.trans (u := s.removeJob j.id) (.of_ports rfl) (unpinClaims_told j.pages)
  refine ⟨fun set pages start kind => by rw [Job.pages, kind], fun pattern kind => by rw [Job.pages, kind], fun opened => ?_,
    fun notOpen => ?_⟩ <;> rw [State.finishJob, State.reportJobEnd, told.isOpen, State.isOpen]
  · exact if_pos (by simpa using opened)
  · exact if_neg (by simpa using notOpen)

/-! ## The end of an access -/

theorem popOp_eq {b : BankNo} {op : StoreOp} {rest : List StoreOp} (head : s.queue b = op :: rest) (m : Pool) :
    s.popOp b m = ({ s with pool := m } : State).modQueue b fun _ => rest := by
  have head' : ({ s with pool := m } : State).queue b = op :: rest := head
  simp only [State.popOp, State.modQueue, head', List.tail_cons]

/-- What a completion does after its record has gone: the reply is offered to an OPEN port alone, and the slot is freed (R71). -/
theorem replyAccess_eq (session : (u.port p).session = (s.port p).session) (code : Byte) (st : Status) (pay : Payload) :
    u.replyAccess p t code st pay =
      if (s.port p).session = .opened then u.modPort p fun c => (c.freeSlot t).offerReply t code st pay
      else u.modPort p fun c => c.freeSlot t := by
  rw [State.replyAccess, State.isOpen, session]
  exact if_congr beq_iff_eq rfl rfl

theorem completeAccess_eq (told : s.Told u) (op : StoreOp) (st : Status) (pay : Payload) :
    u.completeAccess p t op st pay =
      (if (s.port p).session = .opened then
          ((u.dropAccess p t).unpinClaim op.page).modPort p fun c => (c.freeSlot t).offerReply t op.kind.code st pay
        else ((u.dropAccess p t).unpinClaim op.page).modPort p fun c => c.freeSlot t).endAccess p := by
  have dropped : u.Told (u.dropAccess p t) := .of_ports rfl
  have claimed := told.trans (dropped.trans (unpinClaim_told op.page))
  rw [State.completeAccess, replyAccess_eq (claimed p).session]

section
variable {b : BankNo} {op : StoreOp} {rest : List StoreOp} (running : s.phase = .running) (head : s.queue b = op :: rest)
  (origin : op.origin = .access p t)
include running head origin

theorem exec_accessGood :
    exec (.accessCompletionGood b) s = .next
      (if op.readable s.befall.pool = true then
        (({ s.befall with pool := op.store s.befall.pool } : State).modQueue b fun _ => rest).completeAccess p t op .ok
          (op.result s.befall.pool)
      else s) := by
  have taken : exec (.accessCompletionGood b) s = .next (s.accessGood b) :=
    congrArg Host.Outcome.next (if_pos (isRunning_iff.mpr running))
  rw [taken, State.accessGood, head]
  simp only [origin]
  rw [popOp_eq ((befall_queue b).trans head)]

theorem exec_accessBad :
    exec (.accessCompletionUncorrectable b) s = .next
      (if op.kind.reads = true then
        (((s.befallBad op).poison op.page).modQueue b fun _ => rest).completeAccess p t op .mediaError .none
      else s) := by
  have taken : exec (.accessCompletionUncorrectable b) s = .next (s.accessBad b) :=
    congrArg Host.Outcome.next (if_pos (isRunning_iff.mpr running))
  have head' : ((s.befallBad op).poison op.page).queue b = op :: rest := (befallBad_queue op b).trans head
  rw [taken, State.accessBad, head]
  simp only [origin]
  rw [popOp_eq head']
  rfl

end

theorem befall_told : s.Told s.befall := .of_ports (by rw [befall_rest])
theorem befallBad_told (op : StoreOp) : s.Told (s.befallBad op) := .of_ports (by rw [befallBad_rest])

/-- Settles O35. -/
theorem completionsAnswerTheAccess : Obligations.CompletionsAnswerTheAccess := by
  intro s b op rest p t running head origin
  rw [exec_accessGood running head origin, exec_accessBad running head origin]
  refine ⟨fun readable => ?_, fun unreadable => ?_, fun reads => ?_, fun reads => ?_⟩
  · have popped : s.Told (({ s.befall with pool := op.store s.befall.pool } : State).modQueue b fun _ => rest) :=
      befall_told.trans (.of_ports rfl)
    rw [if_pos readable, completeAccess_eq popped]
    rfl
  · rw [if_neg (by simp [unreadable])]
  · have popped : s.Told (((s.befallBad op).poison op.page).modQueue b fun _ => rest) :=
      (befallBad_told op).trans (.of_ports rfl)
    rw [if_pos reads, completeAccess_eq popped]
    rfl
  · rw [if_neg (by simp [reads])]

end Sys2Proof.Machine

/-! # The queries, MAP, UNMAP and GRANT that raises a right (R17, R18, R23, R34, R35, R37, R45, R201) -/
namespace Sys2Proof.Machine

variable {s u v : State} {p : Port} {t : Tag}

/-! ## The queries -/

theorem exec_pageQuery (h : s.Takes p t) (page : Half) :
    exec (.pageQuery p t page) s = .next ((s.handed p t (.pageQuery page)).pageQuery p t page) :=
  congrArg Host.Outcome.next (receive_handed h 0x13 nofun rfl)

theorem exec_mapQuery (h : s.Takes p t) {setCode : Byte} {set : MapSet} (named : mapSetOf setCode = some set)
    (first count : Byte) :
    exec (.mapQuery p t setCode first count) s =
      .next ((s.handed p t (.mapQuery set first count)).mapQuery p t set first count) := by
  have request : mapQueryRequest setCode first count = some (.mapQuery set first count) := by rw [mapQueryRequest, named]; rfl
  show Host.Outcome.next (s.receive p t 0x23 (.ofOption (mapQueryRequest setCode first count))) = _
  rw [request]
  exact congrArg Host.Outcome.next (receive_handed h 0x23 nofun rfl)

/-- The list of a set's entries. -/
theorem entries_getElem (m : PortMaps) (set : MapSet) {first count i : Nat} (h : i < (m.entries set first count).length)
    (f : FrameNo) (hf : f.val = first + i) : (m.entries set first count)[i] = m.entry set f := by
  cases set <;> simp [PortMaps.entries, PortMaps.entry, hf]

theorem entries_length (m : PortMaps) (set : MapSet) {first count : Nat} (h : first + count ≤ 64) :
    (m.entries set first count).length = count := by
  cases set <;> simp [PortMaps.entries] <;> omega

/-- Settles O29. -/
theorem queriesReportWhatTheyAsk : Obligations.QueriesReportWhatTheyAsk := by
  refine ⟨fun p t page s h => ?_, fun p t setCode first count s set h named => ?_, fun p t s h role => ?_⟩
  · rw [exec_pageQuery h]
    refine ⟨fun bad => ?_, fun q hq => ?_⟩ <;> rw [State.pageQuery]
    · rw [below_eq_none.mpr bad]
      exact congrArg _ (handed_answer h _ _ _ _)
    · rw [← hq, below_val]
      exact congrArg _ (handed_answer h _ _ _ _)
  · rw [exec_mapQuery h named]
    have zero : count = 0 ↔ count.toNat = 0 := by simp [BitVec.toNat_eq]
    simp only [State.mapQuery]
    refine ⟨fun bad => ?_, fun one room => ⟨(s.map p).entries set first.toNat count.toNat, entries_length _ _ room,
      fun i hi => ?_, ?_⟩⟩
    · rw [if_pos (by rw [zero]; exact bad), handed_answer h]
    · rw [entries_length _ _ room] at hi
      exact ⟨⟨first.toNat + i, by omega⟩, rfl, entries_getElem _ _ _ _ rfl⟩
    · rw [if_neg (by rw [zero]; omega), handed_answer h]
      rfl
  · have sessions : mapEach (s.handed p t .poolQuery).ports (fun _ c => c.session) =
        #v[(s.port 0).session, (s.port 1).session, (s.port 2).session, (s.port 3).session] := by
      have session : ∀ x, ((s.handed p t .poolQuery).port x).session = (s.port x).session := withSlot_session s p t _ _
      ext1 i hi
      rw [getElem_mapEach]
      refine (session ⟨i, hi⟩).trans ?_
      match i, hi with
      | 0, _ | 1, _ | 2, _ | 3, _ => rfl
    have taken : exec (.poolQuery p t) s = .next ((s.handed p t .poolQuery).poolQuery p t) :=
      congrArg Host.Outcome.next (receive_handed h 0x64 (fun _ => role) rfl)
    rw [taken, State.poolQuery, sessions, handed_answer h, ← role]
    rfl

/-! ## GRANT that raises or keeps a right -/

theorem State.Takes.of_ports (h : s.Takes p t) (phase : u.phase = s.phase) (ports : u.ports = s.ports) : u.Takes p t := by
  have port : u.port = s.port := by funext x; simp only [State.port, ports]
  exact ⟨⟨phase.trans h.hears.running, by rw [port]; exact h.hears.line⟩, by rw [port]; exact h.opened,
    by rw [port]; exact h.tagFree, by rw [port]; exact h.slotFree⟩

section
variable {page : Half} {target right : Byte} {g : Right} (h : s.Takes p t) (named : rightOf right = some g)
include h named

theorem exec_grant : exec (.grant p t page target right) s =
    .next ((s.handed p t (.grant page target g)).grant p t page target g) := by
  have request : grantRequest page target right = some (.grant page target g) := by rw [grantRequest, named]; rfl
  show Host.Outcome.next (s.receive p t 0x12 (.ofOption (grantRequest page target right))) = _
  rw [request]
  exact congrArg Host.Outcome.next (receive_handed h 0x12 nofun rfl)

/-- The checks of GRANT that come before its right (R17). -/
theorem exec_grant_bounds (bad : 2048 ≤ page.toNat ∨ 4 ≤ target.toNat) :
    exec (.grant p t page target right) s = .next (s.reply p t 0x12 .bounds) := by
  rw [exec_grant h named, State.grant]
  split
  · next q x hq hx =>
    rw [below_eq_some] at hq hx
    have := q.isLt; have := x.isLt
    omega
  all_goals exact congrArg _ (handed_answer h _ _ _ _)

theorem exec_grant_checked {q : PageNo} {x : Port} (hq : q.val = page.toNat) (hx : x.val = target.toNat) :
    exec (.grant p t page target right) s = .next
      (if s.owns p q = false then s.reply p t 0x12 .denied
      else if x = p ∨ (s.port x).session ≠ .opened then s.reply p t 0x12 .badState
      else (s.handed p t (.grant page target g)).grantTaken p t q x g) := by
  rw [exec_grant h named, State.grant, ← hq, ← hx, below_val, below_val]
  dsimp only
  have owns : (s.handed p t (.grant page target g)).owns p q = s.owns p q := rfl
  have opened : (s.handed p t (.grant page target g)).isOpen x = s.isOpen x := withSlot_isOpen s p t _ _ x
  rw [owns, opened, handed_answer h, handed_answer h, State.isOpen]
  congr 1
  refine if_congr (by simp) rfl ?_
  by_cases same : x = p
  · rw [if_pos same, if_pos (.inl same)]
  · rw [if_neg same]
    exact if_congr (by simp [same]) rfl rfl

end

/-- A GRANT that does not lower the recorded right writes it and no more (R18). -/
theorem grantTaken_of_le {q : PageNo} {x : Port} {g : Right} (kept : (s.page q).grants[x].code ≤ g.code) :
    s.grantTaken p t q x g = (s.setGrant q x g).answer p t 0x12 .ok := by
  unfold State.grantTaken
  dsimp only
  split
  · next recorded => rw [recorded] at kept; exact absurd kept (by decide)
  · next recorded => rw [recorded] at kept; exact absurd kept (by decide)
  · next recorded => rw [recorded] at kept; exact absurd kept (by decide)
  all_goals rfl

/-- Settles O27. -/
theorem grantRaisesARight : Obligations.GrantRaisesARight := by
  intro p t page target right s g h named
  refine ⟨exec_grant_bounds h named, fun q x hq hx => ?_⟩
  rw [exec_grant_checked h named hq hx]
  refine ⟨fun denied => ?_, fun owned bad => ?_, fun owned other opened kept => ?_⟩
  · rw [if_pos (by simpa [← owns_iff_Owns] using denied)]
  · rw [if_neg (by simp [owns_iff_Owns.mpr owned]), if_pos bad]
  · rw [if_neg (by simp [owns_iff_Owns.mpr owned]), if_neg (by simp [other, opened]), grantTaken_of_le (s := s.handed _ _ _) kept]
    have granted : (s.setGrant q x g).Takes p t := h.of_ports rfl rfl
    exact congrArg _ (handed_answer granted _ _ _ _)

/-! ## A slot freed before or after a release -/

/-- The state with a slot of a port freed. -/
def State.freed (s : State) (p : Port) (t : Tag) : State := s.modPort p (·.freeSlot t)

theorem modPort_comm {x : Port} {f g : PortCtl → PortCtl} (comm : ∀ c, f (g c) = g (f c)) :
    (s.modPort x g).modPort p f = (s.modPort p f).modPort x g := by
  have port : ∀ y, ((s.modPort x g).modPort p f).port y = ((s.modPort p f).modPort x g).port y := fun y => by
    simp only [State.port_modPort]
    by_cases hp : y = p <;> by_cases hx : y = x
    · subst hp; subst hx; simp [comm]
    · subst hp; simp [hx]
    · subst hx; simp [hp]
    · simp [hp, hx]
  have ports : ((s.modPort x g).modPort p f).ports = ((s.modPort p f).modPort x g).ports := by
    ext1 i hi
    exact port ⟨i, hi⟩
  show { s with ports := ((s.modPort x g).modPort p f).ports } = { s with ports := ((s.modPort p f).modPort x g).ports }
  rw [ports]

theorem freeSlot_offerEvent (c : PortCtl) (e : Event) : (c.offerEvent e).freeSlot t = (c.freeSlot t).offerEvent e := by
  have overflow : ∀ c : PortCtl, c.admitOverflow.freeSlot t = (c.freeSlot t).admitOverflow := fun c => by
    unfold PortCtl.admitOverflow
    by_cases h : c.session = .opened ∧ 0 < c.lost ∧ c.outbound.length < Config.eventPlaces
    · rw [if_pos h, if_pos (by exact h)]; rfl
    · rw [if_neg h, if_neg (by exact h)]
  have joined : ∀ c : PortCtl, (c.admitOrLose e).freeSlot t = (c.freeSlot t).admitOrLose e := fun c => by
    unfold PortCtl.admitOrLose
    by_cases h : c.outbound.length < Config.eventPlaces
    · rw [if_pos h, if_pos (by exact h)]; rfl
    · rw [if_neg h, if_neg (by exact h)]; rfl
  have both : (c.admitOverflow.admitOrLose e).freeSlot t = (c.freeSlot t).admitOverflow.admitOrLose e := by
    rw [joined, overflow]
  have opened : (if c.session = .opened then c.admitOverflow.admitOrLose e else c).freeSlot t =
      if (c.freeSlot t).session = .opened then (c.freeSlot t).admitOverflow.admitOrLose e else c.freeSlot t := by
    by_cases h : c.session = .opened
    · rw [if_pos h, if_pos (by exact h), both]
    · rw [if_neg h, if_neg (by exact h)]
  cases e
  case sessionEnd =>
    unfold PortCtl.offerEvent
    dsimp only
    by_cases h : c.outbound.length < Config.queuePlaces
    · rw [if_pos h, if_pos (by exact h)]; rfl
    · rw [if_neg h, if_neg (by exact h)]
  case ready => exact both
  all_goals exact opened

theorem freeSlot_offerReply (c : PortCtl) (t' : Tag) (code : Byte) (st : Status) (pay : Payload) :
    (c.offerReply t' code st pay).freeSlot t = (c.freeSlot t).offerReply t' code st pay := by
  unfold PortCtl.offerReply
  by_cases h : c.outbound.length < Config.queuePlaces
  · rw [if_pos h, if_pos (by exact h)]; rfl
  · rw [if_neg h, if_neg (by exact h)]

theorem freeSlot_freeSlot (c : PortCtl) (t' : Tag) : (c.freeSlot t').freeSlot t = (c.freeSlot t).freeSlot t' := by
  simp only [PortCtl.freeSlot, List.filter_filter, Bool.and_comm]

theorem freeSlot_waitDissolved (c : PortCtl) (t' : Tag) : (c.waitDissolved t').freeSlot t = (c.freeSlot t).waitDissolved t' := by
  unfold PortCtl.waitDissolved
  by_cases h : c.session = .opened
  · rw [if_pos h, if_pos (by exact h), freeSlot_offerReply, freeSlot_freeSlot]
  · rw [if_neg h, if_neg (by exact h), freeSlot_freeSlot]

theorem freed_offer (x : Port) (e : Event) : (s.offer x e).freed p t = (s.freed p t).offer x e :=
  modPort_comm fun c => freeSlot_offerEvent c e

theorem freed_offerSupervisor (e : Event) : (s.offerSupervisor e).freed p t = (s.freed p t).offerSupervisor e := by
  have role : (s.freed p t).role = s.role := rfl
  unfold State.offerSupervisor
  rw [role]
  split
  · rfl
  · exact freed_offer _ _

theorem freed_tellEach {α : Type} (port : α → Port) (f : α → PortCtl → PortCtl)
    (comm : ∀ a c, (f a c).freeSlot t = f a (c.freeSlot t)) (l : List α) :
    (s.tellEach port f l).freed p t = (s.freed p t).tellEach port f l := by
  induction l generalizing s with
  | nil => rfl
  | cons a l ih =>
    show ((s.modPort (port a) (f a)).tellEach port f l).freed p t = ((s.freed p t).modPort (port a) (f a)).tellEach port f l
    rw [ih]
    congr 1
    exact modPort_comm (comm a)

theorem freed_dissolve (q : PageNo) : (s.dissolve q).freed p t = (s.freed p t).dissolve q := by
  cases h : s.lockOf q with
  | none =>
    have h' : (s.freed p t).lockOf q = none := h
    rw [dissolve_of_none h, dissolve_of_none h']
  | some l =>
    have h' : (s.freed p t).lockOf q = some l := h
    rw [dissolve_of_some h, dissolve_of_some h', ← freed_tellEach _ _ (fun _ c => freeSlot_offerEvent c _),
     
      ← freed_tellEach (α := Waiter) _ _ (fun w c => freeSlot_waitDissolved c w.tag)]
    rfl

theorem freed_releasePage (q : PageNo) : (s.releasePage q).freed p t = (s.freed p t).releasePage q := by
  rw [State.releasePage, State.releasePage, ← freed_dissolve]
  rfl

theorem freed_moveBank (b : BankNo) (new : BankState) (cause : BankCause) :
    (s.moveBank b new cause).freed p t = (s.freed p t).moveBank b new cause := by
  rw [State.moveBank, freed_offerSupervisor]
  rfl

theorem freed_bankOfflineCheck (b : BankNo) : (s.bankOfflineCheck b).freed p t = (s.freed p t).bankOfflineCheck b := by
  have bank : (s.freed p t).bank b = s.bank b := rfl
  unfold State.bankOfflineCheck
  rw [bank]
  split
  · exact freed_moveBank _ _ _
  · rfl

theorem freed_retireLimitCheck (b : BankNo) : (s.retireLimitCheck b).freed p t = (s.freed p t).retireLimitCheck b := by
  have bank : (s.freed p t).bank b = s.bank b := rfl
  have config : (s.freed p t).config = s.config := rfl
  unfold State.retireLimitCheck
  rw [bank, config]
  split
  · rw [State.drainBank, freed_bankOfflineCheck, freed_moveBank]
    rfl
  · rfl

theorem freed_settleBank (before : State) (q : PageNo) :
    (before.settleBank s q).freed p t = before.settleBank (s.freed p t) q := by
  have page : (s.freed p t).page q = s.page q := rfl
  have bank : (s.freed p t).bank (bankOf q) = s.bank (bankOf q) := rfl
  unfold State.settleBank
  rw [page, bank]
  split
  · rfl
  split
  · split
    · exact freed_retireLimitCheck _
    · exact freed_bankOfflineCheck _
  · exact freed_bankOfflineCheck _
  all_goals rfl

/-- An answer is a reply after its slot is freed. -/
theorem answer_eq_reply (code : Byte) (st : Status) (pay : Payload) :
    s.answer p t code st pay = (s.freed p t).reply p t code st pay := by
  rw [State.reply, State.freed, State.modPort_modPort]
  rfl

theorem freed_handed (h : s.Takes p t) (r : Request) : (s.handed p t r).freed p t = s := by
  rw [State.freed, State.handed, State.withSlot, State.modPort_modPort]
  refine State.modPort_id ?_
  rw [PortCtl.freeSlot, filter_slots_append h.tagFree]

end Sys2Proof.Machine

/-! # MAP, UNMAP and GRANT that lowers a right (R19 to R21, R34, R35, R37, R39) -/
namespace Sys2Proof.Machine

variable {s u v : State} {p : Port} {t : Tag}

/-! ## MAP -/

/-- A MAP's right (R4, R34). -/
theorem allows_iff {r : Right} {a : Access} : r.allows a = true ↔ r = .readWrite ∨ r = .read ∧ a = .readOnly := by
  cases r <;> cases a <;> simp [Right.allows]

section
variable {setCode frame accessCode : Byte} {page : Half} {set : MapSet} {a : Access} (h : s.Takes p t)
  (named : mapSetOf setCode = some set)
include h named

theorem exec_map (access : accessOf accessCode = some a) : exec (.map p t setCode frame page accessCode) s =
    .next ((s.handed p t (.map set frame page a)).mapFrame p t set frame page a) := by
  have request : mapRequest setCode frame page accessCode = some (.map set frame page a) := by
    rw [mapRequest, named, access]; rfl
  show Host.Outcome.next (s.receive p t 0x20 (.ofOption (mapRequest setCode frame page accessCode))) = _
  rw [request]
  exact congrArg Host.Outcome.next (receive_handed h 0x20 nofun rfl)

theorem exec_map_bounds (access : accessOf accessCode = some a) (bad : 64 ≤ frame.toNat ∨ 2048 ≤ page.toNat) :
    exec (.map p t setCode frame page accessCode) s = .next (s.reply p t 0x20 .bounds) := by
  rw [exec_map h named access, State.mapFrame]
  split
  · next f q hf hq =>
    rw [below_eq_some] at hf hq
    have := f.isLt; have := q.isLt
    omega
  all_goals exact congrArg _ (handed_answer h _ _ _ _)

theorem exec_map_checked (access : accessOf accessCode = some a) {f : FrameNo} {q : PageNo} (hf : f.val = frame.toNat)
    (hq : q.val = page.toNat) : exec (.map p t setCode frame page accessCode) s = .next
      (if ((s.page q).rightOf p).allows a then (s.handed p t (.map set frame page a)).mapTaken p t set f q a
      else s.reply p t 0x20 .denied) := by
  rw [exec_map h named access, State.mapFrame, ← hf, ← hq, below_val, below_val]
  dsimp only
  rw [handed_answer h]
  rfl

theorem exec_unmap : exec (.unmap p t setCode frame) s =
    .next ((s.handed p t (.unmap set frame)).unmapFrame p t set frame) := by
  have request : unmapRequest setCode frame = some (.unmap set frame) := by rw [unmapRequest, named]; rfl
  show Host.Outcome.next (s.receive p t 0x21 (.ofOption (unmapRequest setCode frame))) = _
  rw [request]
  exact congrArg Host.Outcome.next (receive_handed h 0x21 nofun rfl)

theorem exec_unmap_bounds (bad : 64 ≤ frame.toNat) :
    exec (.unmap p t setCode frame) s = .next (s.reply p t 0x21 .bounds) := by
  rw [exec_unmap h named, State.unmapFrame, below_eq_none.mpr bad]
  exact congrArg _ (handed_answer h _ _ _ _)

theorem exec_unmap_unmapped {f : FrameNo} (hf : f.val = frame.toNat) (disabled : s.resolve p set f = none) :
    exec (.unmap p t setCode frame) s = .next (s.reply p t 0x21 .unmapped) := by
  rw [exec_unmap h named, State.unmapFrame, ← hf, below_val]
  dsimp only
  rw [State.handed, withSlot_resolve, disabled]
  exact congrArg _ (handed_answer h _ _ _ _)

theorem exec_unmap_mapped {f : FrameNo} (hf : f.val = frame.toNat) {e : Entry} (enabled : s.resolve p set f = some e) :
    exec (.unmap p t setCode frame) s = .next
      (s.settleBank ((((s.handed p t (.unmap set frame)).setEntry p set f none).mapDown e.page).answer p t 0x21 .ok
        (.previous (some e.page))) e.page) := by
  have enabled' : (s.handed p t (.unmap set frame)).resolve p set f = some e := enabled
  rw [exec_unmap h named, State.unmapFrame, ← hf, below_val]
  dsimp only
  rw [enabled']
  rfl

end

/-- MAP over no entry: the page gains a use (R35). -/
theorem mapTaken_none (h : s.Takes p t) (r : Request) {set : MapSet} {f : FrameNo} {q : PageNo} {a : Access}
    (old : s.resolve p set f = none) :
    (s.handed p t r).mapTaken p t set f q a =
      ((s.setEntry p set f (some { page := q, access := a })).mapUp q).reply p t 0x20 .ok (.previous none) := by
  have old' : (s.handed p t r).resolve p set f = none := old
  have written : ((s.setEntry p set f (some { page := q, access := a })).mapUp q).Takes p t := h.of_ports rfl rfl
  simp only [State.mapTaken, old', State.mapClaim]
  exact handed_answer written r _ _ _

theorem mapTaken_same (h : s.Takes p t) (r : Request) {set : MapSet} {f : FrameNo} {q : PageNo} {a : Access} {e : Entry}
    (old : s.resolve p set f = some e) (same : e.page = q) :
    (s.handed p t r).mapTaken p t set f q a =
      (s.setEntry p set f (some { page := q, access := a })).reply p t 0x20 .ok (.previous (some q)) := by
  have old' : (s.handed p t r).resolve p set f = some e := old
  have written : (s.setEntry p set f (some { page := q, access := a })).Takes p t := h.of_ports rfl rfl
  simp only [State.mapTaken, old', State.mapClaim, same, if_true, Option.map_some]
  exact handed_answer written r _ _ _

section
variable (h : s.Takes p t) (r : Request) {set : MapSet} {f : FrameNo} {q : PageNo} {a : Access} {e : Entry}
  (old : s.resolve p set f = some e) (other : e.page ≠ q)
include old other

theorem mapTaken_other :
    (s.handed p t r).mapTaken p t set f q a =
      (((s.setEntry p set f (some { page := q, access := a })).mapUp q).handed p t r |>.unmapClaim e.page).answer p t 0x20 .ok
        (.previous (some e.page)) := by
  have old' : (s.handed p t r).resolve p set f = some e := old
  simp only [State.mapTaken, old', State.mapClaim, other, if_false, Option.map_some]
  rfl

include h

theorem mapTaken_survives (survives : s.SurvivesUnmap e.page) :
    (s.handed p t r).mapTaken p t set f q a =
      (((s.setEntry p set f (some { page := q, access := a })).mapUp q).modPage e.page fun r =>
        { r with mapCount := r.mapCount - 1 }).reply p t 0x20 .ok (.previous (some e.page)) := by
  have page : ((s.setEntry p set f (some { page := q, access := a })).mapUp q).page e.page = s.page e.page :=
    State.page_modPage_ne _ _ _ other
  have survives' : (((s.setEntry p set f (some { page := q, access := a })).mapUp q).handed p t r).SurvivesUnmap e.page := by
    rw [State.SurvivesUnmap, State.handed, withSlot_page, page]; exact survives
  have lowered : (((s.setEntry p set f (some { page := q, access := a })).mapUp q).modPage e.page fun r =>
      { r with mapCount := r.mapCount - 1 }).Takes p t := h.of_ports rfl rfl
  rw [mapTaken_other r old other, unmapClaim_of_survives survives']
  exact handed_answer lowered r _ _ _

theorem mapTaken_gone (gone : ¬ s.SurvivesUnmap e.page) :
    (s.handed p t r).mapTaken p t set f q a =
      (s.settleBank ((((s.setEntry p set f (some { page := q, access := a })).mapUp q).modPage e.page fun r =>
        { r with mapCount := r.mapCount - 1 }).releasePage e.page) e.page).reply p t 0x20 .ok (.previous (some e.page)) := by
  have page : ((s.setEntry p set f (some { page := q, access := a })).mapUp q).page e.page = s.page e.page :=
    State.page_modPage_ne _ _ _ other
  have gone' : ¬ (((s.setEntry p set f (some { page := q, access := a })).mapUp q).handed p t r).SurvivesUnmap e.page := by
    rw [State.SurvivesUnmap, State.handed, withSlot_page, page]; exact gone
  have lowered : (((s.setEntry p set f (some { page := q, access := a })).mapUp q).modPage e.page fun r =>
      { r with mapCount := r.mapCount - 1 }).Takes p t := h.of_ports rfl rfl
  have before : ∀ w, (((s.setEntry p set f (some { page := q, access := a })).mapUp q).handed p t r).settleBank w e.page =
      s.settleBank w e.page := fun w => by
    simp only [State.settleBank, State.handed, withSlot_page, page]
  rw [mapTaken_other r old other, State.unmapClaim, mapDown_of_gone gone', before, answer_eq_reply, freed_settleBank,
    freed_releasePage]
  congr 3
  exact freed_handed lowered r

end

/-- Settles O30. -/
theorem mapAndUnmapWriteTheEntry : Obligations.MapAndUnmapWriteTheEntry := by
  refine ⟨fun p t setCode frame page accessCode s set a h named access => ⟨exec_map_bounds h named access,
    fun f q hf hq => ?_⟩, fun p t setCode frame s set h named => ⟨exec_unmap_bounds h named, fun f hf =>
    ⟨exec_unmap_unmapped h named hf, fun e enabled => ?_⟩⟩⟩
  · rw [exec_map_checked h named access hf hq]
    refine ⟨fun denied => if_neg (mt allows_iff.mp denied) ▸ rfl, fun allowed => ?_⟩
    rw [if_pos (allows_iff.mpr allowed)]
    exact ⟨fun old => congrArg _ (mapTaken_none h _ old), fun e old same => congrArg _ (mapTaken_same h _ old same),
      fun e old other => ⟨fun survives => congrArg _ (mapTaken_survives h _ old other survives),
        fun gone => congrArg _ (mapTaken_gone h _ old other gone)⟩⟩
  · have cleared : ((s.setEntry p set f none).modPage e.page fun r => { r with mapCount := r.mapCount - 1 }).Takes p t :=
      h.of_ports rfl rfl
    rw [exec_unmap_mapped h named hf enabled]
    refine ⟨fun survives => ?_, fun gone => ?_⟩
    · have survives' : ((s.handed p t (.unmap set frame)).setEntry p set f none).SurvivesUnmap e.page := survives
      rw [mapDown_of_survives survives']
      refine congrArg _ ((settleBank_same ?_).trans (handed_answer cleared _ _ _ _))
      exact (congrArg PageRec.state (page_mapLess (s := (s.handed p t (.unmap set frame)).setEntry p set f none) _ _)).symm
    · have gone' : ¬ ((s.handed p t (.unmap set frame)).setEntry p set f none).SurvivesUnmap e.page := gone
      rw [mapDown_of_gone gone', answer_eq_reply, freed_releasePage]
      congr 4
      exact freed_handed cleared _

end Sys2Proof.Machine

/-! # GRANT that lowers a right (R19 to R21, R39) -/
namespace Sys2Proof.Machine

variable {s u v : State} {p : Port} {t : Tag}

/-! ## The entries that change -/

theorem mem_bothWhere {m : PortMaps} {f : FrameEntry → Bool} {set : MapSet} {i : FrameNo} :
    (set, i) ∈ m.bothWhere f ↔ f (m.entry set i) = true := by
  cases set <;> simp [PortMaps.bothWhere, PortMaps.framesWhere]

theorem nodup_bothWhere (m : PortMaps) (f : FrameEntry → Bool) : (m.bothWhere f).Nodup := by
  have frames : ∀ set, (m.framesWhere set f).Nodup := fun set =>
    ((List.nodup_finRange 64).filter _).map fun i j e => congrArg Prod.snd e
  refine List.nodup_append.mpr ⟨frames .a, frames .b, ?_⟩
  rintro x hx y hy rfl
  obtain ⟨i, -, rfl⟩ := List.mem_map.mp hx
  obtain ⟨j, -, e⟩ := List.mem_map.mp hy
  cases e

/-- Some entries of a port changed, with their claims on one page. -/
structure State.EntriesChanged (s u : State) (x : Port) (q : PageNo) (xs : List (MapSet × FrameNo))
    (change : FrameEntry → FrameEntry) (claims : Nat) : Prop where
  resolve : ∀ y set f, u.resolve y set f = if y = x ∧ (set, f) ∈ xs then change (s.resolve y set f) else s.resolve y set f
  page : u.page q = { s.page q with mapCount := (s.page q).mapCount - claims }
  others : ∀ y, y ≠ q → u.page y = s.page y
  selection : ∀ y, (u.map y).present = (s.map y).present ∧ (u.map y).pendingSet = (s.map y).pendingSet ∧
    (u.map y).inFlight = (s.map y).inFlight
  rest : u = { s with pages := u.pages, maps := u.maps }

theorem State.EntriesChanged.refl (x : Port) (q : PageNo) (change : FrameEntry → FrameEntry) : s.EntriesChanged s x q [] change 0 :=
  ⟨fun y set f => by simp, rfl, fun _ _ => rfl, fun _ => ⟨rfl, rfl, rfl⟩, rfl⟩

theorem setEntry_selection (x : Port) (set : MapSet) (f : FrameNo) (e : FrameEntry) (y : Port) :
    ((s.setEntry x set f e).map y).present = (s.map y).present ∧
      ((s.setEntry x set f e).map y).pendingSet = (s.map y).pendingSet ∧
      ((s.setEntry x set f e).map y).inFlight = (s.map y).inFlight := by
  rw [State.setEntry, State.map_modMap]
  split
  · next same => subst same; cases set <;> exact ⟨rfl, rfl, rfl⟩
  · exact ⟨rfl, rfl, rfl⟩

/-- One entry changed before the others. -/
theorem State.EntriesChanged.cons {x : Port} {q : PageNo} {z : MapSet × FrameNo} {xs : List (MapSet × FrameNo)}
    {change : FrameEntry → FrameEntry} {m n : Nat} (once : z ∉ xs ∨ ∀ e, change (change e) = change e)
    (first : s.EntriesChanged u x q [z] change m) (h : u.EntriesChanged v x q xs change n) :
    s.EntriesChanged v x q (z :: xs) change (m + n) where
  resolve y set f := by
    rw [h.resolve, first.resolve]
    by_cases hy : y = x
    · by_cases here : (set, f) = z
      · subst here
        rcases once with absent | twice
        · simp [hy, absent]
        · simp [hy, twice]
      · simp [hy, here]
    · simp [hy]
  page := by
    rw [h.page, first.page, Nat.sub_sub]
  others y hy := (h.others y hy).trans (first.others y hy)
  selection y := by
    obtain ⟨present, pendingSet, inFlight⟩ := first.selection y
    obtain ⟨present', pendingSet', inFlight'⟩ := h.selection y
    exact ⟨present'.trans present, pendingSet'.trans pendingSet, inFlight'.trans inFlight⟩
  rest := by rw [h.rest, first.rest]

/-- An entry made READ-ONLY. -/
def FrameEntry.downgraded (e : FrameEntry) : FrameEntry := e.map fun e => { e with access := .readOnly }

theorem downgradeEntry_changed (x : Port) (q : PageNo) (z : MapSet × FrameNo) :
    s.EntriesChanged (s.downgradeEntry x z) x q [z] FrameEntry.downgraded 0 where
  resolve y set f := by
    rw [State.downgradeEntry, setEntry_resolve]
    by_cases h : y = x ∧ set = z.1 ∧ f = z.2
    · obtain ⟨rfl, rfl, rfl⟩ := h
      simp [FrameEntry.downgraded]
    · rw [if_neg h, if_neg]
      simpa [Prod.ext_iff] using h
  page := rfl
  others _ _ := rfl
  selection := setEntry_selection _ _ _ _
  rest := rfl

theorem downgradeEntries_changed (x : Port) (q : PageNo) (xs : List (MapSet × FrameNo)) :
    s.EntriesChanged (xs.foldl (fun s z => State.downgradeEntry s x z) s) x q xs FrameEntry.downgraded 0 := by
  induction xs generalizing s with
  | nil => exact .refl x q _
  | cons z xs ih =>
    exact .cons (.inr fun e => by cases e <;> rfl) (downgradeEntry_changed x q z) ih

theorem disableEntry_changed {x : Port} {q : PageNo} {z : MapSet × FrameNo} (used : (s.page q).state = .allocated)
    (named : names q (s.resolve x z.1 z.2) = true) :
    s.EntriesChanged (s.disableEntry x z) x q [z] (fun _ => none) 1 := by
  obtain ⟨e, enabled, rfl⟩ : ∃ e, s.resolve x z.1 z.2 = some e ∧ e.page = q := by
    cases enabled : s.resolve x z.1 z.2 with
    | none => rw [enabled] at named; cases named
    | some e => rw [enabled] at named; exact ⟨e, rfl, by simpa [names] using named⟩
  have survives : (s.setEntry x z.1 z.2 none).SurvivesUnmap e.page := .inl (by rw [setEntry_page, used]; nofun)
  have disabled : s.disableEntry x z =
      (s.setEntry x z.1 z.2 none).modPage e.page fun r => { r with mapCount := r.mapCount - 1 } := by
    rw [State.disableEntry, enabled]
    exact unmapClaim_of_survives survives
  rw [disabled]
  refine ⟨fun y set f => ?_, State.page_modPage_same .., fun y hy => State.page_modPage_ne _ _ _ hy,
    setEntry_selection (s := s) x z.1 z.2 none, rfl⟩
  refine (setEntry_resolve (s := s) x y z.1 set z.2 f none).trans ?_
  simp [Prod.ext_iff]

theorem disableEntries_changed {x : Port} {q : PageNo} {xs : List (MapSet × FrameNo)} (once : xs.Nodup)
    (used : (s.page q).state = .allocated) (named : ∀ z ∈ xs, names q (s.resolve x z.1 z.2) = true) :
    s.EntriesChanged (xs.foldl (fun s z => State.disableEntry s x z) s) x q xs (fun _ => none) xs.length := by
  induction xs generalizing s with
  | nil => exact .refl x q _
  | cons z xs ih =>
    obtain ⟨absent, once'⟩ := List.nodup_cons.mp once
    have first := disableEntry_changed used (named z (by simp))
    rw [List.length_cons, Nat.add_comm]
    refine .cons (.inl absent) first (ih once' (by rw [first.page]; exact used) fun y hy => ?_)
    have other : y ≠ z := fun e => absent (e ▸ hy)
    rw [first.resolve, if_neg (by simpa using other)]
    exact named y (by simp [hy])

/-! ## MAP-CHANGED (R19 to R21) -/

theorem modPort_ports_congr (ports : u.ports = s.ports) (x : Port) (f : PortCtl → PortCtl) :
    (u.modPort x f).ports = (s.modPort x f).ports := by
  simp only [State.modPort, State.port, ports]

theorem offerMapChanged_eq (x : Port) (q : PageNo) (pairs : List ChangedEntry) :
    s.offerMapChanged x q pairs =
      if pairs = [] then s
      else if pairs.length ≤ 64 then s.modPort x (·.offerEvent (.mapChanged q (pairs.take 64)))
      else (s.modPort x (·.offerEvent (.mapChanged q (pairs.take 64)))).modPort x
        (·.offerEvent (.mapChanged q (pairs.drop 64))) := by
  have rest : (pairs.drop 64).isEmpty = true ↔ pairs.length ≤ 64 := by simp
  simp only [State.offerMapChanged]
  refine if_congr (by simp) rfl ?_
  exact if_congr rest rfl rfl

theorem offerMapChanged_ports (ports : u.ports = s.ports) (x : Port) (q : PageNo) (pairs : List ChangedEntry) :
    (u.offerMapChanged x q pairs).ports = (s.offerMapChanged x q pairs).ports := by
  rw [offerMapChanged_eq, offerMapChanged_eq]
  split
  · exact ports
  split
  · exact modPort_ports_congr ports _ _
  · exact modPort_ports_congr (modPort_ports_congr ports _ _) _ _

theorem offerMapChanged_rest (x : Port) (q : PageNo) (pairs : List ChangedEntry) :
    s.offerMapChanged x q pairs = { s with ports := (s.offerMapChanged x q pairs).ports } := by
  rw [offerMapChanged_eq]
  split
  · rfl
  split <;> rfl

/-! ## The obligation -/

/-- The entries that a GRANT of a right changes (R19, R20). -/
def Right.hits (g : Right) (q : PageNo) : FrameEntry → Bool
  | Option.none => false
  | Option.some e => e.page == q && (g == .none || e.access == .readWrite)

/-- How it changes them. -/
def Right.lowers (g : Right) : FrameEntry → FrameEntry := if g = .none then fun _ => Option.none else FrameEntry.downgraded

theorem hits_none (q : PageNo) : Right.none.hits q = names q := by
  funext e
  cases e with
  | none => rfl
  | some e => exact Bool.and_true _

theorem hits_read (q : PageNo) : Right.read.hits q = namesWritable q := by
  funext e
  cases e <;> rfl

/-- The entries that a GRANT changes, as MAP-CHANGED lists them. -/
def Right.changed (g : Right) (m : PortMaps) (q : PageNo) : List ChangedEntry :=
  (m.bothWhere (g.hits q)).map fun x => { set := x.1, frame := x.2, change := if g = .none then .removed else .readOnly }

theorem grantTaken_read {q : PageNo} {x : Port} (recorded : (s.page q).grants[x] = .readWrite) :
    s.grantTaken p t q x .read =
      (((((s.map x).bothWhere (namesWritable q)).foldl (fun s z => State.downgradeEntry s x z) (s.setGrant q x .read)).answer
        p t 0x12 .ok).offerMapChanged x q (Right.read.changed (s.map x) q)) := by
  rw [Right.changed, hits_read]
  simp only [State.grantTaken, recorded]
  rfl

theorem grantTaken_none {q : PageNo} {x : Port} (recorded : (s.page q).grants[x] ≠ .none) :
    s.grantTaken p t q x .none =
      (((((s.map x).bothWhere (names q)).foldl (fun s z => State.disableEntry s x z) (s.setGrant q x .none)).answer
        p t 0x12 .ok).offerMapChanged x q (Right.none.changed (s.map x) q)) := by
  rw [Right.changed, hits_none]
  cases held : (s.page q).grants[x] with
  | none => exact absurd held recorded
  | read => simp only [State.grantTaken, held]; rfl
  | readWrite => simp only [State.grantTaken, held]; rfl

/-- A GRANT that lowers the recorded right: the right is written, the entries change, the owner is answered and the target
told (R19, R20). -/
theorem grantTaken_of_lt {q : PageNo} {x : Port} {g : Right} (lowered : g.code < (s.page q).grants[x].code)
    (used : (s.page q).state = .allocated) :
    ∃ v, (s.setGrant q x g).EntriesChanged v x q ((s.map x).bothWhere (g.hits q)) g.lowers
        (if g = .none then ((s.map x).bothWhere (g.hits q)).length else 0) ∧
      s.grantTaken p t q x g = (v.answer p t 0x12 .ok).offerMapChanged x q (g.changed (s.map x) q) := by
  cases g with
  | none =>
    refine ⟨_, ?_, grantTaken_none fun e => by rw [e] at lowered; exact absurd lowered (by decide)⟩
    rw [hits_none]
    refine disableEntries_changed (nodup_bothWhere _ _) ?_ fun z hz => mem_bothWhere.mp hz
    rw [State.setGrant, State.page_modPage_same]
    exact used
  | read =>
    have recorded : (s.page q).grants[x] = .readWrite := by
      cases held : (s.page q).grants[x] with
      | readWrite => rfl
      | none => rw [held] at lowered; exact absurd lowered (by decide)
      | read => rw [held] at lowered; exact absurd lowered (by decide)
    refine ⟨_, ?_, grantTaken_read recorded⟩
    rw [hits_read]
    exact downgradeEntries_changed x q _
  | readWrite =>
    exact absurd lowered (by cases (s.page q).grants[x] <;> decide)

/-- Settles O28. -/
theorem grantLowersARight : Obligations.GrantLowersARight := by
  intro p t page target right s q x g h named hq hx owned other opened lowered hit change changed
  have hits : hit = g.hits q := by funext e; cases e <;> rfl
  have pairs : changed = g.changed (s.map x) q := by
    simp only [changed, change, hits, Right.changed, PortMaps.bothWhere, PortMaps.framesWhere, List.map_append, List.map_map]
    rfl
  have count : changed.length = ((s.map x).bothWhere (g.hits q)).length := by rw [pairs, Right.changed, List.length_map]
  obtain ⟨v, entries, taken⟩ := grantTaken_of_lt (s := s.handed p t (.grant page target g)) (p := p) (t := t) lowered owned.1
  have ports : v.ports = (s.handed p t (.grant page target g)).ports := by rw [entries.rest]; rfl
  have result : exec (.grant p t page target right) s =
      .next ((v.answer p t 0x12 .ok).offerMapChanged x q changed) := by
    rw [exec_grant_checked h named hq hx, if_neg (by simp [owns_iff_Owns.mpr owned]), if_neg (by simp [other, opened]), taken, pairs]
    rfl
  refine ⟨_, result, ?_⟩
  rw [offerMapChanged_rest]
  refine ⟨fun y set f => ?_, ?_, fun y hy => ?_, entries.selection, ?_, ?_⟩
  · refine (entries.resolve y set f).trans ?_
    have same : ((s.handed p t (.grant page target g)).setGrant q x g).resolve y set f = s.resolve y set f := rfl
    have lowers : g.lowers (s.resolve y set f) =
        if g = .none then none else (s.resolve y set f).map fun e => { e with access := .readOnly } := by
      unfold Right.lowers
      split <;> rfl
    rw [same, lowers, hits]
    refine if_congr (and_congr_right fun e => ?_) rfl rfl
    rw [e]
    exact mem_bothWhere
  · refine entries.page.trans ?_
    rw [State.setGrant, State.page_modPage_same, count]
    rfl
  · exact (entries.others y hy).trans (State.page_modPage_ne _ _ _ hy)
  · refine (offerMapChanged_ports (answer_ports ports 0x12 .ok .none) x q changed).trans ?_
    rw [handed_answer h, offerMapChanged_eq]
  · rw [entries.rest]
    rfl

end Sys2Proof.Machine

/-! # What a part of a teardown may do (R11, R24 to R26, R46, R97, R120, R154)

The parts of a port's teardown come in any order. Each is shown to stay inside one relation (`State.Torn`), which composes, and to
leave something done (`TeardownPart.Done`) that no later part undoes; after the last part everything is done. -/
namespace Sys2Proof.Machine

variable {s u v : State} {p : Port} {freed freed' : List Waiter}

/-! ## One page -/

/-- What a teardown of a port may do to a page record, but for its counts: the port's page is ORPHANED or released, an ORPHANED
page may be released, a page of another port stays, and the port's grant may go. -/
structure PageRec.Torn (p : Port) (r r' : PageRec) : Prop where
  poisoned : r'.poisoned = r.poisoned
  kept : r'.inUse → r.inUse ∧ (r'.grants = r.grants ∨ r'.grants = r.grants.set p .none) ∧
    (r'.state = r.state ∧ r'.owner = r.owner ∨
      (r.state = .allocated ∧ r.owner = some p) ∧ r'.state = .orphaned ∧ r'.owner = none)
  released : r.inUse → ¬ r'.inUse → (r.state = .allocated → r.owner = some p) ∧ (r'.state = .retired ↔ r.poisoned = true)
  idle : ¬ r.inUse → (r'.state = .retired ↔ r.state = .retired)

theorem PageRec.Torn.of_same {r r' : PageRec} (state : r'.state = r.state) (owner : r'.owner = r.owner)
    (grants : r'.grants = r.grants ∨ r'.grants = r.grants.set p .none) (poisoned : r'.poisoned = r.poisoned) : r.Torn p r' := by
  have use : r'.inUse ↔ r.inUse := by simp only [PageRec.inUse, state]
  exact ⟨poisoned, fun h => ⟨use.mp h, grants, .inl ⟨state, owner⟩⟩, fun h n => absurd (use.mpr h) n, fun _ => by rw [state]⟩

theorem PageRec.Torn.refl (r : PageRec) : r.Torn p r := .of_same rfl rfl (.inl rfl) rfl

theorem PageRec.Torn.trans {r r' r'' : PageRec} (h : r.Torn p r') (h' : r'.Torn p r'') : r.Torn p r'' where
  poisoned := h'.poisoned.trans h.poisoned
  kept used := by
    obtain ⟨used', grants', place'⟩ := h'.kept used
    obtain ⟨used'', grants, place⟩ := h.kept used'
    refine ⟨used'', ?_, ?_⟩
    · rcases grants' with e' | e' <;> rcases grants with e | e <;> rw [e', e]
      · exact .inl rfl
      · exact .inr rfl
      · exact .inr rfl
      · exact .inr (Vector.set_set ..)
    · rcases place' with ⟨state', owner'⟩ | ⟨⟨state', owner'⟩, orphaned⟩
      · rw [state', owner']; exact place
      · rcases place with ⟨state, owner⟩ | ⟨-, state, -⟩
        · exact .inr ⟨⟨state ▸ state', owner ▸ owner'⟩, orphaned⟩
        · rw [state] at state'; cases state'
  released used idle := by
    by_cases used' : r'.inUse
    · obtain ⟨own, retired⟩ := h'.released used' idle
      obtain ⟨-, -, place⟩ := h.kept used'
      refine ⟨fun allocated => ?_, by rw [retired, h.poisoned]⟩
      rcases place with ⟨state, owner⟩ | ⟨⟨-, owner⟩, -⟩
      · exact owner ▸ own (state.trans allocated)
      · exact owner
    · obtain ⟨own, retired⟩ := h.released used used'
      exact ⟨own, (h'.idle used').trans retired⟩
  idle unused := by
    have unused' : ¬ r'.inUse := fun used => unused (h.kept used).1
    exact (h'.idle unused').trans (h.idle unused)

/-- A page that was not in use changes between FREE and WITHHELD. -/
theorem PageRec.Torn.unused {r r' : PageRec} (before : r.state = .free ∨ r.state = .withheld)
    (after : r'.state = .free ∨ r'.state = .withheld) (poisoned : r'.poisoned = r.poisoned) : r.Torn p r' := by
  refine ⟨poisoned, fun used => absurd used (not_inUse_of after), fun used => absurd used (not_inUse_of before), fun _ => ?_⟩
  constructor <;> intro e
  · rw [e] at after; rcases after with n | n <;> cases n
  · rw [e] at before; rcases before with n | n <;> cases n

/-- The release of an ORPHANED page, or of one of the port's own. -/
theorem PageRec.Torn.placed {r : PageRec} (used : r.inUse) (own : r.state = .allocated → r.owner = some p) (bank : BankState) :
    r.Torn p { r with state := r.releasedState bank, owner := none, grants := noGrants } := by
  have idle := releasedState_not_inUse r bank
  refine ⟨rfl, fun h => absurd h (not_or.mpr idle), fun _ _ => ⟨own, ?_⟩, fun n => absurd used n⟩
  obtain ⟨poisoned, e⟩ | ⟨poisoned, -, e⟩ | ⟨poisoned, -, e⟩ := releasedState_cases r bank <;> simp [e, poisoned]

/-! ## Slots -/

/-- The slots that are left when those of some waiters of a port are freed. -/
def keptSlots (y : Port) (freed : List Waiter) (l : List Slot) : List Slot :=
  l.filter fun x => !freed.any fun w => w.port == y && w.tag == x.tag

@[simp] theorem keptSlots_nil (y : Port) (l : List Slot) : keptSlots y [] l = l := List.filter_eq_self.mpr fun _ _ => rfl

theorem keptSlots_append (y : Port) (l : List Slot) : keptSlots y (freed ++ freed') l = keptSlots y freed' (keptSlots y freed l) := by
  simp only [keptSlots, List.filter_filter, List.any_append, Bool.not_or, Bool.and_comm]

theorem keptSlots_cons (y : Port) (w : Waiter) (l : List Slot) :
    keptSlots y (w :: freed) l = keptSlots y freed (if w.port = y then l.filter (·.tag ≠ w.tag) else l) := by
  have one : keptSlots y [w] l = if w.port = y then l.filter (·.tag ≠ w.tag) else l := by
    unfold keptSlots
    split
    · next e => exact List.filter_congr fun x _ => by simp [e, beq_eq_decide, @eq_comm _ x.tag]
    · next e => exact List.filter_eq_self.mpr fun x _ => by simp [e]
  rw [← one, ← keptSlots_append]
  rfl

theorem mem_keptSlots {y : Port} {l : List Slot} {x : Slot} :
    x ∈ keptSlots y freed l ↔ x ∈ l ∧ ∀ w ∈ freed, w.port = y → w.tag ≠ x.tag := by
  simp [keptSlots]

/-! ## The jobs (R120) -/

/-- The copy queue after some parts of a teardown: some QUEUED jobs of the port have gone, others are marked for cancellation. -/
def JobsTorn (p : Port) (l l' : List Job) : Prop :=
  ∃ (keep : Job → Bool) (mark : Job → Job), (∀ j, keep j = false → j.port = p ∧ j.state = .queued) ∧
    (∀ j, mark j = j ∨ j.port = p ∧ mark j = { j with cancel := true }) ∧ l' = (l.filter keep).map mark

theorem JobsTorn.refl (l : List Job) : JobsTorn p l l :=
  ⟨fun _ => true, id, nofun, fun _ => .inl rfl, by simp⟩

theorem JobsTorn.trans {l l' l'' : List Job} (h : JobsTorn p l l') (h' : JobsTorn p l' l'') : JobsTorn p l l'' := by
  obtain ⟨keep, mark, dropped, marked, rfl⟩ := h
  obtain ⟨keep', mark', dropped', marked', rfl⟩ := h'
  refine ⟨fun j => keep j && keep' (mark j), mark' ∘ mark, fun j gone => ?_, fun j => ?_, ?_⟩
  · rcases Bool.and_eq_false_iff.mp gone with gone | gone
    · exact dropped j gone
    · have := dropped' _ gone
      rcases marked j with e | ⟨-, e⟩ <;> rw [e] at this <;> exact this
  · show mark' (mark j) = j ∨ _ ∧ mark' (mark j) = _
    rcases marked' (mark j) with e' | ⟨own, e'⟩ <;> rw [e'] <;> rcases marked j with e | ⟨own', e⟩
    · exact .inl e
    · exact .inr ⟨own', e⟩
    · rw [e] at own ⊢; exact .inr ⟨own, rfl⟩
    · rw [e]; exact .inr ⟨own', rfl⟩
  · rw [List.filter_map, List.filter_filter, List.map_map]
    congr 1
    exact List.filter_congr fun j _ => Bool.and_comm ..

/-- A job of the queue afterwards is one of before, marked or not. -/
theorem JobsTorn.of_mem {l l' : List Job} (h : JobsTorn p l l') {j : Job} (mem : j ∈ l') :
    ∃ j₀ ∈ l, j.id = j₀.id ∧ j.port = j₀.port ∧ j.state = j₀.state ∧ (j₀.cancel = true → j.cancel = true) := by
  obtain ⟨keep, mark, -, marked, rfl⟩ := h
  obtain ⟨j₀, mem₀, rfl⟩ := List.mem_map.mp mem
  refine ⟨j₀, (List.mem_filter.mp mem₀).1, ?_⟩
  rcases marked j₀ with e | ⟨-, e⟩ <;> rw [e]
  · exact ⟨rfl, rfl, rfl, id⟩
  · exact ⟨rfl, rfl, rfl, fun _ => rfl⟩

theorem JobsTorn.ids {l l' : List Job} (h : JobsTorn p l l') : (l'.map (·.id)).Sublist (l.map (·.id)) := by
  obtain ⟨keep, mark, -, marked, rfl⟩ := h
  have same : ((l.filter keep).map mark).map (·.id) = (l.filter keep).map (·.id) := by
    rw [List.map_map]
    refine List.map_congr_left fun j _ => ?_
    rcases marked j with e | ⟨-, e⟩ <;> simp [e]
  rw [same]
  exact List.filter_sublist.map _

/-! ## The device -/

/-- The waiter records of the lock table. -/
def State.waiterRecords (s : State) : List Waiter := s.locks.flatMap (·.waiters)

/-- No two entries of the lock table are of one page, and no port stands twice in an entry (R73, R76). -/
structure State.LocksApart (s : State) : Prop where
  pages : (s.locks.map (·.page)).Nodup
  ports : ∀ l ∈ s.locks, (l.holders.map (·.port) ++ l.waiters.map (·.port)).Nodup

/-- What a part of the teardown of port p may do, with the waiters whose slots it frees. -/
structure State.Torn (p : Port) (s u : State) (freed : List Waiter) : Prop where
  pages : ∀ q, (s.page q).Torn p (u.page q)
  maps : ∀ y, y ≠ p → u.map y = s.map y
  selection : (u.map p).present = (s.map p).present ∧ (u.map p).pendingSet = (s.map p).pendingSet ∧
    (u.map p).inFlight = (s.map p).inFlight
  entries : ∀ set f, u.resolve p set f = s.resolve p set f ∨ u.resolve p set f = none
  holders : ∀ q l, s.lockOf q = some l → (u.page q).inUse → ∀ h ∈ l.holders, h.port ≠ p →
    ∃ l', u.lockOf q = some l' ∧ h ∈ l'.holders
  waiters : ∀ q l, s.lockOf q = some l → (u.page q).inUse → ∀ w ∈ l.waiters, w.port ≠ p →
    ∃ l', u.lockOf q = some l' ∧ (w ∈ l'.waiters ∨ ∃ h ∈ l'.holders, h.port = w.port)
  records : ∀ l ∈ u.locks, l.holds p = true ∨ l.waits p = true →
    ∃ l₀ ∈ s.locks, l₀.page = l.page ∧ (l₀.holds p = true ∨ l₀.waits p = true)
  apart : u.LocksApart
  served : s.waiterRecords.Perm (freed ++ u.waiterRecords)
  slots : ∀ y, y ≠ p → (u.port y).slots = keptSlots y freed (s.port y).slots
  told : ∀ y, y ≠ p → (s.port y).Told (u.port y)
  jobs : JobsTorn p s.jobs u.jobs
  frame : u = { s with ports := u.ports, pages := u.pages, freeList := u.freeList, owned := u.owned, banks := u.banks,
                       maps := u.maps, locks := u.locks, jobs := u.jobs }

theorem State.Torn.role (h : s.Torn p u freed) : u.role = s.role := by rw [h.frame]

theorem State.Torn.trans (h : s.Torn p u freed) (h' : u.Torn p v freed') : s.Torn p v (freed ++ freed') where
  pages q := (h.pages q).trans (h'.pages q)
  maps y hy := (h'.maps y hy).trans (h.maps y hy)
  selection := by
    obtain ⟨present, pendingSet, inFlight⟩ := h.selection
    obtain ⟨present', pendingSet', inFlight'⟩ := h'.selection
    exact ⟨present'.trans present, pendingSet'.trans pendingSet, inFlight'.trans inFlight⟩
  entries set f := by
    rcases h'.entries set f with e | e
    · rw [e]; exact h.entries set f
    · exact .inr e
  holders q l entry used x mem other := by
    obtain ⟨l', entry', mem'⟩ := h.holders q l entry ((h'.pages q).kept used).1 x mem other
    exact h'.holders q l' entry' used x mem' other
  waiters q l entry used w mem other := by
    obtain ⟨l', entry', waits | ⟨x, mem', same⟩⟩ := h.waiters q l entry ((h'.pages q).kept used).1 w mem other
    · exact h'.waiters q l' entry' used w waits other
    · obtain ⟨l'', entry'', mem''⟩ := h'.holders q l' entry' used x mem' (same ▸ other)
      exact ⟨l'', entry'', .inr ⟨x, mem'', same⟩⟩
  records l mem record := by
    obtain ⟨l₁, mem₁, page₁, record₁⟩ := h'.records l mem record
    obtain ⟨l₀, mem₀, page₀, record₀⟩ := h.records l₁ mem₁ record₁
    exact ⟨l₀, mem₀, page₀.trans page₁, record₀⟩
  apart := h'.apart
  served := h.served.trans (by rw [List.append_assoc]; exact h'.served.append_left freed)
  slots y hy := by rw [h'.slots y hy, h.slots y hy, keptSlots_append]
  told y hy := (h.told y hy).trans (h'.told y hy)
  jobs := h.jobs.trans h'.jobs
  frame := by rw [h'.frame, h.frame]

/-- A change of the Page Directory's tables alone. -/
theorem State.Torn.of_pages (apart : s.LocksApart) (pages : ∀ q, (s.page q).Torn p (u.page q))
    (frame : u = { s with pages := u.pages, freeList := u.freeList, owned := u.owned, banks := u.banks }) : s.Torn p u [] := by
  have maps : u.maps = s.maps := by rw [frame]
  have locks : u.locks = s.locks := by rw [frame]
  have ports : u.ports = s.ports := by rw [frame]
  have jobs : u.jobs = s.jobs := by rw [frame]
  have map : u.map = s.map := by funext y; simp only [State.map, maps]
  have port : u.port = s.port := by funext y; simp only [State.port, ports]
  have lockOf : u.lockOf = s.lockOf := by funext q; simp only [State.lockOf, locks]
  refine ⟨pages, fun y _ => by rw [map], by rw [map]; exact ⟨rfl, rfl, rfl⟩,
    fun set f => .inl (by simp only [State.resolve, map]), fun q l entry _ x mem _ => ⟨l, by rw [lockOf, entry], mem⟩,
    fun q l entry _ w mem _ => ⟨l, by rw [lockOf, entry], .inl mem⟩,
    fun l mem record => ⟨l, locks ▸ mem, rfl, record⟩, ?_, ?_, fun y _ => by rw [port, keptSlots_nil],
    fun y _ => by rw [port]; exact .refl _, by rw [jobs]; exact .refl _, by rw [frame]⟩
  · exact ⟨by rw [locks]; exact apart.pages, by rw [locks]; exact apart.ports⟩
  · simp only [State.waiterRecords, locks]; exact .refl _

theorem State.Torn.refl (apart : s.LocksApart) : s.Torn p s [] := .of_pages apart (fun _ => .refl _) rfl

/-- Messages to other ports. -/
theorem State.Torn.of_told (apart : s.LocksApart) (told : ∀ y, y ≠ p → (s.port y).Told (u.port y))
    (slots : ∀ y, y ≠ p → (u.port y).slots = (s.port y).slots) (frame : u = { s with ports := u.ports }) : s.Torn p u [] := by
  have same := State.Torn.refl (p := p) apart
  have page : u.page = s.page := by rw [frame]; rfl
  have map : u.map = s.map := by rw [frame]; rfl
  have locks : u.locks = s.locks := by rw [frame]
  have jobs : u.jobs = s.jobs := by rw [frame]
  have lockOf : u.lockOf = s.lockOf := by funext q; simp only [State.lockOf, locks]
  refine ⟨fun q => by rw [page]; exact .refl _, fun y _ => by rw [map], by rw [map]; exact ⟨rfl, rfl, rfl⟩,
    fun set f => .inl (by simp only [State.resolve, map]), by rw [page, lockOf]; exact same.holders,
    by rw [page, lockOf]; exact same.waiters, by rw [locks]; exact same.records,
    ⟨by rw [locks]; exact apart.pages, by rw [locks]; exact apart.ports⟩, by simp only [State.waiterRecords, locks]; exact .refl _,
    fun y hy => by rw [slots y hy, keptSlots_nil], told, by rw [jobs]; exact .refl _, by rw [frame]⟩

/-! ## The port's own Port Controller -/

/-- A part of a teardown but the test of the end condition leaves of the port's own controller all but slots of waiters and the
Copy Engine's report. -/
def State.OwnKept (p : Port) (s u : State) (freed : List Waiter) : Prop :=
  ∃ active, u.port p = { s.port p with slots := keptSlots p freed (s.port p).slots, activeJob := active }

theorem State.OwnKept.of_port (port : u.port p = s.port p) : s.OwnKept p u [] :=
  ⟨(s.port p).activeJob, by rw [keptSlots_nil, port]⟩

theorem State.OwnKept.trans (h : s.OwnKept p u freed) (h' : u.OwnKept p v freed') : s.OwnKept p v (freed ++ freed') := by
  obtain ⟨active, e⟩ := h
  obtain ⟨active', e'⟩ := h'
  exact ⟨active', by rw [e', e, keptSlots_append]⟩

theorem State.OwnKept.session (h : s.OwnKept p u freed) : (u.port p).session = (s.port p).session := by
  obtain ⟨_, e⟩ := h
  rw [e]

/-- A state in which a teardown is under way. -/
structure State.Tearing (p : Port) (s : State) : Prop where
  notOpen : (s.port p).session ≠ .opened
  role : s.role ≠ some p
  apart : s.LocksApart
  idsOnce : (s.jobs.map (·.id)).Nodup
  activeOnce : ∀ j ∈ s.jobs, ∀ j' ∈ s.jobs, j.state = .active → j'.state = .active → j.id = j'.id

/-- A part of a teardown but the test of the end condition. -/
def State.Part (p : Port) (s u : State) : Prop := ∃ freed, s.Torn p u freed ∧ s.OwnKept p u freed

theorem State.Tearing.torn (h : s.Tearing p) (torn : s.Torn p u freed) (notOpen : (u.port p).session ≠ .opened) : u.Tearing p :=
  ⟨notOpen, by rw [torn.role]; exact h.role, torn.apart, h.idsOnce.sublist torn.jobs.ids, fun j mem j' mem' active active' => by
    obtain ⟨j₀, mem₀, id, -, state, -⟩ := torn.jobs.of_mem mem
    obtain ⟨j₁, mem₁, id', -, state', -⟩ := torn.jobs.of_mem mem'
    rw [id, id']
    exact h.activeOnce j₀ mem₀ j₁ mem₁ (state ▸ active) (state' ▸ active')⟩

theorem State.Tearing.part (h : s.Tearing p) (part : s.Part p u) : u.Tearing p := by
  obtain ⟨freed, torn, own⟩ := part
  exact h.torn torn (by rw [own.session]; exact h.notOpen)

theorem State.Part.trans (h : s.Part p u) (h' : u.Part p v) : s.Part p v := by
  obtain ⟨freed, torn, own⟩ := h
  obtain ⟨freed', torn', own'⟩ := h'
  exact ⟨freed ++ freed', torn.trans torn', own.trans own'⟩

theorem State.Part.refl (h : s.Tearing p) : s.Part p s := ⟨[], .refl h.apart, .of_port rfl⟩

/-- Parts one after another. -/
theorem State.Part.foldl {α : Type} {f : State → α → State} (part : ∀ s x, s.Tearing p → State.Part p s (f s x)) (l : List α)
    (h : s.Tearing p) : s.Part p (l.foldl f s) := by
  induction l generalizing s with
  | nil => exact .refl h
  | cons x l ih =>
    have first := part s x h
    exact first.trans (ih (h.part first))

theorem State.Part.of_pages (h : s.Tearing p) (pages : ∀ q, (s.page q).Torn p (u.page q))
    (frame : u = { s with pages := u.pages, freeList := u.freeList, owned := u.owned, banks := u.banks }) : s.Part p u :=
  ⟨[], .of_pages h.apart pages frame, .of_port (by rw [frame]; rfl)⟩

end Sys2Proof.Machine

/-! # The lock table in a teardown (R11, R80, R97) -/
namespace Sys2Proof.Machine

variable {s u v : State} {p : Port} {freed freed' : List Waiter}

/-! ## Slots through the messages -/

theorem offerReply_slots (c : PortCtl) (t : Tag) (code : Byte) (st : Status) (pay : Payload) :
    (c.offerReply t code st pay).slots = c.slots := by
  unfold PortCtl.offerReply
  split <;> rfl

theorem offerEvent_slots (c : PortCtl) (e : Event) : (c.offerEvent e).slots = c.slots := by
  have overflow : ∀ c : PortCtl, c.admitOverflow.slots = c.slots := fun c => by
    unfold PortCtl.admitOverflow
    split <;> rfl
  have joined : (c.admitOverflow.admitOrLose e).slots = c.slots := by
    unfold PortCtl.admitOrLose
    split <;> exact overflow c
  unfold PortCtl.offerEvent
  split
  · split <;> rfl
  · exact joined
  all_goals
    split
    · exact joined
    · rfl

theorem waitDissolved_slots (c : PortCtl) (t : Tag) : (c.waitDissolved t).slots = c.slots.filter (·.tag ≠ t) := by
  unfold PortCtl.waitDissolved
  split
  · rw [offerReply_slots]; rfl
  · rfl

/-- A port whose session is not OPEN admits no event but READY and SESSION-END (R177). -/
theorem offerEvent_unopened {c : PortCtl} (notOpen : c.session ≠ .opened) {e : Event} (ready : ∀ k, e ≠ .ready k)
    (sessionEnd : ∀ r, e ≠ .sessionEnd r) : c.offerEvent e = c := by
  unfold PortCtl.offerEvent
  split
  · exact absurd rfl (sessionEnd _)
  · exact absurd rfl (ready _)
  all_goals exact if_neg notOpen

theorem waitDissolved_unopened {c : PortCtl} (notOpen : c.session ≠ .opened) (t : Tag) : c.waitDissolved t = c.freeSlot t :=
  if_neg notOpen

/-- A port-by-port change, seen from one port. -/
theorem tellEach_port {α : Type} (port : α → Port) (f : α → PortCtl → PortCtl) (l : List α) (y : Port) :
    (s.tellEach port f l).port y = (l.filter (port · = y)).foldl (fun c a => f a c) (s.port y) := by
  induction l generalizing s with
  | nil => rfl
  | cons a l ih =>
    show ((s.modPort (port a) (f a)).tellEach port f l).port y = _
    rw [ih, State.port_modPort]
    by_cases e : port a = y
    · rw [List.filter_cons_of_pos (by simpa using e), if_pos e.symm, List.foldl_cons, e]
    · rw [List.filter_cons_of_neg (by simpa using e), if_neg (Ne.symm e)]

theorem tellEach_told {α : Type} (port : α → Port) {f : α → PortCtl → PortCtl} (told : ∀ a c, PortCtl.Told c (f a c)) (l : List α) :
    s.Told (s.tellEach port f l) := State.Told.foldl (fun _ a => .modPort _ (told a)) l s

/-- Changes that leave the slots alone. -/
theorem tellEach_slots_same {α : Type} (port : α → Port) {f : α → PortCtl → PortCtl} (same : ∀ a c, (f a c).slots = c.slots)
    (l : List α) (y : Port) : ((s.tellEach port f l).port y).slots = (s.port y).slots := by
  rw [tellEach_port]
  exact foldl_keeps (g := PortCtl.slots) (f := fun c a => f a c) (fun c a => same a c) _ _

/-- Changes that free the slots of waiters. -/
theorem tellEach_slots_freed {f : Waiter → PortCtl → PortCtl} (frees : ∀ w c, (f w c).slots = c.slots.filter (·.tag ≠ w.tag))
    (l : List Waiter) (y : Port) : ((s.tellEach (·.port) f l).port y).slots = keptSlots y l (s.port y).slots := by
  induction l generalizing s with
  | nil => exact (keptSlots_nil y _).symm
  | cons w l ih =>
    show (((s.modPort w.port (f w)).tellEach (·.port) f l).port y).slots = _
    rw [ih, keptSlots_cons, State.port_modPort]
    by_cases e : w.port = y
    · rw [if_pos e.symm, if_pos e, frees, e]
    · rw [if_neg (Ne.symm e), if_neg e]

/-! ## The dissolution of an entry -/

section
variable {q : PageNo} {l : LockEntry} (entry : s.lockOf q = some l)
include entry

theorem dissolve_slots (y : Port) : ((s.dissolve q).port y).slots = keptSlots y l.waiters (s.port y).slots := by
  rw [dissolve_of_some entry]
  refine (tellEach_slots_freed (fun w c => waitDissolved_slots c w.tag) l.waiters y).trans ?_
  rw [tellEach_slots_same _ (fun _ c => offerEvent_slots c _)]

/-- A port that is not OPEN is told nothing by a dissolution. -/
theorem dissolve_unopened (notOpen : (s.port p).session ≠ .opened) :
    (s.dissolve q).port p = { s.port p with slots := keptSlots p l.waiters (s.port p).slots } := by
  have slots := dissolve_slots entry p
  have silent : ∀ (ws : List Waiter) (c : PortCtl), c.session ≠ .opened →
      ws.foldl (fun c w => c.waitDissolved w.tag) c =
        { c with slots := (ws.foldl (fun c w => c.waitDissolved w.tag) c).slots } := fun ws => by
    induction ws with
    | nil => exact fun _ _ => rfl
    | cons w ws ih =>
      intro c h
      rw [List.foldl_cons, waitDissolved_unopened h, ih (c.freeSlot w.tag) h]
      rfl
  have unheard : ∀ (hs : List Holder) (c : PortCtl), c.session ≠ .opened →
      hs.foldl (fun c _ => c.offerEvent (.leaseLost q)) c = c := fun hs => by
    induction hs with
    | nil => exact fun _ _ => rfl
    | cons x hs ih =>
      intro c h
      rw [List.foldl_cons, offerEvent_unopened h (by nofun) (by nofun), ih c h]
  have port : (s.dissolve q).port p =
      ((s.tellEach (·.port) (fun _ => (·.offerEvent (.leaseLost q))) l.holders).tellEach (·.port)
        (fun w => (·.waitDissolved w.tag)) l.waiters).port p := by
    rw [dissolve_of_some entry]; rfl
  rw [← slots, port, tellEach_port, tellEach_port, unheard _ _ notOpen]
  exact silent _ _ notOpen

end

/-! ## The entries of the lock table -/

theorem locks_split (apart : s.LocksApart) {q : PageNo} {l : LockEntry} (entry : s.lockOf q = some l) :
    l.page = q ∧ ∃ a b, s.locks = a ++ l :: b ∧ (∀ x ∈ a, x.page ≠ q) ∧ ∀ x ∈ b, x.page ≠ q := by
  obtain ⟨page, a, b, e, before⟩ := List.find?_eq_some_iff_append.mp entry
  have page : l.page = q := by simpa using page
  refine ⟨page, a, b, e, fun x hx => by simpa using before x hx, fun x hx same => ?_⟩
  have once := apart.pages
  rw [e, List.map_append, List.map_cons] at once
  have absent := (List.nodup_cons.mp (List.nodup_append.mp once).2.1).1
  exact absent (List.mem_map.mpr ⟨x, hx, same.trans page.symm⟩)

theorem find?_split {a b mid : List LockEntry} {q x : PageNo} (mid_page : ∀ l ∈ mid, l.page = q) (h : x ≠ q) :
    (a ++ mid ++ b).find? (·.page == x) = (a ++ b).find? (·.page == x) := by
  have none : mid.find? (·.page == x) = none := List.find?_eq_none.mpr fun l hl => by simp [mid_page l hl, Ne.symm h]
  simp [List.find?_append, none]

/-- A change of one entry of the table: another entry for it, or none. -/
structure State.EntryChanged (s u : State) (q : PageNo) (l : LockEntry) (mid : List LockEntry) : Prop where
  short : mid = [] ∨ ∃ l', mid = [l'] ∧ l'.page = q
  split : ∃ a b, s.locks = a ++ l :: b ∧ ((∀ x ∈ a, x.page ≠ q) ∧ ∀ x ∈ b, x.page ≠ q) ∧ u.locks = a ++ mid ++ b
  others : ∀ x, x ≠ q → u.lockOf x = s.lockOf x
  here : u.lockOf q = mid.head?

theorem entryChanged_of (apart : s.LocksApart) {q : PageNo} {l : LockEntry} (entry : s.lockOf q = some l) {mid : List LockEntry}
    (short : mid = [] ∨ ∃ l', mid = [l'] ∧ l'.page = q)
    (locks : ∀ a b, s.locks = a ++ l :: b → (∀ x ∈ a, x.page ≠ q) → (∀ x ∈ b, x.page ≠ q) → u.locks = a ++ mid ++ b) :
    s.EntryChanged u q l mid := by
  obtain ⟨page, a, b, e, ha, hb⟩ := locks_split apart entry
  have locks := locks a b e ha hb
  have mid_page : ∀ x ∈ mid, x.page = q := by
    rcases short with rfl | ⟨l', rfl, page'⟩
    · nofun
    · intro x hx; rw [List.mem_singleton.mp hx]; exact page'
  have absent : ∀ c : List LockEntry, (∀ x ∈ c, x.page ≠ q) → c.find? (·.page == q) = none := fun c h =>
    List.find?_eq_none.mpr fun x hx => by simpa using h x hx
  refine ⟨short, ⟨a, b, e, ⟨ha, hb⟩, locks⟩, fun x hx => ?_, ?_⟩
  · rw [State.lockOf, State.lockOf, locks, e, find?_split mid_page hx]
    have : a ++ l :: b = a ++ [l] ++ b := by simp
    rw [this, find?_split (q := q) (by simpa using page) hx]
  · rw [State.lockOf, locks, List.find?_append, List.find?_append, absent a ha, absent b hb]
    rcases short with rfl | ⟨l', rfl, page'⟩
    · rfl
    · simp [page']

theorem State.EntryChanged.apart {q : PageNo} {l : LockEntry} {mid : List LockEntry} (h : s.EntryChanged u q l mid)
    (apart : s.LocksApart) (page : l.page = q)
    (ports : ∀ l' ∈ mid, (l'.holders.map (·.port) ++ l'.waiters.map (·.port)).Nodup) : u.LocksApart := by
  obtain ⟨a, b, e, -, locks⟩ := h.split
  have pages := apart.pages
  have inside := apart.ports
  rw [e] at pages inside
  refine ⟨?_, ?_⟩ <;> rw [locks]
  · refine pages.sublist ?_
    simp only [List.append_assoc, List.map_append]
    refine List.Sublist.append_left ?_ _
    rcases h.short with rfl | ⟨l', rfl, page'⟩
    · exact List.sublist_cons_self _ _
    · simp [page, page']
  · intro x hx
    rcases List.mem_append.mp hx with hx | hx
    · rcases List.mem_append.mp hx with hx | hx
      · exact inside x (by simp [hx])
      · exact ports x hx
    · exact inside x (by simp [hx])

/-- The waiter records when one entry changes. -/
theorem State.EntryChanged.served {q : PageNo} {l : LockEntry} {mid : List LockEntry} (h : s.EntryChanged u q l mid)
    (waiters : l.waiters.Perm (freed ++ mid.flatMap (·.waiters))) : s.waiterRecords.Perm (freed ++ u.waiterRecords) := by
  obtain ⟨a, b, e, -, locks⟩ := h.split
  rw [State.waiterRecords, State.waiterRecords, e, locks]
  simp only [List.flatMap_append, List.flatMap_cons]
  calc a.flatMap (·.waiters) ++ (l.waiters ++ b.flatMap (·.waiters))
      |>.Perm (a.flatMap (·.waiters) ++ ((freed ++ mid.flatMap (·.waiters)) ++ b.flatMap (·.waiters))) :=
        (waiters.append_right _).append_left _
    _ |>.Perm (freed ++ (a.flatMap (·.waiters) ++ mid.flatMap (·.waiters) ++ b.flatMap (·.waiters))) := by
        simp only [← List.append_assoc]
        exact ((List.perm_append_comm (l₁ := a.flatMap (·.waiters)) (l₂ := freed)).append_right _).append_right _

theorem State.EntryChanged.records {q : PageNo} {l : LockEntry} {mid : List LockEntry} (h : s.EntryChanged u q l mid)
    (silent : ∀ l' ∈ mid, l'.holds p = false ∧ l'.waits p = false) :
    ∀ x ∈ u.locks, x.holds p = true ∨ x.waits p = true →
      ∃ l₀ ∈ s.locks, l₀.page = x.page ∧ (l₀.holds p = true ∨ l₀.waits p = true) := by
  obtain ⟨a, b, e, -, locks⟩ := h.split
  intro x hx record
  refine ⟨x, ?_, rfl, record⟩
  rw [locks] at hx
  rw [e]
  rcases List.mem_append.mp hx with hx | hx
  · rcases List.mem_append.mp hx with hx | hx
    · simp [hx]
    · obtain ⟨noHolder, noWaiter⟩ := silent x hx
      rw [noHolder, noWaiter] at record
      simp at record
  · simp [hx]

end Sys2Proof.Machine

/-! # The parts of a teardown (R8, R25, R26, R97, R120) -/
namespace Sys2Proof.Machine

variable {s u v : State} {p : Port} {freed freed' : List Waiter}

/-- One entry of the lock table changes, with the slots of the waiters that leave it. -/
theorem State.Torn.of_entry {q : PageNo} {l : LockEntry} {mid : List LockEntry} (apart : s.LocksApart)
    (entry : s.lockOf q = some l) (changed : s.EntryChanged u q l mid) (pages : ∀ x, (s.page x).Torn p (u.page x))
    (holders : (u.page q).inUse → ∀ h ∈ l.holders, h.port ≠ p → ∃ l', mid.head? = some l' ∧ h ∈ l'.holders)
    (waiters : (u.page q).inUse → ∀ w ∈ l.waiters, w.port ≠ p →
      ∃ l', mid.head? = some l' ∧ (w ∈ l'.waiters ∨ ∃ h ∈ l'.holders, h.port = w.port))
    (silent : ∀ l' ∈ mid, l'.holds p = false ∧ l'.waits p = false)
    (once : ∀ l' ∈ mid, (l'.holders.map (·.port) ++ l'.waiters.map (·.port)).Nodup)
    (served : l.waiters.Perm (freed ++ mid.flatMap (·.waiters)))
    (slots : ∀ y, (u.port y).slots = keptSlots y freed (s.port y).slots) (told : s.Told u)
    (frame : u = { s with ports := u.ports, pages := u.pages, freeList := u.freeList, banks := u.banks, locks := u.locks }) :
    s.Torn p u freed := by
  have map : u.map = s.map := by rw [frame]; rfl
  have jobs : u.jobs = s.jobs := by rw [frame]
  refine ⟨pages, fun y _ => by rw [map], by rw [map]; exact ⟨rfl, rfl, rfl⟩, fun set f => .inl (by simp only [State.resolve, map]),
    fun x l₀ entry₀ used => ?_, fun x l₀ entry₀ used => ?_, changed.records silent,
    changed.apart apart (locks_split apart entry).1 once, changed.served served, fun y _ => slots y, fun y _ => told y,
    by rw [jobs]; exact .refl _, by rw [frame]⟩
  · by_cases e : x = q
    · subst e
      rw [changed.here]
      rw [entry] at entry₀
      cases entry₀
      exact holders used
    · exact fun h mem _ => ⟨l₀, (changed.others x e).trans entry₀, mem⟩
  · by_cases e : x = q
    · subst e
      rw [changed.here]
      rw [entry] at entry₀
      cases entry₀
      exact waiters used
    · exact fun w mem _ => ⟨l₀, (changed.others x e).trans entry₀, .inl mem⟩

/-! ## Releases and bank checks -/

theorem releasePage_locks (q : PageNo) : (s.releasePage q).locks = s.locks.filter (·.page ≠ q) := dissolve_locks q

theorem releasePage_torn {q : PageNo} (used : (s.page q).inUse) (own : (s.page q).state = .allocated → (s.page q).owner = some p)
    (x : PageNo) : (s.page x).Torn p ((s.releasePage q).page x) := by
  rw [releasePage_page]
  split
  · next e => rw [e]; exact .placed used own _
  · exact .refl _

/-- The release of an ORPHANED page, or of one of the port's own. -/
theorem releasePage_part (h : s.Tearing p) {q : PageNo} (used : (s.page q).inUse)
    (own : (s.page q).state = .allocated → (s.page q).owner = some p) : s.Part p (s.releasePage q) := by
  cases entry : s.lockOf q with
  | none =>
    refine .of_pages h (releasePage_torn used own) ?_
    rw [State.releasePage, dissolve_of_none entry]
    rfl
  | some l =>
    have gone : ¬ ((s.releasePage q).page q).inUse := by
      rw [releasePage_page, if_pos rfl]; exact not_or.mpr (releasedState_not_inUse _ _)
    have changed : s.EntryChanged (s.releasePage q) q l [] := entryChanged_of h.apart entry (.inl rfl) fun a b e ha hb => by
      obtain ⟨page, -⟩ := locks_split h.apart entry
      have keep : ∀ c : List LockEntry, (∀ x ∈ c, x.page ≠ q) → c.filter (·.page ≠ q) = c := fun c hc =>
        List.filter_eq_self.mpr fun x hx => by simpa using hc x hx
      rw [releasePage_locks, e, List.filter_append, List.filter_cons_of_neg (by simpa using page), keep a ha, keep b hb]
      simp
    refine ⟨l.waiters, ?_, (s.port p).activeJob, dissolve_unopened entry h.notOpen⟩
    refine .of_entry h.apart entry changed (releasePage_torn used own) (fun used => absurd used gone)
      (fun used => absurd used gone) nofun nofun ?_ (dissolve_slots entry) (releasePage_told q) ?_
    · rw [List.flatMap_nil, List.append_nil]
    · rw [releasePage_rest]

theorem offerSupervisor_part (h : s.Tearing p) (e : Event) : s.Part p (s.offerSupervisor e) := by
  unfold State.offerSupervisor
  split
  · exact .refl h
  · next x role =>
    have other : p ≠ x := fun e => h.role (e ▸ role)
    refine ⟨[], .of_told h.apart (fun y _ => offer_told x e y) (fun y _ => ?_) rfl, .of_port ?_⟩
    · rw [State.offer, State.port_modPort]
      split
      · next same => rw [offerEvent_slots, same]
      · rfl
    · exact State.port_modPort_ne _ _ _ other

theorem modBank_part (h : s.Tearing p) (b : BankNo) (f : BankRec → BankRec) : s.Part p (s.modBank b f) :=
  .of_pages h (fun _ => .refl _) rfl

theorem moveBank_part (h : s.Tearing p) (b : BankNo) (new : BankState) (cause : BankCause) : s.Part p (s.moveBank b new cause) := by
  have moved := modBank_part h b fun r => { r with state := new }
  exact moved.trans (offerSupervisor_part (h.part moved) _)

theorem bankOfflineCheck_part (h : s.Tearing p) (b : BankNo) : s.Part p (s.bankOfflineCheck b) := by
  unfold State.bankOfflineCheck
  split
  · exact moveBank_part h b _ _
  · exact .refl h

theorem withholdBank_part (h : s.Tearing p) (b : BankNo) : s.Part p (s.withholdBank b) := by
  refine .of_pages h (fun x => ?_) rfl
  rw [withhold_page]
  split
  · next free => exact .unused (.inl free.2) (.inr rfl) rfl
  · exact .refl _

theorem retireLimitCheck_part (h : s.Tearing p) (b : BankNo) : s.Part p (s.retireLimitCheck b) := by
  unfold State.retireLimitCheck
  split
  · have withheld := withholdBank_part h b
    have moved := withheld.trans (moveBank_part (h.part withheld) b .draining .retireLimit)
    exact moved.trans (bankOfflineCheck_part (h.part moved) b)
  · exact .refl h

theorem settleBank_part (h : s.Tearing p) (before : State) (q : PageNo) : s.Part p (before.settleBank s q) := by
  unfold State.settleBank
  split
  · exact .refl h
  split
  · split
    · exact retireLimitCheck_part h _
    · exact bankOfflineCheck_part h _
  · exact bankOfflineCheck_part h _
  all_goals exact .refl h

/-! ## The claims and the ownership step -/

theorem orphanCheck_part (h : s.Tearing p) (q : PageNo) : s.Part p (s.orphanCheck q) := by
  by_cases gone : s.LastUseGone q
  · rw [orphanCheck_of_gone gone]
    exact releasePage_part h (.inr gone.1) fun e => by rw [gone.1] at e; cases e
  · rw [orphanCheck_of_left gone]
    exact .refl h

/-- A change of counts of a page. -/
theorem modPage_part (h : s.Tearing p) (q : PageNo) {f : PageRec → PageRec} (torn : ∀ r : PageRec, r.Torn p (f r)) :
    s.Part p (s.modPage q f) := by
  refine .of_pages h (fun x => ?_) rfl
  rw [State.page_modPage]
  split
  · next e => rw [e]; exact torn _
  · exact .refl _

theorem unmapClaim_part (h : s.Tearing p) (q : PageNo) : s.Part p (s.unmapClaim q) := by
  have lowered := modPage_part h q (f := fun r => { r with mapCount := r.mapCount - 1 }) fun _ => .of_same rfl rfl (.inl rfl) rfl
  have checked := lowered.trans (orphanCheck_part (h.part lowered) q)
  exact checked.trans (settleBank_part (h.part checked) s q)

theorem unpinClaim_part (h : s.Tearing p) (q : PageNo) : s.Part p (s.unpinClaim q) := by
  have lowered := modPage_part h q (f := fun r => { r with pinCount := r.pinCount - 1 }) fun _ => .of_same rfl rfl (.inl rfl) rfl
  have checked := lowered.trans (orphanCheck_part (h.part lowered) q)
  exact checked.trans (settleBank_part (h.part checked) s q)

theorem modOwned_part (h : s.Tearing p) (f : Nat → Nat) : s.Part p (s.modOwned p f) := .of_pages h (fun _ => .refl _) rfl

/-- The ownership step on one page of the port. -/
theorem disownPage_part (h : s.Tearing p) {q : PageNo} (owned : s.Owns p q) : s.Part p (s.disownPage p q) := by
  unfold State.disownPage
  split
  · have released := releasePage_part h (.inl owned.1) fun _ => owned.2
    have disowned := released.trans (modOwned_part (h.part released) (· - 1))
    exact disowned.trans (settleBank_part (h.part disowned) s q)
  · have orphaned : s.Part p (s.changePage q .orphaned fun r => { r with owner := none }) := by
      refine .of_pages h (fun x => ?_) rfl
      rw [changePage_page]
      split
      · next e =>
        rw [e]
        exact ⟨rfl, fun _ => ⟨.inl owned.1, .inl rfl, .inr ⟨owned, rfl, rfl⟩⟩, fun _ n => absurd (.inr rfl) n,
          fun n => absurd (.inl owned.1) n⟩
      · exact .refl _
    exact orphaned.trans (modOwned_part (h.part orphaned) _)

theorem disownAll_part (h : s.Tearing p) (l : List PageNo) (nodup : l.Nodup) (owned : ∀ q ∈ l, s.Owns p q) :
    s.Part p (l.foldl (fun s q => State.disownPage s p q) s) := by
  induction l generalizing s with
  | nil => exact .refl h
  | cons q l ih =>
    obtain ⟨absent, nodup'⟩ := List.nodup_cons.mp nodup
    have first := disownPage_part h (owned q (by simp))
    refine first.trans (ih (h.part first) nodup' fun x hx => owns_iff.mp ?_)
    exact disownPage_owns (owns_iff.mpr (owned x (by simp [hx]))) fun e => absent (e ▸ hx)

theorem ownershipStep_part (h : s.Tearing p) : s.Part p (s.ownershipStep p) :=
  disownAll_part h _ (nodup_indexesWhere _ _) fun _ hq => owns_iff.mp (mem_ownedPages.mp hq)

theorem clearGrants_part (h : s.Tearing p) : s.Part p (s.clearGrants p) := by
  refine .of_pages h (fun x => ?_) rfl
  rw [clearGrants_page]
  by_cases used : (s.page x).inUse
  · have granted : (s.page x).clearGrant p = { s.page x with grants := (s.page x).grants.set p .none } := if_pos used
    rw [granted]
    exact .of_same rfl rfl (.inr rfl) rfl
  · rw [PageRec.clearGrant_idle p used]
    exact .refl _

/-! ## The Frame Map Unit's and the Copy Engine's shares -/

theorem setEntry_part (h : s.Tearing p) (set : MapSet) (f : FrameNo) : s.Part p (s.setEntry p set f none) := by
  have same := State.Torn.refl (p := p) h.apart
  refine ⟨[], ⟨same.pages, fun y hy => ?_, setEntry_selection p set f none p, fun set' f' => ?_, same.holders, same.waiters,
    same.records, ⟨h.apart.pages, h.apart.ports⟩, same.served, same.slots, same.told, same.jobs, rfl⟩, .of_port rfl⟩
  · rw [State.setEntry, State.map_modMap, if_neg hy]
  · rw [setEntry_resolve]
    split
    · exact .inr rfl
    · exact .inl rfl

theorem disableEntry_part (h : s.Tearing p) (x : MapSet × FrameNo) : s.Part p (s.disableEntry p x) := by
  unfold State.disableEntry
  split
  · exact .refl h
  · have written := setEntry_part h x.1 x.2
    exact written.trans (unmapClaim_part (h.part written) _)

/-- A change of the copy queue. -/
theorem jobs_part (h : s.Tearing p) {jobs : List Job} (torn : JobsTorn p s.jobs jobs) : s.Part p { s with jobs := jobs } := by
  have same := State.Torn.refl (p := p) h.apart
  exact ⟨[], ⟨same.pages, same.maps, same.selection, same.entries, same.holders, same.waiters, same.records,
    ⟨h.apart.pages, h.apart.ports⟩, same.served, same.slots, same.told, torn, rfl⟩, .of_port rfl⟩

theorem eq_of_id {l : List Job} (once : (l.map (·.id)).Nodup) {j j' : Job} (mem : j ∈ l) (mem' : j' ∈ l) (id : j.id = j'.id) :
    j = j' := List.inj_on_of_nodup_map once mem mem' id

/-- A QUEUED job of the port leaves the queue. -/
theorem removeJob_torn (once : (s.jobs.map (·.id)).Nodup) {j : Job} (mem : j ∈ s.jobs) (own : j.port = p)
    (queued : j.state = .queued) : JobsTorn p s.jobs (s.removeJob j.id).jobs := by
  refine ⟨fun x => !(x.id == j.id && x.port == p && x.state == .queued), id, fun x gone => ?_, fun _ => .inl rfl, ?_⟩
  · simp only [Bool.not_eq_false', Bool.and_eq_true, beq_iff_eq] at gone
    exact ⟨gone.1.2, gone.2⟩
  · rw [List.map_id]
    refine List.filter_congr fun x hx => ?_
    by_cases e : x.id = j.id
    · have := eq_of_id once hx mem e
      subst this
      simp [own, queued]
    · simp [e]

theorem dropJob_part (h : s.Tearing p) {id : Byte} (queued : ∀ j ∈ s.jobs, j.id = id → j.port = p → j.state = .queued) :
    s.Part p (s.dropJob p id) := by
  unfold State.dropJob
  split
  · exact .refl h
  · next j found =>
    obtain ⟨mem, rfl, own⟩ := jobOf_some found
    have removed : s.Part p (s.removeJob j.id) := jobs_part h (removeJob_torn h.idsOnce mem own (queued j mem rfl own))
    exact removed.trans (.foldl (fun _ q h => unpinClaim_part h q) _ (h.part removed))

theorem modPort_part (h : s.Tearing p) (active : Bool) : s.Part p (s.modPort p fun c => { c with activeJob := active }) := by
  refine ⟨[], .of_told h.apart (fun y hy => ?_) (fun y hy => ?_) rfl, active, ?_⟩
  · rw [State.port_modPort_ne _ _ _ hy]; exact .refl _
  · rw [State.port_modPort_ne _ _ _ hy]
  · rw [State.port_modPort_same, keptSlots_nil]

theorem markActive_part (h : s.Tearing p) : s.Part p (s.markActive p) := by
  unfold State.markActive
  split
  · exact modPort_part h false
  · next j active =>
    split
    · next own =>
      have marked : s.Part p (s.modJob j.id fun x => { x with cancel := true }) := by
        refine jobs_part h ⟨fun _ => true, fun x => if x.id = j.id ∧ x.port = p then { x with cancel := true } else x,
          nofun, fun x => ?_, ?_⟩
        · dsimp only
          split
          · next e => exact .inr ⟨e.2, rfl⟩
          · exact .inl rfl
        · rw [List.filter_true]
          refine List.map_congr_left fun x hx => ?_
          have same : x.id = j.id ∧ x.port = p ↔ x.id = j.id := and_iff_left_of_imp fun e => by
            rw [eq_of_id h.idsOnce hx (activeJob_mem active) e, own]
          exact (if_congr same rfl rfl).symm
      exact marked.trans (modPort_part (h.part marked) true)
    · exact modPort_part h false

end Sys2Proof.Machine

/-! # The Lock Unit's share of a teardown (R80, R97) -/
namespace Sys2Proof.Machine

variable {s u v : State} {p : Port} {freed freed' : List Waiter}

/-! ## The grant step -/

/-- The holder record of a granted waiter (R80). -/
def Waiter.granted (lease : Half → Nat) (w : Waiter) : Holder := { port := w.port, mode := w.mode, remaining := lease w.lease }

/-- The grant step grants a head of the waiters, in order, and leaves the rest (R80). -/
theorem grantWaiters_split (lease : Half → Nat) (hs : List Holder) (ws : List Waiter) :
    ws = (grantWaiters lease hs ws).2.2 ++ (grantWaiters lease hs ws).2.1 ∧
      (grantWaiters lease hs ws).1 = hs ++ (grantWaiters lease hs ws).2.2.map (·.granted lease) := by
  induction ws generalizing hs with
  | nil => simp [grantWaiters]
  | cons w ws ih =>
    simp only [grantWaiters]
    split
    · split
      · exact ⟨rfl, rfl⟩
      · exact ⟨rfl, (List.append_nil hs).symm⟩
    · split
      · obtain ⟨rest, holders⟩ := ih (hs ++ [w.granted lease])
        exact ⟨congrArg (w :: ·) rest, holders.trans (List.append_cons _ _ _).symm⟩
      · exact ⟨rfl, (List.append_nil hs).symm⟩

/-- What the grant step does to the port of a waiter that it grants. -/
def PortCtl.waitGranted (q : PageNo) (lease : Half → Nat) (w : Waiter) (c : PortCtl) : PortCtl :=
  (c.freeSlot w.tag).offerReply w.tag 0x40 .ok (.lease q (lease w.lease))

theorem answerGranted_foldl (q : PageNo) (l : List Waiter) :
    l.foldl (fun s w => State.answerGranted s q w) s = s.tellEach (·.port) (PortCtl.waitGranted q s.leaseGranted) l := by
  induction l generalizing s with
  | nil => rfl
  | cons w l ih => rw [List.foldl_cons, ih]; rfl

theorem waitGranted_slots (q : PageNo) (lease : Half → Nat) (w : Waiter) (c : PortCtl) :
    (c.waitGranted q lease w).slots = c.slots.filter (·.tag ≠ w.tag) := offerReply_slots _ _ _ _ _

theorem told_waitGranted (q : PageNo) (lease : Half → Nat) (w : Waiter) (c : PortCtl) : c.Told (c.waitGranted q lease w) :=
  (told_freeSlot c w.tag).trans (told_offerReply _ _ _ _ _)

/-- Changes of the slots alone. -/
theorem tellEach_own {α : Type} (port : α → Port) {f : α → PortCtl → PortCtl}
    (own : ∀ a c, f a c = { c with slots := (f a c).slots }) (l : List α) (y : Port) :
    (s.tellEach port f l).port y = { s.port y with slots := ((s.tellEach port f l).port y).slots } := by
  rw [tellEach_port]
  generalize l.filter (port · = y) = l
  generalize s.port y = c
  induction l generalizing c with
  | nil => rfl
  | cons a l ih =>
    rw [List.foldl_cons, ih (f a c), own a c]

/-! ## The port's records on one page -/

theorem filter_port_eq (ws : List Waiter) (once : (ws.map (·.port)).Nodup) (p : Port) :
    ws.filter (·.port = p) = (ws.find? (·.port == p)).toList := by
  induction ws with
  | nil => rfl
  | cons w ws ih =>
    obtain ⟨absent, once'⟩ := List.nodup_cons.mp once
    by_cases e : w.port = p
    · have rest : ws.filter (·.port = p) = [] := List.filter_eq_nil_iff.mpr fun x hx same => by
        have same : x.port = p := by simpa using same
        exact absent (List.mem_map.mpr ⟨x, hx, same.trans e.symm⟩)
      rw [List.filter_cons_of_pos (by simpa using e), rest, List.find?_cons_of_pos (by simpa using e)]
      rfl
    · rw [List.filter_cons_of_neg (by simpa using e), ih once', List.find?_cons_of_neg (by simpa using e)]

/-- The entry that a teardown leaves of one, if any (R97). -/
def LockEntry.without (l : LockEntry) (p : Port) (lease : Half → Nat) : LockEntry :=
  let r := grantWaiters lease (l.holders.filter (·.port ≠ p)) (l.waiters.filter (·.port ≠ p))
  { l with holders := r.1, waiters := r.2.1 }

/-- The waiters that it grants. -/
def LockEntry.grantedWithout (l : LockEntry) (p : Port) (lease : Half → Nat) : List Waiter :=
  (grantWaiters lease (l.holders.filter (·.port ≠ p)) (l.waiters.filter (·.port ≠ p))).2.2

/-- The slots freed: the port's own, and those of the waiters granted. -/
def LockEntry.freedWithout (l : LockEntry) (p : Port) (lease : Half → Nat) : List Waiter :=
  l.waiters.filter (·.port = p) ++ l.grantedWithout p lease

section
variable {l : LockEntry} (lease : Half → Nat)

theorem without_waiters : l.waiters.filter (·.port ≠ p) = l.grantedWithout p lease ++ (l.without p lease).waiters :=
  (grantWaiters_split lease _ _).1

theorem without_holders :
    (l.without p lease).holders = l.holders.filter (·.port ≠ p) ++ (l.grantedWithout p lease).map (·.granted lease) :=
  (grantWaiters_split lease _ _).2

theorem granted_port {w : Waiter} (mem : w ∈ l.grantedWithout p lease) : w ∈ l.waiters ∧ w.port ≠ p := by
  have : w ∈ l.waiters.filter (·.port ≠ p) := by rw [without_waiters lease]; exact List.mem_append_left _ mem
  simpa using this

theorem without_perm : l.waiters.Perm (l.freedWithout p lease ++ (l.without p lease).waiters) := by
  rw [LockEntry.freedWithout, List.append_assoc, ← without_waiters lease]
  have apart := (List.filter_append_perm (fun w : Waiter => decide (w.port = p)) l.waiters).symm
  simpa using apart

theorem without_once (once : (l.holders.map (·.port) ++ l.waiters.map (·.port)).Nodup) :
    ((l.without p lease).holders.map (·.port) ++ (l.without p lease).waiters.map (·.port)).Nodup := by
  have ports : (l.without p lease).holders.map (·.port) ++ (l.without p lease).waiters.map (·.port) =
      (l.holders.filter (·.port ≠ p)).map (·.port) ++ (l.waiters.filter (·.port ≠ p)).map (·.port) := by
    rw [without_holders, without_waiters lease, List.map_append, List.map_append, List.map_map, List.append_assoc]
    rfl
  rw [ports]
  exact once.sublist (List.Sublist.append (List.filter_sublist.map _) (List.filter_sublist.map _))

theorem without_silent : (l.without p lease).holds p = false ∧ (l.without p lease).waits p = false := by
  constructor
  · rw [LockEntry.holds, without_holders, List.any_eq_false]
    intro x hx
    rcases List.mem_append.mp hx with hx | hx
    · simpa using (List.mem_filter.mp hx).2
    · obtain ⟨w, hw, rfl⟩ := List.mem_map.mp hx
      simpa [Waiter.granted] using (granted_port lease hw).2
  · rw [LockEntry.waits, List.any_eq_false]
    intro w hw
    have mem : w ∈ l.waiters.filter (·.port ≠ p) := by rw [without_waiters lease]; exact List.mem_append_right _ hw
    simpa using (List.mem_filter.mp mem).2

theorem without_keeps_holder {h : Holder} (mem : h ∈ l.holders) (other : h.port ≠ p) : h ∈ (l.without p lease).holders := by
  rw [without_holders]
  exact List.mem_append_left _ (List.mem_filter.mpr ⟨mem, by simpa using other⟩)

theorem without_keeps_waiter {w : Waiter} (mem : w ∈ l.waiters) (other : w.port ≠ p) :
    w ∈ (l.without p lease).waiters ∨ ∃ h ∈ (l.without p lease).holders, h.port = w.port := by
  have mem' : w ∈ l.waiters.filter (·.port ≠ p) := List.mem_filter.mpr ⟨mem, by simpa using other⟩
  rw [without_waiters lease] at mem'
  rcases List.mem_append.mp mem' with granted | waits
  · refine .inr ⟨w.granted lease, ?_, rfl⟩
    rw [without_holders]
    exact List.mem_append_right _ (List.mem_map_of_mem granted)
  · exact .inl waits

end

/-- The entry that is left, while it is not empty (R73). -/
def LockEntry.remains (l : LockEntry) : List LockEntry := if l.isEmpty then [] else [l]

theorem remains_of_record {l : LockEntry} (record : l.holders ≠ [] ∨ l.waiters ≠ []) : l.remains = [l] := by
  rw [LockEntry.remains, if_neg]
  simp only [LockEntry.isEmpty, Bool.and_eq_true, List.isEmpty_iff, not_and_or]
  exact record

theorem mem_remains {l x : LockEntry} (mem : x ∈ l.remains) : x = l := by
  unfold LockEntry.remains at mem
  split at mem
  · cases mem
  · exact List.mem_singleton.mp mem

theorem remains_waiters (l : LockEntry) : l.remains.flatMap (·.waiters) = l.waiters := by
  unfold LockEntry.remains
  split
  · next empty =>
    simp only [LockEntry.isEmpty, Bool.and_eq_true, List.isEmpty_iff] at empty
    exact empty.2.symm
  · simp

/-- A change of one entry, with its removal if it is empty then. -/
theorem modLock_split {q : PageNo} {f : LockEntry → LockEntry} {a b : List LockEntry} {l : LockEntry} (e : s.locks = a ++ l :: b)
    (page : l.page = q) (page' : (f l).page = q) (ha : ∀ x ∈ a, x.page ≠ q) (hb : ∀ x ∈ b, x.page ≠ q) :
    (s.modLock q f).locks = a ++ (f l).remains ++ b := by
  have keep : ∀ c : List LockEntry, (∀ x ∈ c, x.page ≠ q) →
      (c.map fun l => if l.page = q then f l else l).filter (fun l => !(l.page == q && l.isEmpty)) = c := fun c hc => by
    have same : (c.map fun l => if l.page = q then f l else l) = c := by
      conv => rhs; rw [← List.map_id c]
      exact List.map_congr_left fun x hx => if_neg (hc x hx)
    rw [same]
    exact List.filter_eq_self.mpr fun x hx => by simp [hc x hx]
  have here : [f l].filter (fun l => !(l.page == q && l.isEmpty)) = (f l).remains := by
    unfold LockEntry.remains
    by_cases empty : (f l).isEmpty = true <;> simp [page', empty]
  simp only [State.modLock, e, List.map_append, List.map_cons, if_pos page]
  rw [List.filter_append, keep a ha, ← List.singleton_append, List.filter_append, here, keep b hb, List.append_assoc]

/-! ## The share -/

/-- The state with the slot of the port's waiter freed. -/
def State.ownFreed (s : State) (p : Port) (l : LockEntry) : State :=
  s.tellEach (·.port) (fun w => (·.freeSlot w.tag)) (l.waiters.filter (·.port = p))

theorem unlockForTeardown_regrant (apart : s.LocksApart) {q : PageNo} {l : LockEntry} (entry : s.lockOf q = some l) :
    s.unlockForTeardown p q =
      (s.ownFreed p l).regrant q (l.holders.filter (·.port ≠ p)) (l.waiters.filter (·.port ≠ p)) := by
  have once := (List.nodup_append.mp (apart.ports l (lockOf_mem entry).1)).2.1
  rw [State.unlockForTeardown, entry, State.ownFreed, filter_port_eq _ once]
  dsimp only
  cases found : l.waiters.find? (·.port == p) with
  | none => rfl
  | some w =>
    have own : w.port = p := by simpa using List.find?_some found
    subst own
    rfl

theorem ownFreed_rest (l : LockEntry) : s.ownFreed p l = { s with ports := (s.ownFreed p l).ports } := tellEach_rest _ _ _

/-- The state with the entry as the teardown leaves it. -/
def State.relisted (s : State) (p : Port) (q : PageNo) (l : LockEntry) (lease : Half → Nat) : State :=
  (s.ownFreed p l).modLock q fun x =>
    { x with holders := (l.without p lease).holders, waiters := (l.without p lease).waiters }

/-- The Lock Unit's share on one entry: the port's records go, its waiter's slot is freed, and the grant step runs. -/
theorem unlockForTeardown_eq (apart : s.LocksApart) {q : PageNo} {l : LockEntry} (entry : s.lockOf q = some l) :
    s.unlockForTeardown p q =
      (s.relisted p q l s.leaseGranted).tellEach (·.port) (PortCtl.waitGranted q s.leaseGranted)
        (l.grantedWithout p s.leaseGranted) := by
  have lease : (s.ownFreed p l).leaseGranted = s.leaseGranted := by rw [ownFreed_rest]; rfl
  rw [unlockForTeardown_regrant apart entry, State.regrant, answerGranted_foldl, lease]
  have lease' : ∀ f, ((s.ownFreed p l).modLock q f).leaseGranted = s.leaseGranted := fun _ => lease
  rw [lease']
  rfl

section
variable {q : PageNo} {l : LockEntry} (apart : s.LocksApart) (entry : s.lockOf q = some l)
include apart entry

theorem unlock_rest :
    s.unlockForTeardown p q =
      { s with ports := (s.unlockForTeardown p q).ports, locks := (s.unlockForTeardown p q).locks } := by
  rw [unlockForTeardown_eq apart entry, tellEach_rest, State.relisted, ownFreed_rest]
  rfl

theorem unlock_slots (y : Port) :
    ((s.unlockForTeardown p q).port y).slots = keptSlots y (l.freedWithout p s.leaseGranted) (s.port y).slots := by
  rw [unlockForTeardown_eq apart entry, tellEach_slots_freed (waitGranted_slots q s.leaseGranted), LockEntry.freedWithout,
    keptSlots_append]
  congr 1
  exact tellEach_slots_freed (fun _ _ => rfl) _ y

theorem unlock_told : s.Told (s.unlockForTeardown p q) := by
  have own : s.Told (s.ownFreed p l) := tellEach_told (f := fun (w : Waiter) => (·.freeSlot w.tag)) _ (fun w c => told_freeSlot c w.tag) _
  have relisted : (s.ownFreed p l).Told (s.relisted p q l s.leaseGranted) := .of_ports rfl
  rw [unlockForTeardown_eq apart entry]
  exact (own.trans relisted).trans (tellEach_told _ (told_waitGranted q _) _)

theorem unlock_own :
    (s.unlockForTeardown p q).port p =
      { s.port p with slots := keptSlots p (l.freedWithout p s.leaseGranted) (s.port p).slots } := by
  have slots := unlock_slots (p := p) apart entry p
  have own : (s.ownFreed p l).port p = { s.port p with slots := ((s.ownFreed p l).port p).slots } :=
    tellEach_own _ (fun _ _ => rfl) _ p
  have unanswered : (s.unlockForTeardown p q).port p = (s.ownFreed p l).port p := by
    rw [unlockForTeardown_eq apart entry, tellEach_other]
    · rfl
    · intro granted
      obtain ⟨w, mem, same⟩ := List.mem_map.mp granted
      exact (granted_port _ mem).2 same
  rw [← slots, unanswered]
  exact own

theorem unlock_entry : s.EntryChanged (s.unlockForTeardown p q) q l (l.without p s.leaseGranted).remains := by
  obtain ⟨page, -⟩ := locks_split apart entry
  refine entryChanged_of apart entry ?_ fun a b e ha hb => ?_
  · unfold LockEntry.remains
    split
    · exact .inl rfl
    · exact .inr ⟨_, rfl, page⟩
  · have locks : (s.ownFreed p l).locks = a ++ l :: b := by rw [ownFreed_rest, e]
    rw [unlockForTeardown_eq apart entry, tellEach_rest]
    exact modLock_split locks page page ha hb

end

theorem unlock_part (h : s.Tearing p) (q : PageNo) : s.Part p (s.unlockForTeardown p q) := by
  cases entry : s.lockOf q with
  | none =>
    rw [State.unlockForTeardown, entry]
    exact .refl h
  | some l =>
    have once := h.apart.ports l (lockOf_mem entry).1
    have page : (s.unlockForTeardown p q).page = s.page := by rw [unlock_rest h.apart entry]; rfl
    have holder : ∀ x ∈ l.holders, x.port ≠ p →
        ∃ l', (l.without p s.leaseGranted).remains.head? = some l' ∧ x ∈ l'.holders := fun x mem other => by
      have mem' := without_keeps_holder s.leaseGranted mem other
      rw [remains_of_record (.inl (List.ne_nil_of_mem mem'))]
      exact ⟨_, rfl, mem'⟩
    have waiter : ∀ w ∈ l.waiters, w.port ≠ p → ∃ l', (l.without p s.leaseGranted).remains.head? = some l' ∧
        (w ∈ l'.waiters ∨ ∃ x ∈ l'.holders, x.port = w.port) := fun w mem other => by
      have mem' := without_keeps_waiter s.leaseGranted mem other
      rw [remains_of_record]
      · exact ⟨_, rfl, mem'⟩
      · rcases mem' with waits | ⟨x, holds, -⟩
        · exact .inr (List.ne_nil_of_mem waits)
        · exact .inl (List.ne_nil_of_mem holds)
    refine ⟨l.freedWithout p s.leaseGranted, ?_, (s.port p).activeJob, unlock_own h.apart entry⟩
    refine .of_entry h.apart entry (unlock_entry h.apart entry) (fun x => by rw [page]; exact .refl _) (fun _ => holder)
      (fun _ => waiter) (fun x hx => mem_remains hx ▸ without_silent _) (fun x hx => mem_remains hx ▸ without_once _ once) ?_
      (unlock_slots h.apart entry) (unlock_told h.apart entry) ?_
    · rw [remains_waiters]
      exact without_perm _
    · rw [unlock_rest h.apart entry]

/-- After the Lock Unit's share on a page the port has no record there. -/
theorem unlock_done (apart : s.LocksApart) (q : PageNo) :
    ∀ l ∈ (s.unlockForTeardown p q).locks, l.page = q → l.holds p = false ∧ l.waits p = false := by
  cases entry : s.lockOf q with
  | none =>
    rw [State.unlockForTeardown, entry]
    exact fun l mem page => absurd page (lockOf_eq_none.mp entry l mem)
  | some l =>
    obtain ⟨a, b, -, ⟨ha, hb⟩, locks⟩ := (unlock_entry (p := p) apart entry).split
    intro x mem page
    rw [locks] at mem
    rcases List.mem_append.mp mem with mem | mem
    · rcases List.mem_append.mp mem with mem | mem
      · exact absurd page (ha x mem)
      · exact mem_remains mem ▸ without_silent _
    · exact absurd page (hb x mem)

end Sys2Proof.Machine

/-! # The parts of a teardown, done in any order (R24, R154, R155) -/
namespace Sys2Proof.Machine

variable {s u v : State} {p : Port} {freed freed' : List Waiter}

/-! ## What each part leaves done -/

/-- What a part of the teardown of port p leaves, for good. -/
def TeardownPart.Done (p : Port) (u : State) : TeardownPart → Prop
  | .unlock q => ∀ l ∈ u.locks, l.page = q → l.holds p = false ∧ l.waits p = false
  | .disable set f => u.resolve p set f = none
  | .dropJob id => ∀ j ∈ u.jobs, j.port = p → j.state = .queued → j.id ≠ id
  | .markActive => ∀ j ∈ u.jobs, j.port = p → j.state = .active → j.cancel = true
  | .ownership => ∀ q, ¬ u.Owns p q
  | .clearGrants => ∀ q, (u.page q).inUse → (u.page q).grants[p] = .none
  | .testClosed => True

/-- A teardown gives the port no page. -/
theorem State.Torn.owns (h : s.Torn p u freed) {q : PageNo} (owned : u.Owns p q) : s.Owns p q := by
  obtain ⟨-, -, ⟨state, owner⟩ | ⟨-, orphaned, -⟩⟩ := (h.pages q).kept (.inl owned.1)
  · exact ⟨state ▸ owned.1, owner ▸ owned.2⟩
  · rw [owned.1] at orphaned; cases orphaned

/-- No later part undoes it. -/
theorem TeardownPart.Done.torn {x : TeardownPart} (done : x.Done p s) (h : s.Torn p u freed) : x.Done p u := by
  cases x with
  | unlock q =>
    intro l mem page
    by_contra record
    rw [not_and_or, Bool.not_eq_false, Bool.not_eq_false] at record
    obtain ⟨l₀, mem₀, page₀, record₀⟩ := h.records l mem record
    obtain ⟨noHolder, noWaiter⟩ := done l₀ mem₀ (page₀.trans page)
    rw [noHolder, noWaiter] at record₀
    simp at record₀
  | disable set f =>
    rcases h.entries set f with e | e
    · exact e.trans done
    · exact e
  | dropJob id =>
    intro j mem own queued
    obtain ⟨j₀, mem₀, id₀, port₀, state₀, -⟩ := h.jobs.of_mem mem
    rw [id₀]
    exact done j₀ mem₀ (port₀ ▸ own) (state₀ ▸ queued)
  | markActive =>
    intro j mem own active
    obtain ⟨j₀, mem₀, -, port₀, state₀, cancel⟩ := h.jobs.of_mem mem
    exact cancel (done j₀ mem₀ (port₀ ▸ own) (state₀ ▸ active))
  | ownership => exact fun q owned => done q (h.owns owned)
  | clearGrants =>
    intro q used
    obtain ⟨used', grants, -⟩ := (h.pages q).kept used
    rcases grants with e | e <;> rw [e]
    · exact done q used'
    · simp
  | testClosed => trivial

theorem TeardownPart.Done.part {x : TeardownPart} (done : x.Done p s) (h : s.Part p u) : x.Done p u := by
  obtain ⟨freed, torn, -⟩ := h
  exact done.torn torn

theorem disableEntry_done (h : s.Tearing p) (set : MapSet) (f : FrameNo) :
    (TeardownPart.disable set f).Done p (s.disableEntry p (set, f)) := by
  unfold State.disableEntry
  split
  · next none => exact none
  · have written := setEntry_part h set f
    have cleared : (TeardownPart.disable set f).Done p (s.setEntry p set f none) :=
      (setEntry_resolve p p set set f f none).trans (if_pos ⟨rfl, rfl, rfl⟩)
    exact cleared.part (unmapClaim_part (h.part written) _)

theorem dropJob_done (h : s.Tearing p) {id : Byte} (queued : ∀ j ∈ s.jobs, j.id = id → j.port = p → j.state = .queued) :
    (TeardownPart.dropJob id).Done p (s.dropJob p id) := by
  unfold State.dropJob
  split
  · next none =>
    intro j mem own _ same
    have := List.find?_eq_none.mp none j mem
    simp [same, own] at this
  · next j found =>
    obtain ⟨mem, rfl, own⟩ := jobOf_some found
    have removed : s.Part p (s.removeJob j.id) := jobs_part h (removeJob_torn h.idsOnce mem own (queued j mem rfl own))
    have gone : (TeardownPart.dropJob j.id).Done p (s.removeJob j.id) := fun x hx _ _ => by
      simpa using (List.mem_filter.mp hx).2
    exact gone.part (.foldl (fun _ q h => unpinClaim_part h q) _ (h.part removed))

theorem markActive_done (h : s.Tearing p) : TeardownPart.markActive.Done p (s.markActive p) := by
  unfold State.markActive
  split
  · next none =>
    intro j mem _ active
    have := List.find?_eq_none.mp none j mem
    simp [active] at this
  · next j found =>
    have active : j.state = .active := by simpa using List.find?_some found
    have only : ∀ x ∈ s.jobs, x.state = .active → x = j := fun x hx hs =>
      eq_of_id h.idsOnce hx (activeJob_mem found) (h.activeOnce x hx j (activeJob_mem found) hs active)
    split
    · intro x hx _ hs
      obtain ⟨x₀, mem₀, rfl⟩ := List.mem_map.mp hx
      split at hs
      · next same => rw [if_pos same]
      · next other => exact absurd (congrArg Job.id (only x₀ mem₀ hs)) other
    · next other =>
      intro x hx own hs
      rw [only x hx hs] at own
      exact absurd own other

theorem disownPage_done (h : s.Tearing p) {q : PageNo} (owned : s.Owns p q) : ¬ (s.disownPage p q).Owns p q := by
  unfold State.disownPage
  split
  · have released := releasePage_part h (.inl owned.1) fun _ => owned.2
    have disowned := released.trans (modOwned_part (h.part released) (· - 1))
    obtain ⟨_, torn, -⟩ := (modOwned_part (h.part released) (· - 1)).trans (settleBank_part (h.part disowned) s q)
    intro owns
    have := (torn.owns owns).1
    rw [releasePage_page, if_pos rfl] at this
    exact (releasedState_not_inUse _ _).1 this
  · intro owns
    have := owns.1
    rw [State.page_modOwned, changePage_page, if_pos rfl] at this
    cases this

theorem disownAll_done (h : s.Tearing p) (l : List PageNo) (nodup : l.Nodup) (owned : ∀ q ∈ l, s.Owns p q) :
    ∀ q ∈ l, ¬ (l.foldl (fun s q => State.disownPage s p q) s).Owns p q := by
  induction l generalizing s with
  | nil => nofun
  | cons q l ih =>
    obtain ⟨absent, nodup'⟩ := List.nodup_cons.mp nodup
    have first := disownPage_part h (owned q (by simp))
    have still : ∀ x ∈ l, (s.disownPage p q).Owns p x := fun x hx =>
      owns_iff.mp (disownPage_owns (owns_iff.mpr (owned x (by simp [hx]))) fun e => absent (e ▸ hx))
    obtain ⟨_, torn, -⟩ := disownAll_part (h.part first) l nodup' still
    intro x hx owns
    rcases List.mem_cons.mp hx with rfl | hx
    · exact disownPage_done h (owned x (by simp)) (torn.owns owns)
    · exact ih (h.part first) nodup' still x hx owns

theorem ownershipStep_done (h : s.Tearing p) : TeardownPart.ownership.Done p (s.ownershipStep p) := by
  obtain ⟨_, torn, -⟩ := ownershipStep_part h
  intro q owns
  exact disownAll_done h _ (nodup_indexesWhere _ _) (fun _ hq => owns_iff.mp (mem_ownedPages.mp hq)) q
    (mem_ownedPages.mpr (owns_iff.mpr (torn.owns owns))) owns

theorem clearGrants_done : TeardownPart.clearGrants.Done p (s.clearGrants p) := by
  intro q used
  rw [clearGrants_page] at used ⊢
  by_cases used' : (s.page q).inUse
  · have granted : (s.page q).clearGrant p = { s.page q with grants := (s.page q).grants.set p .none } := if_pos used'
    rw [granted]
    simp
  · rw [PageRec.clearGrant_idle p used'] at used
    exact absurd used used'

/-! ## The test of the end condition (R155) -/

/-- The tag of the CLOSE that a port's end of CLOSING answers (R155). -/
def PortCtl.answeredTag (c : PortCtl) : Option Tag := if c.closeReason = some .closed then c.closeTag else none

/-- The CLOSE reply, if the port closed by request. -/
def PortCtl.closeAnswered (c : PortCtl) : PortCtl :=
  match c.answeredTag with
  | none => c
  | some t => (c.freeSlot t).offerReply t 0x02 .ok .none

/-- A Port Controller that reaches CLOSED. -/
def PortCtl.reached (c : PortCtl) : PortCtl :=
  { ({ c with session := .closed } : PortCtl).closeAnswered with closeReason := none }

theorem answerClose_eq : s.answerClose p = s.modPort p PortCtl.closeAnswered := by
  unfold State.answerClose
  have same : (s.port p).answeredTag = none → s = s.modPort p PortCtl.closeAnswered := fun none =>
    (State.modPort_id (by rw [PortCtl.closeAnswered, none])).symm
  split
  · next reason =>
    have tag : (s.port p).answeredTag = (s.port p).closeTag := if_pos reason
    split
    · next none => exact same (tag.trans none)
    · next t found =>
      refine State.modPort_congr ?_
      rw [PortCtl.closeAnswered, tag, found]
  · next reason => exact same (if_neg reason)

theorem offerPortDown_told (h : s.role ≠ some p) :
    (s.offerPortDown p).port p = s.port p ∧ (∀ y, ((s.offerPortDown p).port y).slots = (s.port y).slots) ∧
      s.Told (s.offerPortDown p) ∧ s.offerPortDown p = { s with ports := (s.offerPortDown p).ports } := by
  unfold State.offerPortDown
  split
  · next reason x _ role =>
    have other : x ≠ p := fun e => h (e ▸ role)
    rw [if_neg other]
    refine ⟨State.port_modPort_ne _ _ _ (Ne.symm other), fun y => ?_, offer_told _ _, rfl⟩
    rw [State.offer, State.port_modPort]
    split
    · next e => rw [offerEvent_slots, e]
    · rfl
  all_goals exact ⟨rfl, fun _ => rfl, .refl, rfl⟩

/-- The step in which the port reaches CLOSED: its own controller, and a message to the role holder. -/
theorem reachClosed_torn (h : s.Tearing p) :
    s.Torn p (s.reachClosed p) [] ∧ (s.reachClosed p).port p = (s.port p).reached := by
  have closed : s.reachClosed p = ((s.modPort p fun c => ({ c with session := .closed } : PortCtl).closeAnswered).offerPortDown
      p).modPort p fun c => { c with closeReason := none } := by
    rw [State.reachClosed, answerClose_eq, State.modPort_modPort]
  obtain ⟨own, slots, told, rest⟩ := offerPortDown_told (p := p)
    (s := s.modPort p fun c => ({ c with session := .closed } : PortCtl).closeAnswered) h.role
  rw [closed]
  refine ⟨.of_told h.apart (fun y hy => ?_) (fun y hy => ?_) (by rw [rest]; rfl), ?_⟩
  · rw [State.port_modPort_ne _ _ _ hy]
    have := told y
    rwa [State.port_modPort_ne _ _ _ hy] at this
  · rw [State.port_modPort_ne _ _ _ hy, slots y, State.port_modPort_ne _ _ _ hy]
  · rw [State.port_modPort_same, own, State.port_modPort_same]
    rfl

/-! ## The port's own controller through a teardown -/

/-- The port's controller while it closes: but for slots of waiters and the Copy Engine's report, as the teardown began. -/
def PortCtl.closingFrom (c : PortCtl) (p : Port) (freed : List Waiter) (active : Bool) : PortCtl :=
  { c with slots := keptSlots p freed c.slots, activeJob := active }

theorem PortCtl.closingFrom_none (c : PortCtl) : c.closingFrom p [] c.activeJob = c := by
  rw [PortCtl.closingFrom, keptSlots_nil]

/-- The port's controller in a teardown that began with c: still closing, or CLOSED. -/
inductive PortCtl.Stage (p : Port) (c : PortCtl) : List Waiter → PortCtl → Prop
  | closing (freed : List Waiter) (active : Bool) : Stage p c freed (c.closingFrom p freed active)
  | closed (freed freed' : List Waiter) (active active' : Bool) :
      Stage p c (freed ++ freed') ((c.closingFrom p freed active).reached.closingFrom p freed' active')

theorem reached_session (c : PortCtl) : c.reached.session = .closed := by
  unfold PortCtl.reached PortCtl.closeAnswered
  split
  · rfl
  · exact (told_offerReply _ _ _ _ _).session

theorem PortCtl.Stage.notOpen {c d : PortCtl} (h : PortCtl.Stage p c freed d) (closing : c.session = .closing) :
    d.session ≠ .opened := by
  cases h with
  | closing => show c.session ≠ _; rw [closing]; nofun
  | closed freed freed' active _ =>
    show (c.closingFrom p freed active).reached.session ≠ _
    rw [reached_session]; nofun

theorem PortCtl.Stage.kept {c d : PortCtl} (h : PortCtl.Stage p c freed d) (freed' : List Waiter) (active : Bool) :
    PortCtl.Stage p c (freed ++ freed') { d with slots := keptSlots p freed' d.slots, activeJob := active } := by
  cases h with
  | closing freed active' =>
    have : c.closingFrom p (freed ++ freed') active =
        { c.closingFrom p freed active' with slots := keptSlots p freed' (keptSlots p freed c.slots), activeJob := active } := by
      rw [PortCtl.closingFrom, keptSlots_append]; rfl
    exact this ▸ .closing _ _
  | closed freed₁ freed₂ active₁ active₂ =>
    have : (c.closingFrom p freed₁ active₁).reached.closingFrom p (freed₂ ++ freed') active =
        { (c.closingFrom p freed₁ active₁).reached.closingFrom p freed₂ active₂ with
          slots := keptSlots p freed' (keptSlots p freed₂ (c.closingFrom p freed₁ active₁).reached.slots), activeJob := active } := by
      rw [PortCtl.closingFrom, keptSlots_append]; rfl
    rw [List.append_assoc]
    exact this ▸ .closed _ _ _ _

/-! ## One part after another -/

/-- A teardown that began in state s, after some of its parts. -/
structure State.TornTo (p : Port) (s u : State) : Prop where
  began : s.Tearing p
  closing : (s.port p).session = .closing
  done : ∃ freed, s.Torn p u freed ∧ PortCtl.Stage p (s.port p) freed (u.port p)

theorem State.TornTo.start (h : s.Tearing p) (closing : (s.port p).session = .closing) : s.TornTo p s := by
  have stage := PortCtl.Stage.closing (p := p) (c := s.port p) [] (s.port p).activeJob
  rw [PortCtl.closingFrom_none] at stage
  exact ⟨h, closing, [], .refl h.apart, stage⟩

theorem State.TornTo.tearing (h : s.TornTo p u) : u.Tearing p := by
  obtain ⟨freed, torn, stage⟩ := h.done
  exact h.began.torn torn (stage.notOpen h.closing)

theorem State.TornTo.part (h : s.TornTo p u) (part : u.Part p v) : s.TornTo p v := by
  obtain ⟨freed, torn, stage⟩ := h.done
  obtain ⟨freed', torn', active, own⟩ := part
  exact ⟨h.began, h.closing, freed ++ freed', torn.trans torn', own ▸ stage.kept freed' active⟩

theorem State.TornTo.test (h : s.TornTo p u) : s.TornTo p (u.closedCheck p) ∧ ∃ freed, u.Torn p (u.closedCheck p) freed := by
  unfold State.closedCheck
  split
  · next may =>
    obtain ⟨torn', own⟩ := reachClosed_torn h.tearing
    refine ⟨?_, [], torn'⟩
    obtain ⟨freed, torn, stage⟩ := h.done
    refine ⟨h.began, h.closing, freed ++ [], torn.trans torn', ?_⟩
    rw [own]
    generalize u.port p = d at stage may
    cases stage with
    | closing freed active =>
      have stage := PortCtl.Stage.closed (p := p) (c := s.port p) freed [] active
        ((s.port p).closingFrom p freed active).reached.activeJob
      rwa [PortCtl.closingFrom_none] at stage
    | closed freed freed' active active' =>
      have closed : (((s.port p).closingFrom p freed active).reached.closingFrom p freed' active').session = .closed :=
        reached_session _
      simp [PortCtl.mayClose, closed] at may
  · exact ⟨h, [], .refl h.tearing.apart⟩

/-- A QUEUED job that a part names is QUEUED until it goes. -/
theorem State.TornTo.queued (h : s.TornTo p u) {id : Byte} (queued : ∀ j ∈ s.jobs, j.id = id → j.port = p → j.state = .queued) :
    ∀ j ∈ u.jobs, j.id = id → j.port = p → j.state = .queued := by
  obtain ⟨freed, torn, -⟩ := h.done
  intro j mem same own
  obtain ⟨j₀, mem₀, id₀, port₀, state₀, -⟩ := torn.jobs.of_mem mem
  rw [state₀]
  exact queued j₀ mem₀ (id₀ ▸ same) (port₀ ▸ own)

/-- One part of a teardown: it stays inside the relation, it is done, and what was done stays done. -/
theorem State.TornTo.tearDownPart (h : s.TornTo p u) {x : TeardownPart}
    (queued : ∀ id, x = .dropJob id → ∀ j ∈ s.jobs, j.id = id → j.port = p → j.state = .queued) :
    s.TornTo p (u.tearDownPart p x) ∧ x.Done p (u.tearDownPart p x) ∧
      ∀ y : TeardownPart, y.Done p u → y.Done p (u.tearDownPart p x) := by
  have tearing := h.tearing
  have byPart : u.Part p (u.tearDownPart p x) → x.Done p (u.tearDownPart p x) → s.TornTo p (u.tearDownPart p x) ∧
      x.Done p (u.tearDownPart p x) ∧ ∀ y : TeardownPart, y.Done p u → y.Done p (u.tearDownPart p x) := fun part done =>
    ⟨h.part part, done, fun _ before => before.part part⟩
  cases x with
  | unlock q => exact byPart (unlock_part tearing q) (unlock_done tearing.apart q)
  | disable set f => exact byPart (disableEntry_part tearing (set, f)) (disableEntry_done tearing set f)
  | dropJob id => exact byPart (dropJob_part tearing (h.queued (queued id rfl))) (dropJob_done tearing (h.queued (queued id rfl)))
  | markActive => exact byPart (markActive_part tearing) (markActive_done tearing)
  | ownership => exact byPart (ownershipStep_part tearing) (ownershipStep_done tearing)
  | clearGrants => exact byPart (clearGrants_part tearing) clearGrants_done
  | testClosed =>
    obtain ⟨torn, freed, step⟩ := h.test
    exact ⟨torn, trivial, fun _ before => before.torn step⟩

/-- All parts, in any order. -/
theorem State.TornTo.tearDownParts (l : List TeardownPart)
    (queued : ∀ id, .dropJob id ∈ l → ∀ j ∈ s.jobs, j.id = id → j.port = p → j.state = .queued) (h : s.TornTo p u) :
    s.TornTo p (l.foldl (fun s x => State.tearDownPart s p x) u) ∧
      (∀ x ∈ l, x.Done p (l.foldl (fun s x => State.tearDownPart s p x) u)) ∧
      ∀ y : TeardownPart, y.Done p u → y.Done p (l.foldl (fun s x => State.tearDownPart s p x) u) := by
  induction l generalizing u with
  | nil => exact ⟨h, nofun, fun _ => id⟩
  | cons x l ih =>
    obtain ⟨torn, here, before⟩ := h.tearDownPart (x := x) fun id e => queued id (by simp [e])
    obtain ⟨torn', there, later⟩ := ih (fun id mem => queued id (by simp [mem])) torn
    refine ⟨torn', fun y hy => ?_, fun y done => later y (before y done)⟩
    rcases List.mem_cons.mp hy with rfl | hy
    · exact later y here
    · exact there y hy

/-! ## The order of the parts -/

theorem takeFrom_some {α : Type} {k : Nat} {qs qs' : List (List α)} {x : α} (h : takeFrom k qs = some (x, qs')) :
    qs.flatten.Perm (x :: qs'.flatten) := by
  induction qs generalizing k qs' with
  | nil => cases h
  | cons q qs ih =>
    cases q with
    | nil =>
      obtain ⟨⟨y, rest⟩, taken, e⟩ := Option.map_eq_some_iff.mp (show (takeFrom k qs).map _ = _ by cases k <;> exact h)
      cases e
      have rest := ih taken
      simpa using rest
    | cons y ys =>
      cases k with
      | zero => cases h; exact .refl _
      | succ k =>
        obtain ⟨⟨z, rest⟩, taken, e⟩ := Option.map_eq_some_iff.mp (show (takeFrom k qs).map _ = _ from h)
        cases e
        exact ((ih taken).append_left (y :: ys)).trans List.perm_middle

theorem takeFrom_none {α : Type} {k : Nat} {qs : List (List α)} (h : takeFrom k qs = none) :
    (qs.filter (!·.isEmpty)).length ≤ k := by
  induction qs generalizing k with
  | nil => exact Nat.zero_le _
  | cons q qs ih =>
    cases q with
    | nil => exact ih (Option.map_eq_none_iff.mp (show (takeFrom k qs).map _ = none by cases k <;> exact h))
    | cons y ys =>
      cases k with
      | zero => cases h
      | succ k => exact Nat.succ_le_succ (ih (Option.map_eq_none_iff.mp (show (takeFrom k qs).map _ = none from h)))

/-- The schedule puts the parts in some order, and leaves none out. -/
theorem interleave_perm {α : Type} (ks : List Nat) (qs : List (List α)) : (interleave ks qs).1.Perm qs.flatten := by
  induction ks generalizing qs with
  | nil => exact .refl _
  | cons k ks ih =>
    rw [interleave]
    split
    · next none =>
      have few := takeFrom_none none
      have zero : (qs.filter (!·.isEmpty)).length = 0 := by
        by_contra pos
        have := Nat.mod_lt k (Nat.pos_of_ne_zero pos)
        omega
      have empty : qs.flatten = [] := by
        rw [List.length_eq_zero_iff, List.filter_eq_nil_iff] at zero
        rw [List.flatten_eq_nil_iff]
        intro l hl
        simpa using zero l hl
      rw [empty]
    · next x qs' taken => exact ((ih qs').cons x).trans (takeFrom_some taken).symm

theorem mem_placeTest {k : Nat} {l : List TeardownPart} {x : TeardownPart} : x ∈ placeTest k l ↔ x = .testClosed ∨ x ∈ l := by
  have whole : ∀ n, x ∈ l ↔ x ∈ l.take n ∨ x ∈ l.drop n := fun n => by rw [← List.mem_append, List.take_append_drop]
  simp only [placeTest, List.mem_append, List.mem_cons, whole (l.length - k % (l.length - (l.idxOf .markActive + 1) + 1))]
  tauto

theorem mem_teardownParts {k : Nat} {x : TeardownPart} {sched : List Nat} :
    x ∈ placeTest k (interleave sched (s.teardownShares p)).1 ↔ x = .testClosed ∨ x ∈ (s.teardownShares p).flatten := by
  rw [mem_placeTest, (interleave_perm sched _).mem_iff]

end Sys2Proof.Machine

/-! # The Port Controller of a port that is torn down (R46, R154, R155, R157, R176) -/
namespace Sys2Proof.Machine

variable {s u v : State} {p : Port} {freed freed' : List Waiter} {c d : PortCtl}

/-! ## A message below an occupancy of 16 -/

/-- A reply or SESSION-END, offered: it joins below an occupancy of 16 (R176, R177). -/
def PortCtl.offered (c : PortCtl) (m : Message) : PortCtl := if c.outbound.length < Config.queuePlaces then c.joinQueue m else c

theorem offerReply_eq (c : PortCtl) (t : Tag) (code : Byte) (st : Status) (pay : Payload) :
    c.offerReply t code st pay = c.offered (.reply t code st pay) := rfl

/-- An outbound queue after a message was offered. -/
def joined (queue : List Message) (m : Message) : List Message := if queue.length < 16 then queue ++ [m] else queue

/-- A transmitter that followed the queue from one content to another (R179). -/
def PortCtl.LineFollows (c d : PortCtl) : Prop :=
  d.tx = if c.tx = .idle ∧ d.outbound ≠ c.outbound then .sending else c.tx

theorem PortCtl.LineFollows.of_same (tx : d.tx = c.tx) (outbound : d.outbound = c.outbound) : c.LineFollows d := by
  rw [LineFollows, if_neg fun h => h.2 outbound, tx]

theorem offered_eq (c : PortCtl) (m : Message) :
    c.offered m = { c with outbound := joined c.outbound m, tx := (c.offered m).tx } ∧ c.LineFollows (c.offered m) := by
  unfold PortCtl.offered
  split
  · next room =>
    have longer : c.outbound ++ [m] ≠ c.outbound := by simp
    have joins : joined c.outbound m = c.outbound ++ [m] := if_pos room
    refine ⟨by rw [joins]; rfl, ?_⟩
    show (if c.tx = .idle then _ else _) = if c.tx = .idle ∧ c.outbound ++ [m] ≠ c.outbound then _ else _
    simp [longer]
  · next full =>
    have stays : joined c.outbound m = c.outbound := if_neg full
    exact ⟨by rw [stays], .of_same rfl rfl⟩

/-! ## The entry into CLOSING -/

/-- The controller of a port at its entry into CLOSING, before SESSION-END (R46, R154). -/
def PortCtl.beginClosing (c : PortCtl) (reason : CloseReason) : PortCtl :=
  { c with session := .closing, closeReason := some reason, lost := 0, slots := c.slots.filter (!·.endsAtClosing) }

/-- The controller of a port at its entry into CLOSING, with SESSION-END if it was ejected (R157). -/
def PortCtl.begun (c : PortCtl) (reason : CloseReason) : PortCtl :=
  if reason = .ejected then (c.beginClosing reason).offered (.event (.sessionEnd .ejected)) else c.beginClosing reason

theorem begun_eq (c : PortCtl) (reason : CloseReason) :
    c.begun reason = { c.beginClosing reason with outbound := (c.begun reason).outbound, tx := (c.begun reason).tx } ∧
      c.LineFollows (c.begun reason) ∧
      (c.begun reason).outbound = if reason = .ejected then joined c.outbound (.event (.sessionEnd .ejected)) else c.outbound := by
  unfold PortCtl.begun
  split
  · obtain ⟨offered, line⟩ := offered_eq (c.beginClosing reason) (.event (.sessionEnd .ejected))
    have outbound := congrArg PortCtl.outbound offered
    exact ⟨offered.trans (by rw [outbound]), line, outbound⟩
  · exact ⟨rfl, .of_same rfl rfl, rfl⟩

/-! ## The slots through the teardown -/

theorem reached_slots (c : PortCtl) : c.reached.slots = match c.answeredTag with
    | none => c.slots
    | some t => c.slots.filter (·.tag ≠ t) := by
  show ({ c with session := .closed } : PortCtl).closeAnswered.slots = _
  have same : ({ c with session := .closed } : PortCtl).answeredTag = c.answeredTag := rfl
  unfold PortCtl.closeAnswered
  rw [same]
  cases c.answeredTag with
  | none => rfl
  | some t => exact offerReply_slots _ _ _ _ _

theorem answeredTag_some {t : Tag} (h : c.answeredTag = some t) :
    c.closeReason = some .closed ∧ ∃ x ∈ c.slots, x.request = .closeSession ∧ x.tag = t := by
  unfold PortCtl.answeredTag at h
  split at h
  · next reason =>
    obtain ⟨x, found, tag⟩ := Option.map_eq_some_iff.mp h
    exact ⟨reason, x, List.mem_of_find?_eq_some found, by simpa using List.find?_some found, tag⟩
  · cases h

/-- The end of CLOSING frees the slot of the CLOSE it answers, at the most. -/
theorem mem_reached_slots (once : (c.slots.map (·.tag)).Nodup) {x : Slot} :
    (x ∈ c.reached.slots → x ∈ c.slots) ∧ (x ∈ c.slots → x.request ≠ .closeSession → x ∈ c.reached.slots) := by
  rw [reached_slots]
  cases answered : c.answeredTag with
  | none => exact ⟨id, fun h _ => h⟩
  | some t =>
    refine ⟨fun h => (List.mem_filter.mp h).1, fun mem other => List.mem_filter.mpr ⟨mem, ?_⟩⟩
    obtain ⟨-, y, mem', close, rfl⟩ := answeredTag_some answered
    have : x.tag ≠ y.tag := fun e => other ((List.inj_on_of_nodup_map once mem mem' e) ▸ close)
    simpa using this

theorem PortCtl.Stage.slots (h : PortCtl.Stage p c freed d) (once : (c.slots.map (·.tag)).Nodup)
    {x : Slot} : (x ∈ d.slots → x ∈ keptSlots p freed c.slots) ∧
      (x ∈ keptSlots p freed c.slots → (x.request = .closeSession → d.session = .closing) → x ∈ d.slots) := by
  cases h with
  | closing => exact ⟨id, fun h _ => h⟩
  | closed freed freed' active _ =>
    have once' : ((c.closingFrom p freed active).slots.map (·.tag)).Nodup := once.sublist (List.filter_sublist.map _)
    obtain ⟨only, stays⟩ := mem_reached_slots once' (x := x)
    rw [keptSlots_append]
    refine ⟨fun h => ?_, fun h notClose => ?_⟩
    · obtain ⟨mem, others⟩ := mem_keptSlots.mp h
      exact mem_keptSlots.mpr ⟨only mem, others⟩
    · obtain ⟨mem, others⟩ := mem_keptSlots.mp h
      refine mem_keptSlots.mpr ⟨stays mem fun close => ?_, others⟩
      have session : (c.closingFrom p freed active).reached.session = .closing := notClose close
      rw [reached_session] at session
      cases session

/-! ## The rest of the controller through the teardown -/

/-- The end of CLOSING changes the session, the reason, the slots and the queue, which the reply to the CLOSE joins. -/
theorem reached_eq (c : PortCtl) :
    c.reached = { c with session := .closed, closeReason := none, slots := c.reached.slots, outbound := c.reached.outbound,
                         tx := c.reached.tx } ∧
      c.LineFollows c.reached ∧ c.reached.outbound = match c.answeredTag with
        | none => c.outbound
        | some t => joined c.outbound (.reply t 0x02 .ok .none) := by
  have same : ({ c with session := .closed } : PortCtl).answeredTag = c.answeredTag := rfl
  unfold PortCtl.reached PortCtl.closeAnswered
  rw [same]
  cases c.answeredTag with
  | none => exact ⟨rfl, .of_same rfl rfl, rfl⟩
  | some t =>
    obtain ⟨offered, line⟩ := offered_eq (({ c with session := .closed } : PortCtl).freeSlot t) (.reply t 0x02 .ok .none)
    have outbound := congrArg PortCtl.outbound offered
    refine ⟨?_, line, outbound⟩
    simp only [offerReply_eq]
    rw [offered]
    rfl

/-- What a teardown leaves of the controller it began with. -/
structure PortCtl.Ended (c d : PortCtl) : Prop where
  rest : d = { c with session := d.session, closeReason := d.closeReason, activeJob := d.activeJob, slots := d.slots,
                      outbound := d.outbound, tx := d.tx }
  line : c.LineFollows d
  unanswered : d.session = .closing ∨ c.closeReason ≠ some .closed → d.outbound = c.outbound

theorem PortCtl.Stage.ended (h : PortCtl.Stage p c freed d) : c.Ended d := by
  cases h with
  | closing => exact ⟨rfl, .of_same rfl rfl, fun _ => rfl⟩
  | closed freed freed' active _ =>
    obtain ⟨rest, line, outbound⟩ := reached_eq (c.closingFrom p freed active)
    refine ⟨?_, line, fun unanswered => ?_⟩
    · rw [PortCtl.closingFrom, rest]
      rfl
    · rcases unanswered with session | reason
      · have session : (c.closingFrom p freed active).reached.session = .closing := session
        rw [reached_session] at session
        cases session
      · have none : (c.closingFrom p freed active).answeredTag = none := if_neg reason
        rw [none] at outbound
        exact outbound

/-- A CLOSED port has answered the first CLOSE among its slots. -/
theorem PortCtl.Stage.answered (h : PortCtl.Stage p c freed d) (closing : c.session = .closing) (closed : d.session = .closed)
    (reason : c.closeReason = some .closed) :
    ∃ freed₀, (∀ w ∈ freed₀, w ∈ freed) ∧ ∀ t, ((keptSlots p freed₀ c.slots).find? (·.request == .closeSession)).map (·.tag) = some t →
      d.outbound = joined c.outbound (.reply t 0x02 .ok .none) := by
  cases h with
  | closing =>
    have : c.session = .closed := closed
    rw [closing] at this
    cases this
  | closed freed freed' active _ =>
    refine ⟨freed, fun _ => List.mem_append_left _, fun t found => ?_⟩
    have answered : (c.closingFrom p freed active).answeredTag = some t := (if_pos reason).trans found
    obtain ⟨-, -, outbound⟩ := reached_eq (c.closingFrom p freed active)
    rw [answered] at outbound
    exact outbound

end Sys2Proof.Machine

/-! # A teardown from its start to its last part (R24 to R26, R97, R120, R154) -/
namespace Sys2Proof.Machine

variable {s u v : State} {p : Port} {reason : CloseReason} {freed : List Waiter}

/-! ## The start -/

/-- The state from which the parts of a teardown run. -/
def State.begun (s : State) (p : Port) (reason : CloseReason) (schedule : List Nat) : State :=
  { (s.beginClosing p reason).offerSessionEnd p reason with schedule := schedule }

theorem offerSessionEnd_eq : s.offerSessionEnd p reason =
    s.modPort p fun c => if reason = .ejected then c.offered (.event (.sessionEnd .ejected)) else c := by
  cases reason with
  | ejected => rfl
  | closed => exact (State.modPort_id rfl).symm
  | linkLost => exact (State.modPort_id rfl).symm

theorem begun_rest (schedule : List Nat) : s.begun p reason schedule =
    { s with ports := (s.begun p reason schedule).ports, maps := (s.begun p reason schedule).maps,
             role := if s.role = some p then none else s.role, schedule := schedule } := by
  rw [State.begun, offerSessionEnd_eq]
  rfl

theorem begun_port (schedule : List Nat) (y : Port) :
    (s.begun p reason schedule).port y = if y = p then (s.port p).begun reason else s.port y := by
  have begins : (s.begun p reason schedule).port y = (((s.beginClosing p reason)).modPort p fun c =>
      if reason = .ejected then c.offered (.event (.sessionEnd .ejected)) else c).port y := by
    rw [State.begun, offerSessionEnd_eq]; rfl
  have start : ∀ y, (s.beginClosing p reason).port y = (s.modPort p (·.beginClosing reason)).port y := fun _ => rfl
  rw [begins, State.port_modPort, start, start, State.port_modPort_same]
  split
  · rfl
  · next other => exact State.port_modPort_ne _ _ _ other

theorem begun_map (schedule : List Nat) (y : Port) :
    (s.begun p reason schedule).map y = if y = p then { s.map p with present := .a, pendingSet := none } else s.map y := by
  have begins : (s.begun p reason schedule).map y =
      (s.modMap p fun m => { m with present := .a, pendingSet := none }).map y := by
    rw [State.begun, offerSessionEnd_eq]; rfl
  rw [begins, State.map_modMap]

theorem begun_session (c : PortCtl) (reason : CloseReason) : (c.begun reason).session = .closing := by
  obtain ⟨rest, -, -⟩ := begun_eq c reason
  rw [rest]
  rfl

theorem State.LockTableSound.apart (h : s.LockTableSound) : s.LocksApart := ⟨h.pagesOnce, fun l hl => (h.entries l hl).portsOnce⟩

/-- One ACTIVE job at the most (R99). -/
theorem State.JobQueueSound.activeOnce (h : s.JobQueueSound) :
    ∀ j ∈ s.jobs, ∀ j' ∈ s.jobs, j.state = .active → j'.state = .active → j.id = j'.id := by
  intro j mem j' mem' active active'
  have here : j ∈ s.jobs.filter (·.state == .active) := List.mem_filter.mpr ⟨mem, by simp [active]⟩
  have there : j' ∈ s.jobs.filter (·.state == .active) := List.mem_filter.mpr ⟨mem', by simp [active']⟩
  obtain ⟨x, single⟩ := List.length_eq_one_iff.mp (Nat.le_antisymm h.active (List.length_pos_of_mem here))
  rw [single, List.mem_singleton] at here there
  rw [here, there]

theorem begun_tearing (locks : s.LockTableSound) (jobs : s.JobQueueSound) (schedule : List Nat) :
    (s.begun p reason schedule).Tearing p := by
  have sameLocks : (s.begun p reason schedule).locks = s.locks := by rw [begun_rest]
  have sameJobs : (s.begun p reason schedule).jobs = s.jobs := by rw [begun_rest]
  refine ⟨?_, ?_, ⟨by rw [sameLocks]; exact locks.apart.pages, by rw [sameLocks]; exact locks.apart.ports⟩,
    by rw [sameJobs]; exact jobs.idsOnce, by rw [sameJobs]; exact jobs.activeOnce⟩
  · rw [begun_port, if_pos rfl, begun_session]; nofun
  · rw [begun_rest]
    show (if s.role = some p then none else s.role) ≠ some p
    split
    · nofun
    · assumption

/-! ## The shares -/

theorem mem_queuedJobs {id : Byte} : id ∈ s.queuedJobs p ↔ ∃ j ∈ s.jobs, j.port = p ∧ j.state = .queued ∧ j.id = id := by
  simp [State.queuedJobs, and_assoc]

theorem mem_shares {x : TeardownPart} : x ∈ (s.teardownShares p).flatten ↔
    (∃ q ∈ s.lockedPages p, .unlock q = x) ∨ (∃ z ∈ (s.map p).bothWhere Option.isSome, .disable z.1 z.2 = x) ∨
      (∃ id ∈ s.queuedJobs p, .dropJob id = x) ∨ x = .markActive ∨ x = .ownership ∨ x = .clearGrants := by
  simp [State.teardownShares]

/-- A state in which every part of a teardown is done that the shares held at its start. -/
structure State.TornOut (p : Port) (s u : State) : Prop where
  torn : s.TornTo p u
  done : ∀ x ∈ (s.teardownShares p).flatten, x.Done p u

/-- A teardown runs from its start through all its parts. -/
theorem enterClosing_tornOut (locks : s.LockTableSound) (jobs : s.JobQueueSound) :
    ∃ schedule, (s.begun p reason schedule).TornOut p (s.enterClosing p reason) := by
  let parts := interleave ((s.beginClosing p reason).offerSessionEnd p reason).schedule
    (((s.beginClosing p reason).offerSessionEnd p reason).teardownShares p)
  let b := s.begun p reason parts.2.tail
  have tearing : b.Tearing p := begun_tearing locks jobs _
  have closing : (b.port p).session = .closing := by rw [begun_port, if_pos rfl, begun_session]
  have queued : ∀ id, .dropJob id ∈ placeTest (parts.2.headD 0) parts.1 → ∀ j ∈ b.jobs, j.id = id → j.port = p → j.state = .queued := by
    intro id mem j hj same own
    rcases mem_teardownParts.mp mem with e | share
    · cases e
    · have named : id ∈ b.queuedJobs p := by
        rcases mem_shares.mp share with ⟨_, _, e⟩ | ⟨_, _, e⟩ | ⟨_, named, e⟩ | e | e | e <;> cases e
        exact named
      obtain ⟨j₀, mem₀, -, state₀, id₀⟩ := mem_queuedJobs.mp named
      rw [eq_of_id tearing.idsOnce hj mem₀ (same.trans id₀.symm), state₀]
  obtain ⟨torn, done, -⟩ := State.TornTo.tearDownParts _ queued (.start tearing closing)
  exact ⟨_, torn, fun x hx => done x (mem_teardownParts.mpr (.inr hx))⟩

/-! ## What is left of the port -/

/-- No lock record (R97). -/
theorem State.TornOut.locks (h : s.TornOut p u) : ∀ l ∈ u.locks, l.holds p = false ∧ l.waits p = false := by
  intro l mem
  by_contra record
  rw [not_and_or, Bool.not_eq_false, Bool.not_eq_false] at record
  obtain ⟨freed, torn, -⟩ := h.torn.done
  obtain ⟨l₀, mem₀, page₀, record₀⟩ := torn.records l mem record
  have locked : l.page ∈ s.lockedPages p :=
    List.mem_map.mpr ⟨l₀, List.mem_filter.mpr ⟨mem₀, (Bool.or_eq_true _ _).mpr record₀⟩, page₀⟩
  have unlocked : (TeardownPart.unlock l.page).Done p u := h.done _ (mem_shares.mpr (.inl ⟨_, locked, rfl⟩))
  obtain ⟨noHolder, noWaiter⟩ := unlocked l mem rfl
  rw [noHolder, noWaiter] at record
  simp at record

/-- No enabled entry (R24). -/
theorem State.TornOut.entries (h : s.TornOut p u) (set : MapSet) (f : FrameNo) : u.resolve p set f = none := by
  obtain ⟨freed, torn, -⟩ := h.torn.done
  rcases torn.entries set f with same | none
  · by_cases enabled : (s.resolve p set f).isSome
    · have part : TeardownPart.disable set f ∈ (s.teardownShares p).flatten :=
        mem_shares.mpr (.inr (.inl ⟨(set, f), mem_bothWhere.mpr enabled, rfl⟩))
      exact h.done _ part
    · exact same.trans (Option.not_isSome_iff_eq_none.mp enabled)
  · exact none

/-- No QUEUED job, and the ACTIVE one marked for cancellation (R120). -/
theorem State.TornOut.jobs (h : s.TornOut p u) :
    u.jobs = (s.jobs.filter fun j => !(j.port == p && j.state == .queued)).map fun j =>
      if j.port = p then { j with cancel := true } else j := by
  obtain ⟨freed, torn, -⟩ := h.torn.done
  have noQueued : ∀ j ∈ u.jobs, j.port = p → j.state ≠ .queued := by
    intro j mem own queued
    obtain ⟨j₀, mem₀, id₀, port₀, state₀, -⟩ := torn.jobs.of_mem mem
    have named := mem_queuedJobs.mpr ⟨j₀, mem₀, port₀ ▸ own, state₀ ▸ queued, rfl⟩
    have dropped : (TeardownPart.dropJob j₀.id).Done p u := h.done _ (mem_shares.mpr (.inr (.inr (.inl ⟨_, named, rfl⟩))))
    exact dropped j mem own queued id₀
  have marks : TeardownPart.markActive.Done p u := h.done _ (mem_shares.mpr (by simp))
  obtain ⟨keep, mark, dropped, marked, left⟩ := torn.jobs
  have state : ∀ j, (mark j).port = j.port ∧ (mark j).state = j.state := fun j => by
    rcases marked j with e | ⟨-, e⟩ <;> rw [e] <;> exact ⟨rfl, rfl⟩
  have stays : ∀ j ∈ s.jobs, keep j = true → mark j ∈ u.jobs := fun j mem kept =>
    left ▸ List.mem_map_of_mem (List.mem_filter.mpr ⟨mem, kept⟩)
  have kept : ∀ j ∈ s.jobs, keep j = !(j.port == p && j.state == .queued) := by
    intro j mem
    cases e : keep j with
    | false =>
      obtain ⟨own, queued⟩ := dropped j e
      simp [own, queued]
    | true =>
      have := noQueued _ (stays j mem e)
      rw [(state j).1, (state j).2] at this
      simpa [not_and_or, imp_iff_not_or] using this
  rw [left, List.filter_congr kept]
  refine List.map_congr_left fun j mem => ?_
  obtain ⟨mem, notQueued⟩ := List.mem_filter.mp mem
  split
  · next own =>
    have active : j.state = .active := by
      cases e : j.state with
      | active => rfl
      | queued => simp [own, e] at notQueued
    have cancelled : (mark j).cancel = true :=
      marks _ (stays j mem ((kept j mem).trans notQueued)) ((state j).1.trans own) ((state j).2.trans active)
    rcases marked j with e | ⟨-, e⟩
    · rw [e] at cancelled
      rw [e, ← cancelled]
    · exact e
  · next other =>
    rcases marked j with e | ⟨own, -⟩
    · exact e
    · exact absurd own other

/-- No page of its own (R25), and no grant (R26). -/
theorem State.TornOut.owns (h : s.TornOut p u) (q : PageNo) : ¬ u.Owns p q := by
  have disowned : TeardownPart.ownership.Done p u := h.done _ (mem_shares.mpr (by simp))
  exact disowned q

theorem State.TornOut.grant (h : s.TornOut p u) {q : PageNo} (used : (u.page q).inUse) : (u.page q).grants[p] = .none := by
  have cleared : TeardownPart.clearGrants.Done p u := h.done _ (mem_shares.mpr (by simp))
  exact cleared q used

/-- The grants of a page left in use are those of before without the port's. -/
theorem State.TornOut.grants (h : s.TornOut p u) {q : PageNo} (used : (u.page q).inUse) :
    (u.page q).grants = (s.page q).grants.set p .none := by
  obtain ⟨freed, torn, -⟩ := h.torn.done
  obtain ⟨-, same | set, -⟩ := (torn.pages q).kept used
  · have none := h.grant used
    rw [← same, ← none]
    simp
  · exact set

end Sys2Proof.Machine

/-! # What a teardown leaves of the pages and of the slots (R8, R25, R26, R46, R83, R154) -/
namespace Sys2Proof.Machine

variable {s u v : State} {p : Port} {reason : CloseReason} {freed : List Waiter}

/-! ## The pages -/

/-- A page that was the port's, or ORPHANED, is ORPHANED while it is in use. -/
theorem State.TornOut.orphaned (h : s.TornOut p u) (directory : s.DirectoryAgrees) {q : PageNo}
    (place : s.Owns p q ∨ (s.page q).state = .orphaned) (used : (u.page q).inUse) :
    (u.page q).state = .orphaned ∧ (u.page q).owner = none := by
  obtain ⟨freed, torn, -⟩ := h.torn.done
  obtain ⟨-, -, ⟨state, owner⟩ | ⟨-, orphaned⟩⟩ := (torn.pages q).kept used
  · rcases place with owned | orphaned
    · exact absurd ⟨state.trans owned.1, owner.trans owned.2⟩ (h.owns q)
    · have noOwner : (s.page q).owner = none := by
        by_contra some
        rw [(directory.fits q).owner.mp some] at orphaned
        cases orphaned
      exact ⟨state.trans orphaned, owner.trans noOwner⟩
  · exact orphaned

/-- A page of another port stays its own. -/
theorem State.TornOut.kept (h : s.TornOut p u) {q : PageNo} {x : Port} (other : x ≠ p) (owned : s.Owns x q) :
    u.Owns x q := by
  obtain ⟨freed, torn, -⟩ := h.torn.done
  have notOwn : (s.page q).owner ≠ some p := fun e => other (Option.some.inj (owned.2.symm.trans e))
  have used : (u.page q).inUse := by
    by_contra idle
    exact notOwn (((torn.pages q).released (.inl owned.1) idle).1 owned.1)
  obtain ⟨-, -, ⟨state, owner⟩ | ⟨⟨-, own⟩, -⟩⟩ := (torn.pages q).kept used
  · exact ⟨state.trans owned.1, owner.trans owned.2⟩
  · exact absurd own notOwn

theorem State.TornOut.ownedBy (h : s.TornOut p u) (directory : s.DirectoryAgrees) (after : u.DirectoryAgrees) (x : Port) :
    u.ownedBy x = if x = p then 0 else s.ownedBy x := by
  rw [after.ownedCounts, directory.ownedCounts]
  split
  · next e => exact card_filter_zero.mpr fun q owned => h.owns q (e ▸ owned)
  · next other =>
    obtain ⟨freed, torn, -⟩ := h.torn.done
    refine card_filter_eq fun q => ⟨fun owned => ?_, h.kept other⟩
    obtain ⟨-, -, ⟨state, owner⟩ | ⟨-, orphaned, -⟩⟩ := (torn.pages q).kept (.inl owned.1)
    · exact ⟨state ▸ owned.1, owner ▸ owned.2⟩
    · rw [owned.1] at orphaned; cases orphaned

/-- A page left in use, with its counts. -/
theorem State.TornOut.page (h : s.TornOut p u) (mapCounts : u.MapCountsExact) (pins : u.PinCountsExact) {q : PageNo}
    (used : (u.page q).inUse) {state : PageState} {owner : Option Port} (hs : (u.page q).state = state) (ho : (u.page q).owner = owner) :
    u.page q = { s.page q with state := state, owner := owner, grants := (s.page q).grants.set p .none,
                               mapCount := u.entriesNaming q, pinCount := u.usesOf q } := by
  obtain ⟨freed, torn, -⟩ := h.torn.done
  have poisoned := (torn.pages q).poisoned
  rw [← h.grants used, ← (mapCounts q).1, ← pins.pins q, ← hs, ← ho]
  show _ = PageRec.mk _ _ _ _ _ (s.page q).poisoned
  rw [← poisoned]

/-- A page that is named or used is in use. -/
theorem inUse_of_count (mapCounts : u.MapCountsExact) (pins : u.PinCountsExact) {q : PageNo}
    (count : u.entriesNaming q ≠ 0 ∨ u.usesOf q ≠ 0) : (u.page q).inUse := by
  rw [← (mapCounts q).1, ← pins.pins q] at count
  by_contra idle
  rw [(mapCounts q).2 idle, (pins.unused q idle).1] at count
  simp at count

/-- The counts are exact at the end of a teardown. -/
theorem enterClosing_counts (directory : s.DirectorySound) (mapCounts : s.MapCountsExact) (pins : s.PinCountsExact)
    (jobs : s.JobQueueSound) (opened : (s.port p).session = .opened) :
    (s.enterClosing p reason).TablesAgree ∧ (s.enterClosing p reason).PinCountsExact := by
  have tables : s.TablesAgree := ⟨(directorySound_iff.mp directory).1, mapCounts⟩
  have turned : (s.enterClosing p reason).PinsOwed [] :=
    Turns.keeps (P := fun x => x.1.PinsOwed x.2) (fun _ _ => pinsOwed_turn) (enterClosing_balanced opened [])
      ((pinsOwed_iff tables jobs.idsOnce).mpr pins)
  exact ⟨turned.tables, (pinsOwed_iff turned.tables turned.idsOnce).mp turned⟩

/-! ## The waiters and their slots -/

theorem mem_waiterRecords {w : Waiter} : w ∈ s.waiterRecords ↔ ∃ l ∈ s.locks, w ∈ l.waiters := List.mem_flatMap

/-- A waiter's slot is WAITING (R83). -/
theorem State.WaitersSound.slot_waiting (h : s.WaitersSound) (bounded : s.PortsBounded) {w : Waiter} (mem : w ∈ s.waiterRecords)
    {x : Slot} (slot : x ∈ (s.port w.port).slots) (tag : x.tag = w.tag) : x.state = .waiting := by
  obtain ⟨l, entry, waits⟩ := mem_waiterRecords.mp mem
  obtain ⟨y, mem', tag', waiting⟩ := h.slot l entry w waits
  rw [List.inj_on_of_nodup_map (bounded w.port).tags slot mem' (tag.trans tag'.symm), waiting]

/-- A waiter whose slot is freed is of another port, or has another tag, than one that is left. -/
theorem freed_apart (h : s.WaitersSound) (served : s.waiterRecords.Perm (freed ++ u.waiterRecords)) {w w' : Waiter} (mem : w ∈ freed)
    (mem' : w' ∈ u.waiterRecords) : ¬ (w'.port = w.port ∧ w'.tag = w.tag) := by
  rintro ⟨port, tag⟩
  have once : (s.waiterRecords.map fun w => (w.port, w.tag)).Nodup := by
    rw [State.waiterRecords, List.map_flatMap]; exact h.tagsOnce
  have once' := (served.map fun w => (w.port, w.tag)).nodup_iff.mp once
  rw [List.map_append] at once'
  exact (List.nodup_append.mp once').2.2 _ (List.mem_map_of_mem mem) _ (List.mem_map_of_mem mem') (by rw [port, tag])

/-- The slots that are left of a port: a WAITING one is left with its waiter. -/
theorem mem_keptSlots_iff (h : s.WaitersSound) (bounded : s.PortsBounded)
    (served : s.waiterRecords.Perm (freed ++ u.waiterRecords)) (y : Port) {x : Slot} (mem : x ∈ (s.port y).slots) :
    (∀ w ∈ freed, w.port = y → w.tag ≠ x.tag) ↔
      (x.state = .waiting → ∃ l ∈ u.locks, ∃ w ∈ l.waiters, w.port = y ∧ w.tag = x.tag) := by
  constructor
  · intro notFreed waiting
    obtain ⟨l, entry, w, waits, port, tag⟩ := h.waiting y x mem waiting
    rcases List.mem_append.mp (served.mem_iff.mp (mem_waiterRecords.mpr ⟨l, entry, waits⟩)) with gone | left
    · exact absurd tag (notFreed w gone port)
    · obtain ⟨l', entry', waits'⟩ := mem_waiterRecords.mp left
      exact ⟨l', entry', w, waits', port, tag⟩
  · intro left w gone port tag
    have before : w ∈ s.waiterRecords := served.mem_iff.mpr (List.mem_append_left _ gone)
    obtain ⟨l, entry, w', waits, port', tag'⟩ := left (h.slot_waiting bounded before (port ▸ mem) tag.symm)
    exact freed_apart h served gone (mem_waiterRecords.mpr ⟨l, entry, waits⟩) ⟨port'.trans port.symm, tag'.trans tag.symm⟩

/-- A slot that ends at the entry into CLOSING (R46). -/
theorem endsAtClosing_iff {x : Slot} : x.endsAtClosing = false ↔ x.state ≠ .held ∧ ∀ set, x.request ≠ .selectSet set := by
  unfold Slot.endsAtClosing
  cases x.request <;> simp

/-- The first CLOSE among the slots is the first of those that are left, when it is one of them. -/
theorem find_close {f : Slot → Bool} {before after : List Slot} {z : Slot} (kept : f z = true) (close : z.request = .closeSession)
    (first : ∀ x ∈ before, x.request ≠ .closeSession) :
    ((before ++ z :: after).filter f).find? (·.request == .closeSession) = some z := by
  have none : (before.filter f).find? (·.request == .closeSession) = none :=
    List.find?_eq_none.mpr fun x hx => by simpa using first x (List.mem_filter.mp hx).1
  rw [List.filter_append, List.filter_cons_of_pos kept, List.find?_append, none, List.find?_cons_of_pos (by simp [close])]
  rfl

/-! ## The line -/

theorem PortCtl.LineFollows.tx {c d : PortCtl} (h : c.LineFollows d) (same : d.outbound = c.outbound) : d.tx = c.tx :=
  Eq.trans h (if_neg fun n => n.2 same)

theorem PortCtl.LineFollows.trans {c d e : PortCtl} (h : c.LineFollows d) (h' : d.LineFollows e)
    (once : d.outbound = c.outbound ∨ e.outbound = d.outbound) : c.LineFollows e := by
  rcases once with same | same
  · rwa [LineFollows, h.tx same, same] at h'
  · rwa [LineFollows, h'.tx same, same]

end Sys2Proof.Machine

/-! # A teardown leaves nothing of the port (R24 to R26, R46, R97, R120, R154 to R157, R196) -/
namespace Sys2Proof.Machine

variable {s u v : State} {p : Port} {reason : CloseReason} {freed : List Waiter}

/-! ## The port's own controller, from before its entry into CLOSING -/

theorem begun_slots (c : PortCtl) (reason : CloseReason) : (c.begun reason).slots = c.slots.filter (!·.endsAtClosing) := by
  obtain ⟨rest, -, -⟩ := begun_eq c reason
  rw [rest]
  rfl

theorem begun_closeReason (c : PortCtl) (reason : CloseReason) : (c.begun reason).closeReason = some reason := by
  obtain ⟨rest, -, -⟩ := begun_eq c reason
  rw [rest]
  rfl

theorem PortCtl.Ended.lost {c d : PortCtl} (h : (c.begun reason).Ended d) : d.lost = 0 := by
  obtain ⟨rest, -, -⟩ := begun_eq c reason
  rw [h.rest, rest]
  rfl

theorem PortCtl.Ended.ownPort {c d : PortCtl} (h : (c.begun reason).Ended d) :
    d = { c with session := d.session, closeReason := d.closeReason, activeJob := d.activeJob, slots := d.slots,
                 outbound := d.outbound, lost := d.lost, tx := d.tx } := by
  obtain ⟨rest, -, -⟩ := begun_eq c reason
  have ended := h.rest
  rw [rest] at ended
  have lost := h.lost
  rw [lost]
  exact ended

theorem PortCtl.Ended.outbound {c d : PortCtl} (h : (c.begun reason).Ended d) (unanswered : reason = .closed → d.session = .closing) :
    d.outbound = if reason = .ejected then joined c.outbound (.event (.sessionEnd .ejected)) else c.outbound := by
  obtain ⟨-, -, outbound⟩ := begun_eq c reason
  rw [← outbound]
  refine h.unanswered ?_
  rw [begun_closeReason]
  by_cases e : reason = .closed
  · exact .inl (unanswered e)
  · exact .inr fun same => e (Option.some.inj same)

theorem PortCtl.Ended.follows {c d : PortCtl} (h : (c.begun reason).Ended d) : c.LineFollows d := by
  obtain ⟨-, line, outbound⟩ := begun_eq c reason
  refine line.trans h.line ?_
  by_cases e : reason = .ejected
  · exact .inr (h.unanswered (.inr (by rw [begun_closeReason, e]; nofun)))
  · exact .inl (outbound.trans (if_neg e))

theorem PortCtl.Told.eq {c d : PortCtl} (h : c.Told d) :
    d = { c with slots := d.slots, outbound := d.outbound, lost := d.lost, tx := d.tx } := by
  cases d
  obtain ⟨rfl, rfl, rfl, rfl, rfl, rfl, rfl⟩ := h
  rfl

/-! ## The whole teardown -/

/-- What the teardown of a port starts from: the hypotheses of its statement. -/
structure State.TeardownReady (s : State) (p : Port) : Prop where
  directory : s.DirectorySound
  mapCounts : s.MapCountsExact
  pins : s.PinCountsExact
  ports : s.PortsBounded
  locks : s.LockTableSound
  jobs : s.JobQueueSound
  waiters : s.WaitersSound
  opened : (s.port p).session = .opened

/-- What the parts of the teardown leave, seen from before its start. -/
structure State.Finished (s : State) (p : Port) (reason : CloseReason) (u : State) (schedule : List Nat) (freed : List Waiter) : Prop where
  out : (s.begun p reason schedule).TornOut p u
  torn : (s.begun p reason schedule).Torn p u freed
  stage : PortCtl.Stage p ((s.port p).begun reason) freed (u.port p)
  served : s.waiterRecords.Perm (freed ++ u.waiterRecords)
  tables : u.TablesAgree
  pins : u.PinCountsExact

theorem enterClosing_finished (h : s.TeardownReady p) :
    ∃ schedule freed, s.Finished p reason (s.enterClosing p reason) schedule freed := by
  obtain ⟨schedule, out⟩ := enterClosing_tornOut (p := p) (reason := reason) h.locks h.jobs
  obtain ⟨freed, torn, stage⟩ := out.torn.done
  obtain ⟨tables, pins⟩ := enterClosing_counts (p := p) (reason := reason) h.directory h.mapCounts h.pins h.jobs h.opened
  have served := torn.served
  have records : (s.begun p reason schedule).waiterRecords = s.waiterRecords := by rw [begun_rest]; rfl
  rw [begun_port, if_pos rfl] at stage
  rw [records] at served
  exact ⟨schedule, freed, out, torn, stage, served, tables, pins⟩

section
variable {schedule : List Nat}

theorem State.Finished.session (f : s.Finished p reason u schedule freed) : (u.port p).session ≠ .opened :=
  f.stage.notOpen (begun_session _ _)

/-- The slots that are left of the port's own are its accesses in flight, and the CLOSE that CLOSED will answer (R46, R155). -/
theorem State.Finished.slots (h : s.TeardownReady p) (f : s.Finished p reason u schedule freed) :
    ∀ x ∈ (u.port p).slots, x ∈ (s.port p).slots ∧ x.state = .inFlight ∧ ∀ set, x.request ≠ .selectSet set := by
  intro x mem
  have once : (((s.port p).begun reason).slots.map (·.tag)).Nodup := by
    rw [begun_slots]; exact (h.ports p).tags.sublist (List.filter_sublist.map _)
  have left := (f.stage.slots once).1 mem
  rw [begun_slots] at left
  obtain ⟨before, notFreed⟩ := mem_keptSlots.mp left
  obtain ⟨before, stays⟩ := List.mem_filter.mp before
  obtain ⟨notHeld, notSelect⟩ := endsAtClosing_iff.mp (by simpa using stays)
  refine ⟨before, ?_, notSelect⟩
  cases state : x.state with
  | held => exact absurd state notHeld
  | inFlight => rfl
  | waiting =>
    obtain ⟨l, entry, w, waits, port, -⟩ := (mem_keptSlots_iff h.waiters h.ports f.served p before).mp notFreed state
    have waits : l.waits p = true := List.any_eq_true.mpr ⟨w, waits, by simpa using port⟩
    rw [(f.out.locks l entry).2] at waits
    cases waits

/-- A slot in flight, but for the deferred SELECT, outlives the entry into CLOSING, and no waiter's release frees it. -/
theorem State.TeardownReady.inFlight_kept (h : s.TeardownReady p) (f : s.Finished p reason u schedule freed) {x : Slot}
    (mem : x ∈ (s.port p).slots) (inFlight : x.state = .inFlight) (notSelect : ∀ set, x.request ≠ .selectSet set) :
    x.endsAtClosing = false ∧ ∀ w ∈ freed, w.port = p → w.tag ≠ x.tag :=
  ⟨endsAtClosing_iff.mpr ⟨by rw [inFlight]; nofun, notSelect⟩,
    (mem_keptSlots_iff h.waiters h.ports f.served p mem).mpr fun waiting => by rw [inFlight] at waiting; cases waiting⟩

theorem State.Finished.ownSlots (h : s.TeardownReady p) (f : s.Finished p reason u schedule freed) :
    ∀ x ∈ (s.port p).slots, x.state = .inFlight → (∀ set, x.request ≠ .selectSet set) →
      (x.request = .closeSession → (u.port p).session = .closing) → x ∈ (u.port p).slots := by
  intro x mem inFlight notSelect close
  obtain ⟨stays, notFreed⟩ := h.inFlight_kept f mem inFlight notSelect
  have once : (((s.port p).begun reason).slots.map (·.tag)).Nodup := by
    rw [begun_slots]; exact (h.ports p).tags.sublist (List.filter_sublist.map _)
  refine (f.stage.slots once).2 (mem_keptSlots.mpr ⟨?_, notFreed⟩) close
  rw [begun_slots]
  exact List.mem_filter.mpr ⟨mem, by simp [stays]⟩

/-- The first CLOSE in flight is answered when the port is CLOSED (R155). -/
theorem State.Finished.closeReply (h : s.TeardownReady p) (f : s.Finished p .closed u schedule freed)
    (closed : (u.port p).session = .closed) {before after : List Slot} {t : Tag}
    (slots : (s.port p).slots = before ++ { tag := t, request := .closeSession, state := .inFlight } :: after)
    (first : ∀ x ∈ before, x.request ≠ .closeSession) :
    (u.port p).outbound = joined (s.port p).outbound (.reply t 0x02 .ok .none) := by
  obtain ⟨-, -, outbound⟩ := begun_eq (s.port p) .closed
  obtain ⟨freed₀, part, answered⟩ := f.stage.answered (begun_session _ _) closed (begun_closeReason _ _)
  obtain ⟨stays, notFreed⟩ := h.inFlight_kept f (x := { tag := t, request := .closeSession, state := .inFlight })
    (by rw [slots]; simp) rfl nofun
  rw [← show ((s.port p).begun .closed).outbound = (s.port p).outbound from outbound]
  refine answered t ?_
  rw [begun_slots, slots, keptSlots, List.filter_filter, find_close _ rfl first]
  · rfl
  · simpa [stays] using fun w mem => notFreed w (part w mem)

theorem State.Finished.otherSlots (h : s.TeardownReady p) (f : s.Finished p reason u schedule freed) {y : Port} (other : y ≠ p) (x : Slot) :
    x ∈ (u.port y).slots ↔ x ∈ (s.port y).slots ∧
      (x.state = .waiting → ∃ l ∈ u.locks, ∃ w ∈ l.waiters, w.port = y ∧ w.tag = x.tag) := by
  rw [f.torn.slots y other, mem_keptSlots, begun_port, if_neg other]
  exact and_congr_right (mem_keptSlots_iff h.waiters h.ports f.served y)

/-- Messages and freed slots, at the most, for another port. -/
theorem State.Finished.otherPort (f : s.Finished p reason u schedule freed) {y : Port} (other : y ≠ p) : u.port y =
    { s.port y with slots := (u.port y).slots, outbound := (u.port y).outbound, lost := (u.port y).lost, tx := (u.port y).tx } := by
  have told := f.torn.told y other
  rw [begun_port, if_neg other] at told
  exact told.eq

theorem State.Finished.frame (f : s.Finished p reason u schedule freed) :
    u = { s with ports := u.ports, pages := u.pages, freeList := u.freeList, owned := u.owned, banks := u.banks,
                 maps := u.maps, locks := u.locks, jobs := u.jobs, role := u.role, schedule := u.schedule } := by
  have torn := f.torn.frame
  have role := f.torn.role
  rw [begun_rest] at torn
  rw [torn]

theorem State.Finished.tornDown (h : s.TeardownReady p) (f : s.Finished p reason u schedule freed) : u.TornDown s p := by
  have page : (s.begun p reason schedule).page = s.page := by rw [begun_rest]; rfl
  have lockOf : (s.begun p reason schedule).lockOf = s.lockOf := by rw [begun_rest]; rfl
  have jobs : (s.begun p reason schedule).jobs = s.jobs := by rw [begun_rest]
  have ownedBy : (s.begun p reason schedule).ownedBy = s.ownedBy := by rw [begun_rest]; rfl
  have directory : (s.begun p reason schedule).DirectoryAgrees :=
    (directorySound_iff.mp h.directory).1.of_tables (by rw [begun_rest]) (by rw [begun_rest]) (by rw [begun_rest]) (by rw [begun_rest])
  have owns : ∀ x q, (s.begun p reason schedule).Owns x q ↔ s.Owns x q := fun x q => by rw [State.Owns, page]; rfl
  have ended := f.stage.ended
  obtain ⟨present, pendingSet, inFlight⟩ := f.torn.selection
  rw [begun_map, if_pos rfl] at present pendingSet inFlight
  have place : ∀ q, s.Owns p q ∨ (s.page q).state = .orphaned →
      (s.begun p reason schedule).Owns p q ∨ ((s.begun p reason schedule).page q).state = .orphaned := fun q h => by
    rwa [owns, page]
  exact {
    session := f.session
    lost := ended.lost
    slots := f.slots h
    role := by rw [f.torn.role, begun_rest]
    entries := f.out.entries
    selection := ⟨present, pendingSet⟩
    locks := f.out.locks
    jobs := by rw [← jobs]; exact f.out.jobs
    owned := fun x => by rw [← ownedBy]; exact f.out.ownedBy directory f.tables.directory x
    counts := fun q => ⟨(f.tables.mapCounts q).1, f.pins.pins q⟩
    released := fun q hq unmapped unpinned => by
      have idle : ¬ (u.page q).inUse := fun used => by
        have count := f.pins.orphaned q (f.out.orphaned directory (place q hq) used).1
        rw [(f.tables.mapCounts q).1, f.pins.pins q, unmapped, unpinned] at count
        simp at count
      have used : (s.page q).inUse := hq.imp (·.1) id
      rw [← page] at used ⊢
      exact ⟨idle, ((f.torn.pages q).released used idle).2⟩
    orphaned := fun q hq count => by
      have used := inUse_of_count f.tables.mapCounts f.pins count
      obtain ⟨state, owner⟩ := f.out.orphaned directory (place q hq) used
      rw [← page]
      exact f.out.page f.tables.mapCounts f.pins used state owner
    others := fun q x other owned => by
      obtain ⟨state, owner⟩ := f.out.kept other ((owns x q).mpr owned)
      have := f.out.page f.tables.mapCounts f.pins (.inl state) state owner
      rwa [page, ← owned.1, ← owned.2] at this
    unused := fun q idle used => idle (page ▸ ((f.torn.pages q).kept used).1)
    otherMaps := fun y other => by rw [f.torn.maps y other, begun_map, if_neg other]
    otherPorts := fun y other => f.otherPort other
    otherSlots := fun y other => f.otherSlots h other
    otherHolders := by rw [← lockOf]; exact f.torn.holders
    otherWaiters := by
      rw [← lockOf]
      intro q l entry used w mem other
      obtain ⟨l', entry', waits | ⟨x, holds, same⟩⟩ := f.torn.waiters q l entry used w mem other
      · exact ⟨l', entry', .inl waits⟩
      · exact ⟨l', entry', .inr (List.any_eq_true.mpr ⟨x, holds, by simpa using same⟩)⟩
    ownPort := ended.ownPort
    ownCount := inFlight
    ownSlots := f.ownSlots h
    ownLine := ended.follows
    frame := f.frame }

end

/-- Settles O22: the parts of the teardown, in whatever order the schedule gives them, are each done at the end, because none of
them undoes another's. -/
theorem teardownLeavesNothingOfThePort : Obligations.TeardownLeavesNothingOfThePort := by
  intro s p reason directory mapCounts pins ports locks jobs waiters opened u queue joins
  have ready : s.TeardownReady p := ⟨directory, mapCounts, pins, ports, locks, jobs, waiters, opened⟩
  obtain ⟨schedule, freed, f⟩ := enterClosing_finished (reason := reason) ready
  have ended := f.stage.ended
  refine ⟨f.tornDown ready, ?_, ?_, ?_, ?_⟩
  · rintro rfl; exact ended.outbound nofun
  · rintro rfl; exact ended.outbound nofun
  · rintro rfl closing; exact ended.outbound fun _ => closing
  · rintro before after t rfl closed slots first; exact f.closeReply ready closed slots first

end Sys2Proof.Machine

/-! # SELECT: what is HELD behind it, its four cases, and the switch (R41 to R43, R148) -/
namespace Sys2Proof.Machine

variable {s u : State} {p : Port} {t : Tag}

/-! ## Requests HELD behind a pending SELECT -/

/-- A request that is taken while a SELECT is pending, and that R42 names, takes a slot and no more. -/
theorem receive_held (h : s.Takes p t) (pending : (s.map p).pendingSet ≠ none) (code : Byte) {r : Request}
    (unreserved : r.isReserved = false) (held : r.isHeld = true) :
    s.receive p t code (.request r) = s.withSlot p t r .held := by
  rw [receive_of_takes h code (by rw [unreserved]; nofun), take_held pending held]

theorem receive_held_of_some (h : s.Takes p t) (pending : (s.map p).pendingSet ≠ none) (code : Byte) {request : Option Request}
    {r : Request} (spelled : request = some r) (unreserved : r.isReserved = false) (held : r.isHeld = true) :
    s.receive p t code (.ofOption request) = s.withSlot p t r .held := by
  rw [spelled]
  exact receive_held h pending code unreserved held

/-- Every access command spells its access (Table 3-1). -/
theorem exec_accessCommand {c : Instr} {frame : Byte} {offset : Half} {kind : StoreKind}
    (command : AccessCommand c p t frame offset kind) :
    exec c s = .next (s.receive p t kind.code (.request (.access frame offset kind))) := by
  cases command with
  | write _ _ _ _ data short =>
    have spelled : writeRequest frame offset data = some (.access frame offset (.write data)) := if_pos short
    show Host.Outcome.next (s.receive p t 0x31 (.ofOption (writeRequest frame offset data))) = _
    rw [spelled]
    rfl
  | read | swap | cas | add | testclr | dectest => rfl

/-- Settles O18. -/
theorem requestsAreHeldBehindASelect : Obligations.RequestsAreHeldBehindASelect := by
  intro s p t h pending
  refine ⟨fun c frame offset kind command => ?_, fun frame mode lease wait m named => ?_,
    fun ss sf so ds df dOff n x y source destination present => ?_, fun df dOff n pattern => ?_⟩
  · rw [exec_accessCommand command]
    exact congrArg Host.Outcome.next (receive_held h pending _ rfl rfl)
  · refine congrArg Host.Outcome.next (receive_held_of_some h pending 0x40 ?_ rfl rfl)
    rw [acquireRequest, named]
    rfl
  · refine congrArg Host.Outcome.next (receive_held_of_some h pending 0x50 ?_ rfl ?_)
    · rw [copyRequest, source, destination]
      rfl
    · simpa [Request.isHeld] using present
  · exact congrArg Host.Outcome.next (receive_held_of_some (r := .fill .present df dOff n pattern) h pending 0x51 rfl rfl rfl)

/-! ## SELECT (R41) -/

theorem exec_selectSet (h : s.Takes p t) {setCode : Byte} {set : MapSet} (named : mapSetOf setCode = some set) :
    exec (.selectSet p t setCode) s = .next ((s.handed p t (.selectSet set)).selectFrames p t set) := by
  have spelled : selectRequest setCode = some (.selectSet set) := by rw [selectRequest, named]; rfl
  show Host.Outcome.next (s.receive p t 0x22 (.ofOption (selectRequest setCode))) = _
  rw [spelled]
  exact congrArg Host.Outcome.next (receive_handed h 0x22 nofun rfl)

/-- The cases of SELECT, with the slot of the request. -/
theorem selectFrames_handed (h : s.Takes p t) (set : MapSet) :
    (s.handed p t (.selectSet set)).selectFrames p t set =
      if (s.map p).pendingSet ≠ none then s.reply p t 0x22 .badState
      else if (s.map p).present = set then s.reply p t 0x22 .ok
      else if (s.map p).inFlight = 0 then (s.modMap p fun m => { m with present := set }).reply p t 0x22 .ok
      else (s.handed p t (.selectSet set)).modMap p fun m => { m with pendingSet := some set } := by
  have moved : (s.modMap p fun m => { m with present := set }).Takes p t := h.of_ports rfl rfl
  have map : (s.handed p t (.selectSet set)).map p = s.map p := rfl
  rw [State.selectFrames, map, handed_answer h, handed_answer h, ← handed_answer moved (.selectSet set)]
  exact if_congr Option.isSome_iff_ne_none rfl rfl

/-! ## The switch (R43) -/

/-- The first slot of an IN-FLIGHT SELECT is the deferred one. -/
theorem selectTag_of_split {c : PortCtl} {set : MapSet} {before after : List Slot}
    (slots : c.slots = before ++ { tag := t, request := .selectSet set, state := .inFlight } :: after)
    (first : ∀ x ∈ before, x.state = .inFlight → ∀ y, x.request ≠ .selectSet y) : c.selectTag = some t := by
  rw [PortCtl.selectTag, slots, List.find?_append, List.find?_eq_none.mpr, Option.none_or, List.find?_cons_of_pos]
  · rfl
  · rfl
  · intro x mem
    split
    · next set' request => simpa using fun inFlight => first x mem inFlight set' request
    all_goals nofun

/-- The switch answers its SELECT, frees its slot, and releases the HELD requests in order. -/
theorem switchTo_of_split {set set' : MapSet} {before after : List Slot}
    (slots : (s.port p).slots = before ++ { tag := t, request := .selectSet set', state := .inFlight } :: after)
    (others : ∀ x ∈ before ++ after, x.tag ≠ t ∧ (x.state = .inFlight → ∀ y, x.request ≠ .selectSet y)) :
    s.switchTo p set =
      ((before ++ after).filter (·.state == .held)).foldl (fun u x => u.releaseHeld p x)
        (((s.modMap p fun m => { m with present := set, pendingSet := none }).modPort p fun c =>
          { c with slots := before ++ after }).reply p t 0x22 .ok) := by
  have freed : (s.port p).freeSlot t = { s.port p with slots := before ++ after } := by
    have kept : (before ++ after).filter (·.tag ≠ t) = before ++ after :=
      List.filter_eq_self.mpr fun x mem => by simpa using (others x mem).1
    rw [PortCtl.freeSlot, slots]
    rw [List.filter_append] at kept ⊢
    rw [List.filter_cons_of_neg (by simp), kept]
  have tag : (s.port p).selectTag = some t :=
    selectTag_of_split slots fun x mem => (others x (List.mem_append_left _ mem)).2
  have answered : (s.modMap p fun m => { m with present := set, pendingSet := none }).answerSelect p =
      ((s.modMap p fun m => { m with present := set, pendingSet := none }).modPort p fun c =>
        { c with slots := before ++ after }).reply p t 0x22 .ok := by
    rw [State.answerSelect, State.port_modMap, tag, State.reply, State.modPort_modPort]
    exact State.modPort_congr (by rw [State.port_modMap, freed])
  rw [State.switchTo, answered]
  rw [State.reply, State.port_modPort_same, offerReply_slots, State.port_modPort_same]

/-- Settles O31. -/
theorem selectAndSwitch : Obligations.SelectAndSwitch := by
  refine ⟨fun p t setCode s set h named => ?_, fun s p running => ?_⟩
  · rw [exec_selectSet h named, selectFrames_handed h]
    refine ⟨fun pending => by rw [if_pos pending], fun none same => ?_, fun none other idle => ?_, fun none other busy => ?_⟩
    · rw [if_neg (not_not.mpr none), if_pos same]
    · rw [if_neg (not_not.mpr none), if_neg other, if_pos idle]
    · rw [if_neg (not_not.mpr none), if_neg other, if_neg busy]
      rfl
  · have taken : exec (.switch p) s = .next (s.switchCheck p) := congrArg Host.Outcome.next (if_pos (isRunning_iff.mpr running))
    rw [taken]
    refine ⟨rfl, fun notDue => ?_, fun set t before after pending idle slots others => ?_⟩
    · rw [State.switchCheck]
      split
      · rfl
      · next pending => rw [if_neg (notDue.resolve_left (by rw [pending]; nofun))]
    · rw [State.switchCheck, pending]
      dsimp only
      rw [if_pos idle, switchTo_of_split slots others]
      rfl

end Sys2Proof.Machine

/-! # What leaves the work in flight alone (R40, R54, R63, R64, R99)

Most operations of the device touch neither an in-flight record, nor a bank queue, nor a job, nor an in-flight count. One relation
says so (`State.SameWork`), with what the switch needs besides: no slot becomes HELD. -/
namespace Sys2Proof.Machine

variable {s u v : State}

/-! ## The relations -/

/-- A fold each of whose rounds stays inside a relation that is reflexive and transitive. -/
theorem foldl_related {σ α : Type} {R : σ → σ → Prop} (refl : ∀ s, R s s) (trans : ∀ {a b c}, R a b → R b c → R a c)
    {f : σ → α → σ} (h : ∀ s x, R s (f s x)) (l : List α) (s : σ) : R s (l.foldl f s) := by
  induction l generalizing s with
  | nil => exact refl s
  | cons x l ih => exact trans (h s x) (ih _)

/-- The phase, the supply, the reset line and the kind of the next start are as before (R203 to R205). -/
structure State.SameDevice (s u : State) : Prop where
  phase : u.phase = s.phase
  supplyGood : u.supplyGood = s.supplyGood
  resetAsserted : u.resetAsserted = s.resetAsserted
  nextStart : u.nextStart = s.nextStart

theorem State.SameDevice.refl (s : State) : s.SameDevice s := ⟨rfl, rfl, rfl, rfl⟩

theorem State.SameDevice.trans (h : s.SameDevice u) (h' : u.SameDevice v) : s.SameDevice v :=
  ⟨h'.phase.trans h.phase, h'.supplyGood.trans h.supplyGood, h'.resetAsserted.trans h.resetAsserted,
    h'.nextStart.trans h.nextStart⟩

/-- The in-flight records are as before as well: what the Copy Engine leaves. -/
structure State.SameRecords (s u : State) : Prop extends s.SameDevice u where
  accesses : u.accesses = s.accesses

theorem State.SameRecords.refl (s : State) : s.SameRecords s := ⟨.refl s, rfl⟩

theorem State.SameRecords.trans (h : s.SameRecords u) (h' : u.SameRecords v) : s.SameRecords v :=
  ⟨h.toSameDevice.trans h'.toSameDevice, h'.accesses.trans h.accesses⟩

/-- The HELD slots of a Port Controller (R42, R148). -/
def PortCtl.heldSlots (c : PortCtl) : List Slot := c.slots.filter (·.state == .held)

/-- A Port Controller whose in-flight count is as before and none of whose slots has become HELD. -/
structure PortCtl.SameWork (c d : PortCtl) : Prop where
  inFlight : d.inFlight = c.inFlight
  held : d.heldSlots.Sublist c.heldSlots

theorem PortCtl.SameWork.refl (c : PortCtl) : c.SameWork c := ⟨rfl, .refl _⟩

theorem PortCtl.SameWork.trans {c d e : PortCtl} (h : c.SameWork d) (h' : d.SameWork e) : c.SameWork e :=
  ⟨h'.inFlight.trans h.inFlight, h'.held.trans h.held⟩

/-- The accesses and the bank queues are as before. -/
structure State.SameStores (s u : State) : Prop extends s.SameRecords u where
  queues : u.queues = s.queues
  port : ∀ p, (s.port p).SameWork (u.port p)
  map : ∀ p, (u.map p).inFlight = (s.map p).inFlight

theorem State.SameStores.records (h : s.SameStores u) : s.SameRecords u := h.toSameRecords

theorem State.SameStores.refl (s : State) : s.SameStores s := ⟨.refl s, rfl, fun _ => .refl _, fun _ => rfl⟩

theorem State.SameStores.trans (h : s.SameStores u) (h' : u.SameStores v) : s.SameStores v :=
  ⟨h.records.trans h'.records, h'.queues.trans h.queues, fun p => (h.port p).trans (h'.port p),
    fun p => (h'.map p).trans (h.map p)⟩

/-- The work in flight is as before. -/
structure State.SameWork (s u : State) : Prop extends s.SameStores u where
  jobs : u.jobs = s.jobs

theorem State.SameWork.stores (h : s.SameWork u) : s.SameStores u := h.toSameStores
theorem State.SameWork.records (h : s.SameWork u) : s.SameRecords u := h.toSameRecords
theorem State.SameWork.device (h : s.SameWork u) : s.SameDevice u := h.toSameDevice

theorem State.SameWork.refl (s : State) : s.SameWork s := ⟨.refl s, rfl⟩

theorem State.SameWork.trans (h : s.SameWork u) (h' : u.SameWork v) : s.SameWork v :=
  ⟨h.stores.trans h'.stores, h'.jobs.trans h.jobs⟩

theorem State.SameWork.foldl {α : Type} {f : State → α → State} (h : ∀ s x, State.SameWork s (f s x)) (l : List α) (s : State) :
    s.SameWork (l.foldl f s) := foldl_related .refl .trans h l s

/-- A change of other tables. -/
theorem State.SameWork.of_tables (records : s.SameRecords u) (queues : u.queues = s.queues) (jobs : u.jobs = s.jobs)
    (ports : u.ports = s.ports) (maps : u.maps = s.maps) : s.SameWork u :=
  ⟨⟨records, queues, fun p => by simp only [State.port, ports]; exact .refl _, fun p => by simp only [State.map, maps]⟩, jobs⟩

theorem State.SameWork.modPort_of {p : Port} {f : PortCtl → PortCtl} (h : (s.port p).SameWork (f (s.port p))) :
    s.SameWork (s.modPort p f) := by
  refine ⟨⟨⟨⟨rfl, rfl, rfl, rfl⟩, rfl⟩, rfl, fun x => ?_, fun _ => rfl⟩, rfl⟩
  rw [State.port_modPort]
  split
  · next same => rw [same]; exact h
  · exact .refl _

theorem State.SameWork.modPort {p : Port} {f : PortCtl → PortCtl} (h : ∀ c : PortCtl, c.SameWork (f c)) :
    s.SameWork (s.modPort p f) := .modPort_of (h _)

theorem State.SameWork.modMap_of {p : Port} {f : PortMaps → PortMaps} (h : (f (s.map p)).inFlight = (s.map p).inFlight) :
    s.SameWork (s.modMap p f) := by
  refine ⟨⟨⟨⟨rfl, rfl, rfl, rfl⟩, rfl⟩, rfl, fun _ => .refl _, fun x => ?_⟩, rfl⟩
  rw [State.map_modMap]
  split
  · next same => rw [same]; exact h
  · rfl

theorem State.SameWork.modPage (q : PageNo) (f : PageRec → PageRec) : s.SameWork (s.modPage q f) :=
  .of_tables ⟨⟨rfl, rfl, rfl, rfl⟩, rfl⟩ rfl rfl rfl rfl

theorem State.SameWork.modBank (b : BankNo) (f : BankRec → BankRec) : s.SameWork (s.modBank b f) :=
  .of_tables ⟨⟨rfl, rfl, rfl, rfl⟩, rfl⟩ rfl rfl rfl rfl

theorem State.SameWork.modLock (q : PageNo) (f : LockEntry → LockEntry) : s.SameWork (s.modLock q f) :=
  .of_tables ⟨⟨rfl, rfl, rfl, rfl⟩, rfl⟩ rfl rfl rfl rfl

/-! ## Messages and slots -/

theorem PortCtl.SameWork.of_slots {c d : PortCtl} (inFlight : d.inFlight = c.inFlight) (slots : d.slots = c.slots) : c.SameWork d :=
  ⟨inFlight, by rw [PortCtl.heldSlots, slots]; exact .refl _⟩

theorem offerReply_sameWork (c : PortCtl) (t : Tag) (code : Byte) (st : Status) (pay : Payload) :
    c.SameWork (c.offerReply t code st pay) := .of_slots (told_offerReply _ _ _ _ _).inFlight (offerReply_slots _ _ _ _ _)

theorem offerEvent_sameWork (c : PortCtl) (e : Event) : c.SameWork (c.offerEvent e) :=
  .of_slots (told_offerEvent c e).inFlight (offerEvent_slots c e)

theorem freeSlot_sameWork (c : PortCtl) (t : Tag) : c.SameWork (c.freeSlot t) := ⟨rfl, List.filter_sublist.filter _⟩

/-- A slot that takes another state than HELD is HELD no longer. -/
theorem setSlot_sameWork (c : PortCtl) (t : Tag) {st : SlotState} (notHeld : st ≠ .held) : c.SameWork (c.setSlot t st) := by
  refine ⟨rfl, ?_⟩
  show ((c.slots.map _).filter _).Sublist (c.slots.filter _)
  induction c.slots with
  | nil => exact .refl _
  | cons x l ih =>
    rw [List.map_cons]
    by_cases named : x.tag = t
    · rw [List.filter_cons_of_neg (by simpa [named] using notHeld), List.filter_cons]
      split
      · exact ih.cons _
      · exact ih
    · rw [if_neg named, List.filter_cons, List.filter_cons]
      split
      · exact ih.cons_cons _
      · exact ih

theorem answer_sameWork (p : Port) (t : Tag) (code : Byte) (st : Status) (pay : Payload) :
    s.SameWork (s.answer p t code st pay) :=
  .modPort fun c => (freeSlot_sameWork c t).trans (offerReply_sameWork _ _ _ _ _)

theorem refuse_sameWork (p : Port) (t : Tag) (code : Byte) (st : Status) : s.SameWork (s.refuse p t code st) :=
  .modPort fun c => offerReply_sameWork c _ _ _ _

theorem offer_sameWork (p : Port) (e : Event) : s.SameWork (s.offer p e) := .modPort fun c => offerEvent_sameWork c e

theorem offerSupervisor_sameWork (e : Event) : s.SameWork (s.offerSupervisor e) := by
  unfold State.offerSupervisor
  split
  · exact .refl _
  · exact offer_sameWork _ _

/-! ## The Lock Unit -/

theorem regrant_sameWork (q : PageNo) (hs : List Holder) (ws : List Waiter) : s.SameWork (s.regrant q hs ws) := by
  unfold State.regrant
  exact (State.SameWork.modLock q _).trans (.foldl (fun _ _ => answer_sameWork _ _ _ _ _) _ _)

theorem grantStep_sameWork (q : PageNo) : s.SameWork (s.grantStep q) := by
  unfold State.grantStep
  split
  · exact .refl _
  · exact regrant_sameWork _ _ _

theorem dropHolder_sameWork (q : PageNo) (p : Port) : s.SameWork (s.dropHolder q p) := by
  unfold State.dropHolder
  split
  · exact .refl _
  · exact regrant_sameWork _ _ _

theorem dropWaiter_sameWork (q : PageNo) (p : Port) : s.SameWork (s.dropWaiter q p) := by
  unfold State.dropWaiter
  split
  · exact .refl _
  · exact regrant_sameWork _ _ _

theorem unlockForTeardown_sameWork (p : Port) (q : PageNo) : s.SameWork (s.unlockForTeardown p q) := by
  unfold State.unlockForTeardown
  split
  · exact .refl _
  · refine State.SameWork.trans ?_ (regrant_sameWork _ _ _)
    split
    · exact .refl _
    · exact .modPort fun c => freeSlot_sameWork c _

theorem acquireGrant_sameWork (p : Port) (t : Tag) (q : PageNo) (mode : LockMode) (asked : Half) :
    s.SameWork (s.acquireGrant p t q mode asked) := by
  unfold State.acquireGrant
  refine State.SameWork.trans ?_ (answer_sameWork _ _ _ _ _)
  split
  · exact .modLock _ _
  · exact .of_tables ⟨⟨rfl, rfl, rfl, rfl⟩, rfl⟩ rfl rfl rfl rfl

theorem acquireWait_sameWork (p : Port) (t : Tag) (q : PageNo) (mode : LockMode) (asked wait : Half) :
    s.SameWork (s.acquireWait p t q mode asked wait) := by
  unfold State.acquireWait
  exact (State.SameWork.modLock q _).trans (.modPort fun c => setSlot_sameWork c t (by decide))

theorem acquire_sameWork (p : Port) (t : Tag) (frame : Byte) (mode : LockMode) (asked wait : Half) :
    s.SameWork (s.acquire p t frame mode asked wait) := by
  unfold State.acquire
  split
  · exact answer_sameWork _ _ _ _ _
  split
  · exact answer_sameWork _ _ _ _ _
  split
  · exact answer_sameWork _ _ _ _ _
  split
  · split
    · exact answer_sameWork _ _ _ _ _
    · exact acquireGrant_sameWork _ _ _ _ _
  · split
    · exact answer_sameWork _ _ _ _ _
    split
    · exact acquireGrant_sameWork _ _ _ _ _
    split
    · exact answer_sameWork _ _ _ _ _
    · exact acquireWait_sameWork _ _ _ _ _ _

theorem release_sameWork (p : Port) (t : Tag) (page : Half) : s.SameWork (s.release p t page) := by
  unfold State.release
  split
  · exact answer_sameWork _ _ _ _ _
  split
  · exact (dropHolder_sameWork _ _).trans (answer_sameWork _ _ _ _ _)
  · exact answer_sameWork _ _ _ _ _

theorem renew_sameWork (p : Port) (t : Tag) (page asked : Half) : s.SameWork (s.renew p t page asked) := by
  unfold State.renew
  split
  · exact answer_sameWork _ _ _ _ _
  split
  · exact (State.SameWork.modLock _ _).trans (answer_sameWork _ _ _ _ _)
  · exact answer_sameWork _ _ _ _ _

theorem leaseRunOut_sameWork (q : PageNo) (p : Port) : s.SameWork (s.leaseRunOut q p) := by
  unfold State.leaseRunOut
  split
  · exact (dropHolder_sameWork q p).trans (offer_sameWork _ _)
  · exact .refl _

theorem waitRunOut_sameWork (q : PageNo) (p : Port) : s.SameWork (s.waitRunOut q p) := by
  unfold State.waitRunOut State.timeOutWait
  split
  · split
    · exact .refl _
    · exact (answer_sameWork _ _ _ _ _).trans (dropWaiter_sameWork _ _)
  · exact .refl _

theorem dissolve_sameWork (q : PageNo) : s.SameWork (s.dissolve q) := by
  have waiter : ∀ (v : State) (w : Waiter), v.SameWork (v.dissolveWaiter w) := fun v w => by
    unfold State.dissolveWaiter
    split
    · exact answer_sameWork _ _ _ _ _
    · exact .modPort fun c => freeSlot_sameWork c _
  unfold State.dissolve
  split
  · exact .refl _
  · next l _ =>
    have told : s.SameWork (l.holders.foldl (fun s h => State.offer s h.port (.leaseLost q)) s) :=
      .foldl (fun _ _ => offer_sameWork _ _) _ _
    exact (told.trans (.foldl waiter _ _)).trans (.of_tables ⟨⟨rfl, rfl, rfl, rfl⟩, rfl⟩ rfl rfl rfl rfl)

/-! ## The Page Directory -/

theorem changePage_sameWork (q : PageNo) (new : PageState) (f : PageRec → PageRec) : s.SameWork (s.changePage q new f) :=
  .of_tables ⟨⟨rfl, rfl, rfl, rfl⟩, rfl⟩ rfl rfl rfl rfl

theorem releasePage_sameWork (q : PageNo) : s.SameWork (s.releasePage q) :=
  (dissolve_sameWork q).trans (.of_tables ⟨⟨rfl, rfl, rfl, rfl⟩, rfl⟩ rfl rfl rfl rfl)

theorem orphanCheck_sameWork (q : PageNo) : s.SameWork (s.orphanCheck q) := by
  unfold State.orphanCheck
  split
  · exact releasePage_sameWork q
  · exact .refl _

theorem mapDown_sameWork (q : PageNo) : s.SameWork (s.mapDown q) := (State.SameWork.modPage q _).trans (orphanCheck_sameWork q)

theorem pinDown_sameWork (q : PageNo) : s.SameWork (s.pinDown q) := (State.SameWork.modPage q _).trans (orphanCheck_sameWork q)

theorem moveBank_sameWork (b : BankNo) (new : BankState) (cause : BankCause) : s.SameWork (s.moveBank b new cause) :=
  (State.SameWork.modBank b _).trans (offerSupervisor_sameWork _)

theorem bankOfflineCheck_sameWork (b : BankNo) : s.SameWork (s.bankOfflineCheck b) := by
  unfold State.bankOfflineCheck
  split
  · exact moveBank_sameWork _ _ _
  · exact .refl _

theorem drainBank_sameWork (b : BankNo) (cause : BankCause) : s.SameWork (s.drainBank b cause) := by
  have withheld : s.SameWork (s.withholdBank b) := .of_tables ⟨⟨rfl, rfl, rfl, rfl⟩, rfl⟩ rfl rfl rfl rfl
  exact (withheld.trans (moveBank_sameWork _ _ _)).trans (bankOfflineCheck_sameWork b)

theorem retireLimitCheck_sameWork (b : BankNo) : s.SameWork (s.retireLimitCheck b) := by
  unfold State.retireLimitCheck
  split
  · exact drainBank_sameWork _ _
  · exact .refl _

theorem settleBank_sameWork (before : State) (q : PageNo) : s.SameWork (before.settleBank s q) := by
  unfold State.settleBank
  split
  · exact .refl _
  split
  · split
    · exact retireLimitCheck_sameWork _
    · exact bankOfflineCheck_sameWork _
  · exact bankOfflineCheck_sameWork _
  all_goals exact .refl _

theorem unpinClaim_sameWork (q : PageNo) : s.SameWork (s.unpinClaim q) := (pinDown_sameWork q).trans (settleBank_sameWork s q)

theorem unmapClaim_sameWork (q : PageNo) : s.SameWork (s.unmapClaim q) := (mapDown_sameWork q).trans (settleBank_sameWork s q)

theorem releaseOwned_sameWork (p : Port) (q : PageNo) : s.SameWork (s.releaseOwned p q) :=
  (releasePage_sameWork q).trans (.of_tables ⟨⟨rfl, rfl, rfl, rfl⟩, rfl⟩ rfl rfl rfl rfl)

theorem takePages_sameWork (p : Port) (n : Nat) : s.SameWork (s.takePages p n) := by
  unfold State.takePages
  have taken : s.SameWork ({ s with freeList := s.freeList.drop n }.modOwned p (· + n)) :=
    .of_tables ⟨⟨rfl, rfl, rfl, rfl⟩, rfl⟩ rfl rfl rfl rfl
  exact taken.trans (.foldl (fun _ _ => changePage_sameWork _ _ _) _ _)

theorem alloc_sameWork (p : Port) (t : Tag) (count : Byte) : s.SameWork (s.alloc p t count) := by
  simp only [State.alloc]
  split
  · exact answer_sameWork _ _ _ _ _
  split
  · exact answer_sameWork _ _ _ _ _
  split
  · exact answer_sameWork _ _ _ _ _
  · exact (takePages_sameWork _ _).trans (answer_sameWork _ _ _ _ _)

theorem free_sameWork (p : Port) (t : Tag) (page : Half) : s.SameWork (s.free p t page) := by
  unfold State.free
  split
  · exact answer_sameWork _ _ _ _ _
  split
  · exact answer_sameWork _ _ _ _ _
  split
  · exact answer_sameWork _ _ _ _ _
  split
  · exact answer_sameWork _ _ _ _ _
  split
  · exact answer_sameWork _ _ _ _ _
  · exact ((releaseOwned_sameWork _ _).trans (answer_sameWork _ _ _ _ _)).trans (settleBank_sameWork s _)

theorem pageQuery_sameWork (p : Port) (t : Tag) (page : Half) : s.SameWork (s.pageQuery p t page) := by
  unfold State.pageQuery
  split <;> exact answer_sameWork _ _ _ _ _

theorem drain_sameWork (p : Port) (t : Tag) (bank : Byte) : s.SameWork (s.drain p t bank) := by
  unfold State.drain
  split
  · exact answer_sameWork _ _ _ _ _
  split
  · exact answer_sameWork _ _ _ _ _
  · exact (answer_sameWork _ _ _ _ _).trans (drainBank_sameWork _ _)

theorem restore_sameWork (p : Port) (t : Tag) (bank : Byte) : s.SameWork (s.restore p t bank) := by
  unfold State.restore
  split
  · exact answer_sameWork _ _ _ _ _
  split
  · exact answer_sameWork _ _ _ _ _
  · refine (answer_sameWork p t 0x62 .ok .none).trans (State.SameWork.trans ?_ (moveBank_sameWork _ _ _))
    exact .of_tables ⟨⟨rfl, rfl, rfl, rfl⟩, rfl⟩ rfl rfl rfl rfl

theorem disownPage_sameWork (p : Port) (q : PageNo) : s.SameWork (s.disownPage p q) := by
  unfold State.disownPage
  split
  · exact (releaseOwned_sameWork p q).trans (settleBank_sameWork s q)
  · exact .of_tables ⟨⟨rfl, rfl, rfl, rfl⟩, rfl⟩ rfl rfl rfl rfl

theorem ownershipStep_sameWork (p : Port) : s.SameWork (s.ownershipStep p) := .foldl (fun _ _ => disownPage_sameWork _ _) _ _

theorem clearGrants_sameWork (p : Port) : s.SameWork (s.clearGrants p) :=
  .of_tables ⟨⟨rfl, rfl, rfl, rfl⟩, rfl⟩ rfl rfl rfl rfl

/-! ## The Frame Map Unit -/

theorem setEntry_sameWork (p : Port) (set : MapSet) (f : FrameNo) (e : FrameEntry) : s.SameWork (s.setEntry p set f e) :=
  .modMap_of (by cases set <;> rfl)

theorem mapTaken_sameWork (p : Port) (t : Tag) (set : MapSet) (f : FrameNo) (q : PageNo) (a : Access) :
    s.SameWork (s.mapTaken p t set f q a) := by
  simp only [State.mapTaken]
  refine State.SameWork.trans ?_ (answer_sameWork _ _ _ _ _)
  refine (setEntry_sameWork p set f (some { page := q, access := a })).trans ?_
  unfold State.mapClaim
  split
  · exact .modPage _ _
  · split
    · exact .refl _
    · exact (State.SameWork.modPage _ _).trans (unmapClaim_sameWork _)

theorem mapFrame_sameWork (p : Port) (t : Tag) (set : MapSet) (frame : Byte) (page : Half) (a : Access) :
    s.SameWork (s.mapFrame p t set frame page a) := by
  unfold State.mapFrame
  split
  · split
    · exact mapTaken_sameWork _ _ _ _ _ _
    · exact answer_sameWork _ _ _ _ _
  all_goals exact answer_sameWork _ _ _ _ _

theorem unmapFrame_sameWork (p : Port) (t : Tag) (set : MapSet) (frame : Byte) : s.SameWork (s.unmapFrame p t set frame) := by
  unfold State.unmapFrame
  split
  · exact answer_sameWork _ _ _ _ _
  split
  · exact answer_sameWork _ _ _ _ _
  · exact (((setEntry_sameWork _ _ _ _).trans (mapDown_sameWork _)).trans (answer_sameWork _ _ _ _ _)).trans
      (settleBank_sameWork s _)

theorem selectFrames_sameWork (p : Port) (t : Tag) (set : MapSet) : s.SameWork (s.selectFrames p t set) := by
  unfold State.selectFrames
  split
  · exact answer_sameWork _ _ _ _ _
  split
  · exact answer_sameWork _ _ _ _ _
  split
  · exact (State.SameWork.modMap_of (f := fun m => { m with present := set }) rfl).trans (answer_sameWork _ _ _ _ _)
  · exact .modMap_of rfl

theorem mapQuery_sameWork (p : Port) (t : Tag) (set : MapSet) (first count : Byte) :
    s.SameWork (s.mapQuery p t set first count) := by
  simp only [State.mapQuery]
  split <;> exact answer_sameWork _ _ _ _ _

theorem disableEntry_sameWork (p : Port) (x : MapSet × FrameNo) : s.SameWork (s.disableEntry p x) := by
  unfold State.disableEntry
  split
  · exact .refl _
  · exact (setEntry_sameWork _ _ _ _).trans (unmapClaim_sameWork _)

theorem offerMapChanged_sameWork (target : Port) (q : PageNo) (pairs : List ChangedEntry) :
    s.SameWork (s.offerMapChanged target q pairs) := by
  simp only [State.offerMapChanged]
  split
  · exact .refl _
  split
  · exact offer_sameWork _ _
  · exact (offer_sameWork _ _).trans (offer_sameWork _ _)

theorem grantTaken_sameWork (p : Port) (t : Tag) (q : PageNo) (target : Port) (right : Right) :
    s.SameWork (s.grantTaken p t q target right) := by
  have set : s.SameWork (s.setGrant q target right) := .modPage _ _
  have removed : ∀ l : List (MapSet × FrameNo), s.SameWork
      ((l.foldl (fun s x => s.disableEntry target x) (s.setGrant q target right)).answer p t 0x12 .ok) := fun l =>
    (set.trans (.foldl (fun _ x => disableEntry_sameWork _ x) l _)).trans (answer_sameWork _ _ _ _ _)
  simp only [State.grantTaken]
  split
  · exact ((set.trans (.foldl (fun _ x => setEntry_sameWork _ _ _ _) _ _)).trans (answer_sameWork _ _ _ _ _)).trans
      (offerMapChanged_sameWork _ _ _)
  · exact (removed _).trans (offerMapChanged_sameWork _ _ _)
  · exact (removed _).trans (offerMapChanged_sameWork _ _ _)
  all_goals exact set.trans (answer_sameWork _ _ _ _ _)

theorem grant_sameWork (p : Port) (t : Tag) (page : Half) (target : Byte) (right : Right) :
    s.SameWork (s.grant p t page target right) := by
  unfold State.grant
  split
  · split
    · exact answer_sameWork _ _ _ _ _
    split
    · exact answer_sameWork _ _ _ _ _
    split
    · exact answer_sameWork _ _ _ _ _
    · exact grantTaken_sameWork _ _ _ _ _
  all_goals exact answer_sameWork _ _ _ _ _

/-! ## Sessions, the role, and the Copy Engine's reports -/

theorem closedCheck_sameWork (p : Port) : s.SameWork (s.closedCheck p) := by
  have answered : ∀ v : State, v.SameWork (v.answerClose p) := fun v => by
    unfold State.answerClose
    split
    · split
      · exact .refl _
      · exact answer_sameWork _ _ _ _ _
    · exact .refl _
  have told : ∀ v : State, v.SameWork (v.offerPortDown p) := fun v => by
    unfold State.offerPortDown
    split
    · split
      · exact .refl _
      · exact offer_sameWork _ _
    all_goals exact .refl _
  unfold State.closedCheck
  split
  · have reached : s.SameWork (s.modPort p fun c => { c with session := .closed }) := .modPort fun _ => .of_slots rfl rfl
    exact ((reached.trans (answered _)).trans (told _)).trans (.modPort fun _ => .of_slots rfl rfl)
  · exact .refl _

theorem reportJobEnd_sameWork (j : Job) (outcome : JobOutcome) : s.SameWork (s.reportJobEnd j outcome) := by
  unfold State.reportJobEnd
  split
  · exact offer_sameWork _ _
  · exact (State.SameWork.modPort (f := fun c => { c with activeJob := false }) fun _ => .of_slots rfl rfl).trans
      (closedCheck_sameWork _)

theorem jobQuery_sameWork (p : Port) (t : Tag) (id : Byte) : s.SameWork (s.jobQuery p t id) := by
  unfold State.jobQuery
  split <;> exact answer_sameWork _ _ _ _ _

theorem claim_sameWork (p : Port) (t : Tag) : s.SameWork (s.claim p t) := by
  have role : ∀ r, s.SameWork { s with role := r } := fun _ => .of_tables ⟨⟨rfl, rfl, rfl, rfl⟩, rfl⟩ rfl rfl rfl rfl
  unfold State.claim
  split
  · exact (role _).trans (answer_sameWork _ _ _ _ _)
  · split <;> exact answer_sameWork _ _ _ _ _

theorem handover_sameWork (p : Port) (t : Tag) (target : Byte) : s.SameWork (s.handover p t target) := by
  have role : ∀ r, s.SameWork { s with role := r } := fun _ => .of_tables ⟨⟨rfl, rfl, rfl, rfl⟩, rfl⟩ rfl rfl rfl rfl
  unfold State.handover
  split
  · exact answer_sameWork _ _ _ _ _
  split
  · exact answer_sameWork _ _ _ _ _
  split
  · exact answer_sameWork _ _ _ _ _
  · exact ((role _).trans (answer_sameWork _ _ _ _ _)).trans (offer_sameWork _ _)

theorem configure_sameWork (p : Port) (t : Tag) (f : ConfigFields) : s.SameWork (s.configure p t f) := by
  have written : s.SameWork { s with config := s.config.write f } := .of_tables ⟨⟨rfl, rfl, rfl, rfl⟩, rfl⟩ rfl rfl rfl rfl
  simp only [State.configure]
  split
  · exact answer_sameWork _ _ _ _ _
  split
  · exact answer_sameWork _ _ _ _ _
  split
  · exact (written.trans (answer_sameWork _ _ _ _ _)).trans (.foldl (fun _ _ => retireLimitCheck_sameWork _) _ _)
  · exact written.trans (answer_sameWork _ _ _ _ _)

/-- OPEN starts a session with no access in flight (R151, R155). -/
theorem openPort_sameWork {p : Port} (idle : (s.port p).session = .closed → (s.port p).inFlight = 0 ∧ (s.map p).inFlight = 0)
    (t : Tag) : s.SameWork (s.openPort p t) := by
  unfold State.openPort
  split
  · next closed =>
    obtain ⟨noRecord, noAccess⟩ := idle closed
    refine State.SameWork.trans ?_ (answer_sameWork _ _ _ _ _)
    have port : s.SameWork (s.modPort p fun c =>
        { c with session := .opened, closeReason := none, inFlight := 0, activeJob := false, lost := 0 }) :=
      .modPort_of (.of_slots noRecord.symm rfl)
    refine (port.trans (.modMap_of (p := p) (f := fun m => { m with present := .a, pendingSet := none, inFlight := 0 })
      noAccess.symm)).trans ?_
    exact .of_tables ⟨⟨rfl, rfl, rfl, rfl⟩, rfl⟩ rfl rfl rfl rfl
  all_goals exact answer_sameWork _ _ _ _ _

/-! ## The line, the timers and the medium -/

theorem setRx_sameWork (p : Port) (rx : RxState) (gap : Option Nat) : s.SameWork (s.setRx p rx gap) :=
  .modPort fun _ => .of_slots rfl rfl

theorem reject_sameWork (p : Port) (rx : RxState) (gap : Option Nat) (reason : RejectReason) :
    s.SameWork (s.reject p rx gap reason) := (setRx_sameWork p rx gap).trans (offer_sameWork _ _)

theorem receiveError_sameWork (p : Port) : s.SameWork (s.receiveError p) := by
  simp only [State.receiveError]
  split
  · exact .refl _
  · exact reject_sameWork _ _ _ _
  · exact reject_sameWork _ _ _ _
  · exact reject_sameWork _ _ _ _
  · exact setRx_sameWork _ _ _

theorem gapRunOut_sameWork (p : Port) : s.SameWork (s.gapRunOut p) := by
  unfold State.gapRunOut
  split
  · exact reject_sameWork _ _ _ _
  · exact .refl _

theorem resyncRunOut_sameWork (p : Port) : s.SameWork (s.resyncRunOut p) := by
  unfold State.resyncRunOut
  split
  · exact setRx_sameWork _ _ _
  · exact .refl _

theorem breakEnds_sameWork (p : Port) : s.SameWork (s.breakEnds p) := by
  unfold State.breakEnds
  split
  · exact .refl _
  split <;> exact .modPort fun _ => .of_slots rfl rfl

theorem sent_sameWork (c : PortCtl) : c.SameWork c.sent := by
  have overflow : ∀ c : PortCtl, c.admitOverflow.slots = c.slots := fun c => by
    unfold PortCtl.admitOverflow
    split <;> rfl
  exact .of_slots (told_admitOverflow _).inFlight (overflow _)

theorem takeDue_sameWork : s.SameWork s.takeDue := by
  have gaps : s.SameWork (([0, 1, 2, 3] : List Port).foldl State.takeGapDue s) :=
    .foldl (f := State.takeGapDue) (fun _ p => (gapRunOut_sameWork p).trans (resyncRunOut_sameWork p)) _ s
  have leases : ∀ (v : State) (l : List (PageNo × Port)), v.SameWork (l.foldl (fun s x => State.leaseRunOut s x.1 x.2) v) :=
    fun v l => .foldl (fun _ x => leaseRunOut_sameWork x.1 x.2) l v
  have waits : ∀ (v : State) (l : List (PageNo × Port)), v.SameWork (l.foldl (fun s x => State.waitRunOut s x.1 x.2) v) :=
    fun v l => .foldl (fun _ x => waitRunOut_sameWork x.1 x.2) l v
  exact (gaps.trans (leases _ _)).trans (waits _ _)

theorem lowerTimers_sameWork : s.SameWork s.lowerTimers := by
  refine ⟨⟨⟨⟨rfl, rfl, rfl, rfl⟩, rfl⟩, rfl, fun p => ?_, fun _ => rfl⟩, rfl⟩
  have port : s.lowerTimers.port p = { s.port p with gap := (s.port p).gap.map (· - 1) } := by
    simp [State.lowerTimers, State.port]
  rw [port]
  exact .of_slots rfl rfl

theorem befall_sameWork : s.SameWork s.befall := by
  rw [befall_rest]
  exact .of_tables ⟨⟨rfl, rfl, rfl, rfl⟩, rfl⟩ rfl rfl rfl rfl

theorem befallBad_sameWork (op : StoreOp) : s.SameWork (s.befallBad op) := by
  rw [befallBad_rest]
  exact .of_tables ⟨⟨rfl, rfl, rfl, rfl⟩, rfl⟩ rfl rfl rfl rfl

theorem replyAccess_sameWork (p : Port) (t : Tag) (code : Byte) (st : Status) (pay : Payload) :
    s.SameWork (s.replyAccess p t code st pay) := by
  unfold State.replyAccess
  split
  · exact answer_sameWork _ _ _ _ _
  · exact .modPort fun c => freeSlot_sameWork c _

theorem answerSelect_sameWork (p : Port) : s.SameWork (s.answerSelect p) := by
  unfold State.answerSelect
  split
  · exact .refl _
  · exact answer_sameWork _ _ _ _ _

end Sys2Proof.Machine

/-! # The jobs and their one outstanding operation (R63, R64, R99, R107 to R114)

In RUNNING the Copy Engine is idle with an empty queue, or has an ACTIVE job with its one operation outstanding (`State.Settled`).
Between two operations it passes through states that are neither: the ACTIVE job with nothing outstanding, or QUEUED jobs alone.
One structure speaks of them all (`State.Working`): it names the ACTIVE job, if any, and the copy operations in the bank queues. -/
namespace Sys2Proof.Machine

variable {s u v : State} {j : Job}

/-! ## A job by itself -/

/-- A job's record agrees with its request; whether bytes are left to move is not said (R100 to R104). -/
structure Job.Formed (j : Job) : Prop where
  length : 1 ≤ j.length ∧ j.length ≤ 65536
  queued : j.state = .queued → j.bytesDone = 0 ∧ j.cancel = false
  destination : j.dstStart < 4096 ∧ j.dstPages.length = (j.dstStart + j.length - 1) / 4096 + 1
  source : ∀ set pages start, j.kind = .copy set pages start →
    start < 4096 ∧ pages.length = (start + j.length - 1) / 4096 + 1
  words : ∀ pattern, j.kind = .fill pattern → j.dstStart % 4 = 0 ∧ j.length % 4 = 0

theorem job_sound_iff : j.Sound ↔ j.Formed ∧ j.bytesDone < j.length := by
  constructor
  · rintro ⟨length, bytesLeft, queued, destination, source, words⟩
    exact ⟨⟨length, queued, destination, source, words⟩, bytesLeft⟩
  · rintro ⟨⟨length, queued, destination, source, words⟩, bytesLeft⟩
    exact ⟨length, bytesLeft, queued, destination, source, words⟩

theorem Job.Formed.bytesLeft (h : j.Formed) (queued : j.state = .queued) : j.bytesDone < j.length := by
  obtain ⟨none, -⟩ := h.queued queued
  have := h.length
  omega

/-- A change of an ACTIVE job's progress or cancel mark. -/
theorem Job.Formed.progress (h : j.Formed) (bytes : Nat) (cancel : Bool) :
    ({ j with bytesDone := bytes, state := .active, cancel := cancel } : Job).Formed :=
  ⟨h.length, nofun, h.destination, h.source, h.words⟩

theorem placeAt_offset (start pos : Nat) : (placeAt start pos).2 < 4096 := Nat.mod_lt _ (by decide)

/-- The segment at bytes done ends in its destination page. -/
theorem segmentLength_dst (j : Job) : (placeAt j.dstStart j.bytesDone).2 + j.segmentLength ≤ 4096 := by
  have := placeAt_offset j.dstStart j.bytesDone
  have : j.segmentLength ≤ 4096 - (placeAt j.dstStart j.bytesDone).2 := (Nat.min_le_right _ _).trans (Nat.min_le_right _ _)
  omega

theorem dstAt_offset {at_ : PageNo × Nat} (h : j.dstAt = some at_) : at_.2 = (placeAt j.dstStart j.bytesDone).2 := by
  obtain ⟨q, -, rfl⟩ := Option.map_eq_some_iff.mp h
  rfl

theorem dstAt_fits {at_ : PageNo × Nat} (h : j.dstAt = some at_) : at_.2 + j.segmentLength ≤ 4096 := by
  rw [dstAt_offset h]
  exact segmentLength_dst j

/-- The segment at bytes done ends in its source page. -/
theorem srcAt_fits {at_ : PageNo × Nat} (h : j.srcAt = some at_) : at_.2 + j.segmentLength ≤ 4096 := by
  unfold Job.srcAt at h
  split at h
  · next set pages start kind =>
    obtain ⟨q, -, rfl⟩ := Option.map_eq_some_iff.mp h
    have := placeAt_offset start j.bytesDone
    have : j.segmentLength ≤ 4096 - (placeAt start j.bytesDone).2 := by
      refine (Nat.min_le_right _ _).trans ((Nat.min_le_left _ _).trans ?_)
      rw [kind]
    dsimp only
    omega
  · cases h

/-- While bytes are left the next segment has its destination page (R104, R108). -/
theorem Job.Formed.dstAt (h : j.Formed) (bytesLeft : j.bytesDone < j.length) : ∃ at_, j.dstAt = some at_ := by
  have inside : (placeAt j.dstStart j.bytesDone).1 < j.dstPages.length := by
    rw [h.destination.2]
    exact Nat.lt_succ_of_le (Nat.div_le_div_right (by omega))
  exact ⟨_, by rw [Job.dstAt, List.getElem?_eq_getElem inside]; rfl⟩

@[simp] theorem length_patternBytes (pattern : Word) (n : Nat) : (patternBytes pattern n).length = n := by simp [patternBytes]

/-- What a decision point places is the one outstanding operation of its job, inside one page (R108 to R111). -/
theorem decide_place {kind : StoreKind} {at_ : PageNo × Nat} (h : s.decide j = .place kind at_) :
    j.bytesDone < j.length ∧ at_.2 + kind.size ≤ 4096 ∧
      j.HasOutstanding { origin := .copy j.id, kind := kind, page := at_.1, offset := at_.2 } := by
  unfold State.decide at h
  split at h
  · cases h
  next bytesLeft =>
  split at h
  · cases h
  split at h
  · cases h
  next dst destination =>
  split at h
  · cases h
  split at h
  · next pattern _ _ =>
    cases h
    refine ⟨by omega, ?_, rfl, .inr ⟨_, rfl, length_patternBytes _ _, destination⟩⟩
    rw [StoreKind.size, length_patternBytes]
    exact dstAt_fits destination
  · cases h
  · next src _ source =>
    split at h
    · cases h
    · cases h
      exact ⟨by omega, srcAt_fits source, rfl, .inl ⟨rfl, source⟩⟩

/-! ## The copy queue -/

/-- The jobs of a queue are as their requests made them, no two bear one id, and the ACTIVE one is the one named. -/
structure JobsAgree (l : List Job) (active : Option Job) : Prop where
  formed : ∀ j ∈ l, j.Formed
  idsOnce : (l.map (·.id)).Nodup
  active : ∀ j, j ∈ l ∧ j.state = .active ↔ active = some j

theorem job_queued_iff : j.state = .queued ↔ j.state ≠ .active := by cases j.state <;> simp

theorem JobsAgree.queued {l : List Job} (h : JobsAgree l none) {j : Job} (mem : j ∈ l) : j.state = .queued :=
  job_queued_iff.mpr fun active => nomatch (h.active j).mp ⟨mem, active⟩

theorem JobsAgree.filter {l : List Job} {active : Option Job} (h : JobsAgree l active) (keep : Job → Bool) :
    JobsAgree (l.filter keep) (active.filter keep) where
  formed j mem := h.formed j (List.mem_filter.mp mem).1
  idsOnce := h.idsOnce.sublist (List.filter_sublist.map _)
  active j := by
    rw [Option.filter_eq_some_iff, List.mem_filter, ← h.active]
    tauto

theorem JobsAgree.map {l : List Job} {active : Option Job} (h : JobsAgree l active) {f : Job → Job}
    (same : ∀ j, (f j).id = j.id ∧ (f j).state = j.state) (formed : ∀ j ∈ l, (f j).Formed) :
    JobsAgree (l.map f) (active.map f) where
  formed := List.forall_mem_map.mpr formed
  idsOnce := by
    have ids : (l.map f).map (·.id) = l.map (·.id) := by
      rw [List.map_map]
      exact List.map_congr_left fun j _ => (same j).1
    rw [ids]
    exact h.idsOnce
  active j := by
    rw [Option.map_eq_some_iff, List.mem_map]
    constructor
    · rintro ⟨⟨x, mem, rfl⟩, active⟩
      exact ⟨x, (h.active x).mp ⟨mem, (same x).2 ▸ active⟩, rfl⟩
    · rintro ⟨x, named, rfl⟩
      obtain ⟨mem, active⟩ := (h.active x).mpr named
      exact ⟨⟨x, mem, rfl⟩, (same x).2.trans active⟩

/-- The ACTIVE job leaves the queue (R114). -/
theorem JobsAgree.removeActive {l : List Job} (h : JobsAgree l (some j)) : JobsAgree (l.filter (·.id ≠ j.id)) none := by
  have left := h.filter (·.id ≠ j.id)
  rwa [Option.filter_some, if_neg (by simp)] at left

/-- A QUEUED job leaves the queue (R116). -/
theorem JobsAgree.removeQueued {l : List Job} {active : Option Job} (h : JobsAgree l active) (mem : j ∈ l)
    (queued : j.state = .queued) : JobsAgree (l.filter (·.id ≠ j.id)) active := by
  have left := h.filter (·.id ≠ j.id)
  cases active with
  | none => exact left
  | some x =>
    obtain ⟨mem', active⟩ := (h.active x).mpr rfl
    have other : x.id ≠ j.id := fun same => by
      rw [eq_of_id h.idsOnce mem' mem same, queued] at active
      cases active
    rwa [Option.filter_some, if_pos (by simpa using other)] at left

/-- A change of the ACTIVE job alone. -/
theorem JobsAgree.changeActive {l : List Job} (h : JobsAgree l (some j)) {f : Job → Job}
    (same : ∀ x, (f x).id = x.id ∧ (f x).state = x.state) (formed : (f j).Formed) :
    JobsAgree (l.map fun x => if x.id = j.id then f x else x) (some (f j)) := by
  obtain ⟨mem, -⟩ := (h.active j).mpr rfl
  have changed := h.map (f := fun x => if x.id = j.id then f x else x) (fun x => ?_) fun x mem' => ?_
  · rwa [Option.map_some, if_pos rfl] at changed
  · split
    · exact same x
    · exact ⟨rfl, rfl⟩
  · split
    · next id => rw [eq_of_id h.idsOnce mem' mem id]; exact formed
    · exact h.formed x mem'

/-- The choice makes a QUEUED job ACTIVE (R107). -/
theorem JobsAgree.activate {l : List Job} (h : JobsAgree l none) (mem : j ∈ l) :
    JobsAgree (l.map fun x => if x.id = j.id then { x with state := .active } else x) (some { j with state := .active }) where
  formed := List.forall_mem_map.mpr fun x mem' => by
    split
    · exact (h.formed x mem').progress _ _
    · exact h.formed x mem'
  idsOnce := by
    rw [List.map_map, List.map_congr_left (g := fun x => x.id)]
    · exact h.idsOnce
    · intro x _
      simp only [Function.comp]
      split <;> rfl
  active y := by
    rw [List.mem_map]
    constructor
    · rintro ⟨⟨x, mem', rfl⟩, active⟩
      split at active
      · next id => rw [if_pos id, eq_of_id h.idsOnce mem' mem id]
      · rw [h.queued mem'] at active
        cases active
    · rintro ⟨⟩
      exact ⟨⟨j, mem, if_pos rfl⟩, rfl⟩

/-- An accepted job joins the tail of the queue (R106). -/
theorem JobsAgree.append {l : List Job} {active : Option Job} (h : JobsAgree l active) (formed : j.Formed)
    (queued : j.state = .queued) (fresh : ∀ x ∈ l, x.id ≠ j.id) : JobsAgree (l ++ [j]) active where
  formed x mem := by
    rcases List.mem_append.mp mem with mem | mem
    · exact h.formed x mem
    · rw [List.mem_singleton.mp mem]; exact formed
  idsOnce := by
    rw [List.map_append, List.map_singleton]
    exact List.nodup_append.mpr ⟨h.idsOnce, List.nodup_singleton _, by simpa using fresh⟩
  active x := by
    rw [← h.active, List.mem_append, List.mem_singleton]
    constructor
    · rintro ⟨mem | rfl, active⟩
      · exact ⟨mem, active⟩
      · rw [queued] at active; cases active
    · exact fun ⟨mem, active⟩ => ⟨.inl mem, active⟩

/-! ## The bank queues -/

/-- In-flight records, both in-flight counts and the bank queues agree (R40, R54, R63, R138). -/
structure State.StoresAgree (s : State) : Prop where
  inPage : ∀ b, ∀ op ∈ s.queue b, bankOf op.page = b ∧ op.offset + op.kind.size ≤ 4096
  counts : ∀ p, (s.port p).inFlight = (s.accesses.filter (·.port == p)).length ∧
    (s.map p).inFlight = (s.accesses.filter (·.port == p)).length
  recordsOnce : (s.accesses.map fun r => (r.port, r.tag)).Nodup
  accessOps : ∀ b,
    (s.queue b).filter (fun op => !op.isCopy) = (s.accesses.filter fun r => bankOf r.page == b).map AccessRec.op

theorem queue_of_queues (queues : u.queues = s.queues) : u.queue = s.queue := by funext b; simp only [State.queue, queues]

theorem State.StoresAgree.of_parts (h : s.StoresAgree) (queues : u.queues = s.queues) (accesses : u.accesses = s.accesses)
    (port : ∀ p, (u.port p).inFlight = (s.port p).inFlight) (map : ∀ p, (u.map p).inFlight = (s.map p).inFlight) :
    u.StoresAgree := by
  refine ⟨?_, fun p => ?_, ?_, ?_⟩
  · rw [queue_of_queues queues]; exact h.inPage
  · rw [port, map, accesses]; exact h.counts p
  · rw [accesses]; exact h.recordsOnce
  · rw [queue_of_queues queues, accesses]; exact h.accessOps

/-- A bank queue changes by copy operations alone. -/
theorem State.StoresAgree.modQueue (h : s.StoresAgree) (b : BankNo) {f : List StoreOp → List StoreOp}
    (inPage : ∀ op ∈ f (s.queue b), bankOf op.page = b ∧ op.offset + op.kind.size ≤ 4096)
    (accessOps : (f (s.queue b)).filter (fun op => !op.isCopy) = (s.queue b).filter fun op => !op.isCopy) :
    (s.modQueue b f).StoresAgree := by
  refine ⟨fun x op mem => ?_, h.counts, h.recordsOnce, fun x => ?_⟩
  · rw [State.queue_modQueue] at mem
    split at mem
    · next same => rw [same]; exact inPage op mem
    · exact h.inPage x op mem
  · rw [State.queue_modQueue]
    split
    · next same => rw [same, accessOps]; exact h.accessOps b
    · exact h.accessOps x

theorem copyOps_of_queues (queues : u.queues = s.queues) : u.copyOps = s.copyOps := by
  simp only [State.copyOps, State.queue, queues]

/-- The copy operations, bank by bank. -/
theorem copyOps_eq : s.copyOps = ([0, 1, 2, 3] : List BankNo).flatMap fun b => (s.queue b).filter StoreOp.isCopy := by
  simp [State.copyOps]

/-- An access that comes or goes changes no copy operation. -/
theorem copyOps_modQueue (b : BankNo) {f : List StoreOp → List StoreOp}
    (same : (f (s.queue b)).filter StoreOp.isCopy = (s.queue b).filter StoreOp.isCopy) : (s.modQueue b f).copyOps = s.copyOps := by
  rw [copyOps_eq, copyOps_eq]
  congr 1
  funext x
  rw [State.queue_modQueue]
  split
  · next here => rw [here, same]
  · rfl

theorem copyOps_nil (none : s.copyOps = []) (b : BankNo) : (s.queue b).filter StoreOp.isCopy = [] :=
  List.filter_eq_nil_iff.mpr fun op mem copy => by simpa [none] using mem_copyOps mem copy

/-- A copy operation placed while none is outstanding is the one that is. -/
theorem copyOps_place (none : s.copyOps = []) (b : BankNo) {op : StoreOp} (copy : op.isCopy = true) :
    (s.modQueue b (· ++ [op])).copyOps = [op] := by
  have silent := copyOps_nil none
  rw [copyOps_eq]
  match b with
  | 0 | 1 | 2 | 3 => simp [State.queue_modQueue, List.filter_append, silent, copy]

/-- The copy operation at the head of a bank queue is the one outstanding, and none is left when it goes. -/
theorem copyOps_pop {op out : StoreOp} (one : s.copyOps = [out]) {b : BankNo} {rest : List StoreOp} (head : s.queue b = op :: rest)
    (copy : op.isCopy = true) : op = out ∧ (s.modQueue b List.tail).copyOps = [] := by
  have found : op ∈ s.copyOps := mem_copyOps (b := b) (by rw [head]; exact List.mem_cons_self) copy
  have fewer : s.copyOps.length = (s.modQueue b List.tail).copyOps.length + 1 := by
    rw [copyOps_eq, copyOps_eq]
    match b with
    | 0 | 1 | 2 | 3 => simp [State.queue_modQueue, head, copy] <;> omega
  rw [one] at found fewer
  exact ⟨List.mem_singleton.mp found, List.eq_nil_of_length_eq_zero (by simpa using fewer)⟩

/-! ## The Copy Engine between two operations -/

/-- A state of RUNNING in which all but the Copy Engine's progress agrees: with the ACTIVE job, if any, and the copy operations
in the bank queues. -/
structure State.Working (s : State) (active : Option Job) (ops : List StoreOp) : Prop where
  running : s.phase = .running
  stores : s.StoresAgree
  jobs : JobsAgree s.jobs active
  copyOps : s.copyOps = ops

/-- In RUNNING the copy queue is empty, or its ACTIVE job has bytes left and one operation outstanding (R64, R107, R111). -/
inductive State.Settled (s : State) : Prop
  | idle (work : s.Working none []) (empty : s.jobs = [])
  | busy (j : Job) (op : StoreOp) (work : s.Working (some j) [op]) (bytesLeft : j.bytesDone < j.length)
      (outstanding : j.HasOutstanding op)

theorem State.Working.of_parts {active : Option Job} {ops : List StoreOp} (h : s.Working active ops) (phase : u.phase = s.phase)
    (queues : u.queues = s.queues) (accesses : u.accesses = s.accesses) (jobs : u.jobs = s.jobs)
    (port : ∀ p, (u.port p).inFlight = (s.port p).inFlight) (map : ∀ p, (u.map p).inFlight = (s.map p).inFlight) :
    u.Working active ops :=
  ⟨phase.trans h.running, h.stores.of_parts queues accesses port map, jobs ▸ h.jobs, (copyOps_of_queues queues).trans h.copyOps⟩

theorem State.Working.of_same {active : Option Job} {ops : List StoreOp} (h : s.Working active ops) (same : s.SameWork u) :
    u.Working active ops :=
  h.of_parts same.phase same.queues same.accesses same.jobs (fun p => (same.port p).inFlight) same.map

/-- A change that leaves the copy queue alone leaves the Copy Engine settled. -/
theorem State.Settled.of_working (h : s.Settled) (jobs : u.jobs = s.jobs)
    (work : ∀ active ops, s.Working active ops → u.Working active ops) : u.Settled := by
  cases h with
  | idle before empty => exact .idle (work _ _ before) (jobs.trans empty)
  | busy j op before bytesLeft outstanding => exact .busy j op (work _ _ before) bytesLeft outstanding

theorem State.Settled.of_same (h : s.Settled) (same : s.SameWork u) : u.Settled :=
  h.of_working same.jobs fun _ _ work => work.of_same same

theorem State.Settled.running (h : s.Settled) : s.phase = .running := by
  cases h with
  | idle work => exact work.running
  | busy j op work => exact work.running

theorem State.Settled.stores (h : s.Settled) : s.StoresAgree := by
  cases h with
  | idle work => exact work.stores
  | busy j op work => exact work.stores

/-- The ACTIVE job is the one the Copy Engine finds. -/
theorem State.Working.activeJob {active : Option Job} {ops : List StoreOp} (h : s.Working active ops) : s.activeJob = active := by
  cases found : s.activeJob with
  | some j => exact ((h.jobs.active j).mp ⟨activeJob_mem found, by simpa using List.find?_some found⟩).symm
  | none =>
    cases active with
    | none => rfl
    | some j =>
      obtain ⟨mem, active⟩ := (h.jobs.active j).mpr rfl
      simpa [active] using List.find?_eq_none.mp found j mem

theorem State.Working.placeCopyOp {active : Option Job} (h : s.Working active []) {id : Byte} {kind : StoreKind}
    {at_ : PageNo × Nat} (fits : at_.2 + kind.size ≤ 4096) :
    (s.placeCopyOp id kind at_).Working active [{ origin := .copy id, kind := kind, page := at_.1, offset := at_.2 }] := by
  refine ⟨h.running, h.stores.modQueue _ (fun op mem => ?_) ?_, h.jobs, copyOps_place h.copyOps _ rfl⟩
  · rcases List.mem_append.mp mem with mem | mem
    · exact h.stores.inPage _ op mem
    · rw [List.mem_singleton.mp mem]; exact ⟨rfl, fits⟩
  · rw [List.filter_append, List.filter_cons_of_neg (by simp [StoreOp.isCopy]), List.filter_nil, List.append_nil]

/-- The outstanding operation leaves its queue as it completes. -/
theorem State.Working.popCopy {active : Option Job} {op out : StoreOp} (h : s.Working active [out]) {b : BankNo}
    {rest : List StoreOp} (head : s.queue b = op :: rest) (copy : op.isCopy = true) :
    op = out ∧ (s.modQueue b List.tail).Working active [] := by
  obtain ⟨same, none⟩ := copyOps_pop h.copyOps head copy
  refine ⟨same, h.running, h.stores.modQueue b (fun x mem => h.stores.inPage b x (List.mem_of_mem_tail mem)) ?_, h.jobs, none⟩
  rw [head, List.tail_cons, List.filter_cons_of_neg (by simp [copy])]

/-! ## The end of a job, the choice, and the decision points (R107, R111 to R114) -/

theorem unpinJob_sameWork (j : Job) : s.SameWork (s.unpinJob j) := .foldl (fun _ q => unpinClaim_sameWork q) _ _

theorem finishJob_sameWork (j : Job) (outcome : JobOutcome) : (s.removeJob j.id).SameWork (s.finishJob j outcome) :=
  (unpinJob_sameWork j).trans (reportJobEnd_sameWork j outcome)

theorem State.Working.removeActive {ops : List StoreOp} (h : s.Working (some j) ops) : (s.removeJob j.id).Working none ops :=
  ⟨h.running, h.stores.of_parts rfl rfl (fun _ => rfl) fun _ => rfl, h.jobs.removeActive, h.copyOps⟩

theorem State.Working.finishJob {ops : List StoreOp} (h : s.Working (some j) ops) (outcome : JobOutcome) :
    (s.finishJob j outcome).Working none ops := h.removeActive.of_same (finishJob_sameWork j outcome)

theorem State.Working.activate {ops : List StoreOp} (h : s.Working none ops) (mem : j ∈ s.jobs) :
    (s.activate j).Working (some { j with state := .active }) ops :=
  ⟨h.running, h.stores.of_parts rfl rfl (fun _ => rfl) fun _ => rfl, h.jobs.activate mem, h.copyOps⟩

/-- With no job to choose the queue holds no QUEUED job (R107). -/
theorem nextJob_none (h : s.nextJob = none) (mem : j ∈ s.jobs) : j.state ≠ .queued := by
  intro queued
  have port : j.port ∈ portsAfter s.lastServed := by
    generalize s.lastServed = p
    generalize j.port = x
    revert p x
    decide
  have silent := List.findSome?_eq_none_iff.mp h _ port
  simpa [queued] using List.find?_eq_none.mp silent j mem

theorem State.Working.place {kind : StoreKind} {at_ : PageNo × Nat} (h : s.Working (some j) [])
    (decided : v.decide j = .place kind at_) : (s.placeCopyOp j.id kind at_).Settled := by
  obtain ⟨bytesLeft, fits, outstanding⟩ := decide_place decided
  exact .busy j _ (h.placeCopyOp fits) bytesLeft outstanding

/-- The choice settles the Copy Engine: each round that places no operation ends a job (R107). -/
theorem runChoice_settled (n : Nat) (h : s.Working none []) (enough : s.jobs.length ≤ n) : (State.runChoice n s).Settled := by
  induction n generalizing s with
  | zero => exact .idle h (List.eq_nil_of_length_eq_zero (Nat.le_zero.mp enough))
  | succ n ih =>
    rw [State.runChoice, h.activeJob]
    dsimp only
    split
    · next none =>
      exact .idle h (List.eq_nil_iff_forall_not_mem.mpr fun j mem => nextJob_none none mem (h.jobs.queued mem))
    · next j next =>
      have mem := nextJob_mem next
      have activated := h.activate mem
      split
      · next decided => exact activated.place decided
      · next outcome _ =>
        refine ih (activated.finishJob outcome) ?_
        rw [(finishJob_sameWork _ outcome).jobs]
        have shorter : ((s.activate j).removeJob j.id).jobs.length < (s.activate j).jobs.length :=
          List.length_filter_lt_length_iff_exists.mpr ⟨_, activate_mem mem, by simp⟩
        have same : (s.activate j).jobs.length = s.jobs.length := List.length_map _
        exact Nat.le_of_lt_succ (by rw [same] at shorter; exact Nat.lt_of_lt_of_le shorter enough)

theorem choose_settled (h : s.Working none []) : s.choose.Settled := runChoice_settled _ h (Nat.le_refl _)

/-- The choice leaves an ACTIVE job its turn. -/
theorem choose_of_active (active : s.activeJob = some j) : s.choose = s := by
  rw [State.choose]
  cases s.jobs.length with
  | zero => rfl
  | succ n => rw [State.runChoice, active]

/-- A choice that is not due changes nothing that the invariant sees. -/
theorem State.Settled.choose (h : s.Settled) : s.choose.Settled := by
  cases h with
  | idle work => exact choose_settled work
  | busy j op work bytesLeft outstanding =>
    rw [choose_of_active work.activeJob]
    exact .busy j op work bytesLeft outstanding

theorem decisionPoint_settled (h : s.Working (some j) []) : (s.decisionPoint j).Settled := by
  unfold State.decisionPoint
  split
  · next decided => exact h.place decided
  · exact choose_settled (h.finishJob _)

end Sys2Proof.Machine

/-! # Requests that make or end work (R48 to R54, R101 to R107, R116) -/
namespace Sys2Proof.Machine

variable {s u v : State} {p : Port} {t : Tag}

/-! ## What the Copy Engine leaves of the records and the device -/

theorem finishJob_sameRecords (j : Job) (outcome : JobOutcome) : s.SameRecords (s.finishJob j outcome) :=
  State.SameRecords.trans (u := s.removeJob j.id) ⟨⟨rfl, rfl, rfl, rfl⟩, rfl⟩ (finishJob_sameWork j outcome).records

theorem runChoice_sameRecords (n : Nat) : s.SameRecords (State.runChoice n s) := by
  induction n generalizing s with
  | zero => exact .refl s
  | succ n ih =>
    rw [State.runChoice]
    split
    · exact .refl s
    split
    · exact .refl s
    next j _ =>
    have activated : s.SameRecords (s.activate j) := ⟨⟨rfl, rfl, rfl, rfl⟩, rfl⟩
    split
    · exact activated.trans ⟨⟨rfl, rfl, rfl, rfl⟩, rfl⟩
    · exact (activated.trans (finishJob_sameRecords _ _)).trans ih

theorem choose_sameRecords : s.SameRecords s.choose := runChoice_sameRecords _

theorem decisionPoint_sameRecords (j : Job) : s.SameRecords (s.decisionPoint j) := by
  unfold State.decisionPoint
  split
  · exact ⟨⟨rfl, rfl, rfl, rfl⟩, rfl⟩
  · exact (finishJob_sameRecords _ _).trans choose_sameRecords

/-! ## COPY and FILL (R101 to R106) -/

/-- The state with an accepted job at the tail of the queue. -/
def State.joined (s : State) (j : Job) : State := { s with jobs := s.jobs ++ [j], nextJobId := j.id + 1 }

/-- What follows the joining of an accepted job: its pins and its reply. -/
def State.pinAndReply (s : State) (p : Port) (t : Tag) (code : Byte) (j : Job) : State :=
  (j.pages.foldl State.pinUp s).answer p t code .ok (.jobId j.id)

theorem pinAndReply_sameWork (code : Byte) (j : Job) : s.SameWork (s.pinAndReply p t code j) :=
  (State.SameWork.foldl (fun _ q => .modPage q _) j.pages s).trans (answer_sameWork _ _ _ _ _)

theorem acceptJob_eq (code : Byte) (kind : JobKind) (dstSet : MapSet) (dstPages : List PageNo) (dstStart length : Nat) :
    s.acceptJob p t code kind dstSet dstPages dstStart length =
      ((s.joined (newJob (s.freeId Config.jobPlaces s.nextJobId) p kind dstSet dstPages dstStart length)).pinAndReply p t code
        (newJob (s.freeId Config.jobPlaces s.nextJobId) p kind dstSet dstPages dstStart length)).choose := rfl

theorem acceptJob_sameRecords {code : Byte} {kind : JobKind} {dstSet : MapSet} {dstPages : List PageNo} {dstStart length : Nat} :
    s.SameRecords (s.acceptJob p t code kind dstSet dstPages dstStart length) := by
  rw [acceptJob_eq]
  generalize newJob _ p kind dstSet dstPages dstStart length = j
  have joined : s.SameRecords (s.joined j) := ⟨⟨rfl, rfl, rfl, rfl⟩, rfl⟩
  exact (joined.trans (pinAndReply_sameWork code j).records).trans choose_sameRecords

theorem State.Working.joined {active : Option Job} {ops : List StoreOp} (h : s.Working active ops) {j : Job} (formed : j.Formed)
    (queued : j.state = .queued) (fresh : ∀ x ∈ s.jobs, x.id ≠ j.id) : (s.joined j).Working active ops :=
  ⟨h.running, h.stores.of_parts rfl rfl (fun _ => rfl) fun _ => rfl, h.jobs.append formed queued fresh, h.copyOps⟩

/-- A job that joins the queue leaves the Copy Engine settled: an ACTIVE job goes on, and otherwise the choice takes it. -/
theorem acceptJob_settled {code : Byte} {kind : JobKind} {dstSet : MapSet} {dstPages : List PageNo} {dstStart length : Nat}
    (h : s.Settled) (room : s.jobsFull p = false)
    (formed : (newJob (s.freeId Config.jobPlaces s.nextJobId) p kind dstSet dstPages dstStart length).Formed) :
    (s.acceptJob p t code kind dstSet dstPages dstStart length).Settled := by
  simp only [State.jobsFull, Bool.or_eq_false_iff, decide_eq_false_iff_not, Nat.not_le] at room
  have fresh : ∀ x ∈ s.jobs, x.id ≠ (newJob (s.freeId Config.jobPlaces s.nextJobId) p kind dstSet dstPages dstStart length).id := by
    simpa [State.idInUse, newJob] using freeId_fresh room.1 s.nextJobId
  have queued : (newJob (s.freeId Config.jobPlaces s.nextJobId) p kind dstSet dstPages dstStart length).state = .queued := rfl
  rw [acceptJob_eq]
  generalize newJob (s.freeId Config.jobPlaces s.nextJobId) p kind dstSet dstPages dstStart length = new at formed queued fresh ⊢
  cases h with
  | idle work => exact choose_settled ((work.joined formed queued fresh).of_same (pinAndReply_sameWork _ _))
  | busy j op work bytesLeft outstanding =>
    have work' := (work.joined formed queued fresh).of_same (pinAndReply_sameWork (p := p) (t := t) code new)
    exact State.Settled.choose (.busy j op work' bytesLeft outstanding)

theorem length_of_mapM {α β : Type} {f : α → Option β} {l : List α} {ys : List β} (h : l.mapM f = some ys) :
    ys.length = l.length := by
  induction l generalizing ys with
  | nil => cases h; rfl
  | cons x l ih =>
    rw [List.mapM_cons] at h
    obtain ⟨y, -, h⟩ := Option.bind_eq_some_iff.mp h
    obtain ⟨tail, resolved, h⟩ := Option.bind_eq_some_iff.mp h
    cases h
    rw [List.length_cons, List.length_cons, ih resolved]

/-- A range that resolves has one entry for each frame it touches (R104). -/
theorem resolveRange_length {set : MapSet} {frame offset length : Nat} {es : List Entry}
    (h : s.resolveRange p set frame offset length = some es) : es.length = (offset + length - 1) / 4096 + 1 := by
  rw [length_of_mapM h, List.length_map, List.length_range]
  rfl

theorem copy_sameRecords (ss : SetCode) (sf : Byte) (so : Half) (ds : SetCode) (df : Byte) (dOff : Half) (n : Word) :
    s.SameRecords (s.copy p t ss sf so ds df dOff n) := by
  simp only [State.copy]
  split
  · exact (answer_sameWork _ _ _ _ _).records
  split
  · split
    · exact (answer_sameWork _ _ _ _ _).records
    split
    · exact (answer_sameWork _ _ _ _ _).records
    split
    · exact (answer_sameWork _ _ _ _ _).records
    · exact acceptJob_sameRecords
  all_goals exact (answer_sameWork _ _ _ _ _).records

theorem fill_sameRecords (ds : SetCode) (df : Byte) (dOff : Half) (n pattern : Word) :
    s.SameRecords (s.fill p t ds df dOff n pattern) := by
  simp only [State.fill]
  split
  · exact (answer_sameWork _ _ _ _ _).records
  split
  · exact (answer_sameWork _ _ _ _ _).records
  split
  · exact (answer_sameWork _ _ _ _ _).records
  split
  · exact (answer_sameWork _ _ _ _ _).records
  · exact acceptJob_sameRecords

/-- A range that passes the bounds check (R102 check 1). -/
theorem range_inBounds {frame : Byte} {offset : Half} {length : Word} (h : rangeOutOfBounds frame offset length = false) :
    offset.toNat < 4096 ∧ 1 ≤ length.toNat ∧ length.toNat ≤ 65536 := by
  simp only [rangeOutOfBounds, Bool.or_eq_false_iff, decide_eq_false_iff_not, beq_eq_false_iff_ne, ne_eq, Nat.not_le, Nat.not_lt,
    BitVec.toNat_eq] at h
  obtain ⟨⟨⟨⟨-, offset⟩, some⟩, most⟩, -⟩ := h
  exact ⟨offset, by simpa [Nat.one_le_iff_ne_zero] using some, most⟩

theorem copy_settled (h : s.Settled) (ss : SetCode) (sf : Byte) (so : Half) (ds : SetCode) (df : Byte) (dOff : Half) (n : Word) :
    (s.copy p t ss sf so ds df dOff n).Settled := by
  simp only [State.copy]
  split
  · exact h.of_same (answer_sameWork _ _ _ _ _)
  next inBounds =>
  rw [not_or, Bool.not_eq_true, Bool.not_eq_true] at inBounds
  split
  · next src dst source destination =>
    split
    · exact h.of_same (answer_sameWork _ _ _ _ _)
    split
    · exact h.of_same (answer_sameWork _ _ _ _ _)
    split
    · exact h.of_same (answer_sameWork _ _ _ _ _)
    · next room =>
      obtain ⟨srcOffset, length⟩ := range_inBounds inBounds.1
      obtain ⟨dstOffset, -⟩ := range_inBounds inBounds.2
      refine acceptJob_settled h (by simpa using room) ⟨length, fun _ => ⟨rfl, rfl⟩, ⟨dstOffset, ?_⟩, ?_, nofun⟩
      · exact (List.length_map _).trans (resolveRange_length destination)
      · rintro _ _ _ ⟨⟩
        exact ⟨srcOffset, (List.length_map _).trans (resolveRange_length source)⟩
  all_goals exact h.of_same (answer_sameWork _ _ _ _ _)

theorem fill_settled (h : s.Settled) (ds : SetCode) (df : Byte) (dOff : Half) (n pattern : Word) :
    (s.fill p t ds df dOff n pattern).Settled := by
  simp only [State.fill]
  split
  · exact h.of_same (answer_sameWork _ _ _ _ _)
  next inBounds =>
  simp only [not_or, Bool.not_eq_true, not_not] at inBounds
  obtain ⟨inBounds, words⟩ := inBounds
  split
  · exact h.of_same (answer_sameWork _ _ _ _ _)
  next dst destination =>
  split
  · exact h.of_same (answer_sameWork _ _ _ _ _)
  split
  · exact h.of_same (answer_sameWork _ _ _ _ _)
  · next room =>
    obtain ⟨dstOffset, length⟩ := range_inBounds inBounds
    refine acceptJob_settled h (by simpa using room) ⟨length, fun _ => ⟨rfl, rfl⟩, ⟨dstOffset, ?_⟩, nofun, fun _ _ => words⟩
    exact (List.length_map _).trans (resolveRange_length destination)

/-! ## CANCEL (R116) -/

theorem cancel_sameRecords (id : Byte) : s.SameRecords (s.cancel p t id) := by
  unfold State.cancel
  split
  · exact (answer_sameWork _ _ _ _ _).records
  next j _ =>
  split
  · refine (answer_sameWork p t 0x52 .ok .none).records.trans (State.SameRecords.trans ?_ (offer_sameWork _ _).records)
    exact State.SameRecords.trans (u := (s.answer p t 0x52 .ok).removeJob id) ⟨⟨rfl, rfl, rfl, rfl⟩, rfl⟩
      (unpinJob_sameWork j).records
  · exact State.SameRecords.trans (u := s.modJob id _) ⟨⟨rfl, rfl, rfl, rfl⟩, rfl⟩ (answer_sameWork _ _ _ _ _).records

/-- The ACTIVE job is marked for cancellation and goes on to its next decision point. -/
theorem State.Settled.mark (h : s.Settled) {j : Job} (active : s.activeJob = some j) :
    (s.modJob j.id fun x => { x with cancel := true }).Settled := by
  cases h with
  | idle work => rw [work.activeJob] at active; cases active
  | busy j' op work bytesLeft outstanding =>
    rw [work.activeJob] at active
    cases active
    obtain ⟨mem, state⟩ := (work.jobs.active j).mpr rfl
    have formed := (work.jobs.formed j mem).progress j.bytesDone true
    rw [← state] at formed
    exact .busy { j with cancel := true } op
      ⟨work.running, work.stores.of_parts rfl rfl (fun _ => rfl) fun _ => rfl,
        work.jobs.changeActive (f := fun x => { x with cancel := true }) (fun _ => ⟨rfl, rfl⟩) formed, work.copyOps⟩
      bytesLeft outstanding

theorem State.Settled.removeQueued (h : s.Settled) {j : Job} (mem : j ∈ s.jobs) (queued : j.state = .queued) :
    (s.removeJob j.id).Settled := by
  cases h with
  | idle work empty => rw [empty] at mem; cases mem
  | busy j' op work bytesLeft outstanding =>
    exact .busy j' op ⟨work.running, work.stores.of_parts rfl rfl (fun _ => rfl) fun _ => rfl, work.jobs.removeQueued mem queued,
      work.copyOps⟩ bytesLeft outstanding

/-- A job found ACTIVE is the one that the Copy Engine finds. -/
theorem State.Settled.activeJob (h : s.Settled) {j : Job} (mem : j ∈ s.jobs) (active : j.state = .active) :
    s.activeJob = some j := by
  cases h with
  | idle work empty => rw [empty] at mem; cases mem
  | busy j' op work => rw [work.activeJob]; exact (work.jobs.active j).mp ⟨mem, active⟩

theorem cancel_settled (h : s.Settled) (id : Byte) : (s.cancel p t id).Settled := by
  unfold State.cancel
  split
  · exact h.of_same (answer_sameWork _ _ _ _ _)
  next j found =>
  obtain ⟨mem, rfl, -⟩ := jobOf_some found
  split
  · next queued =>
    have answered := h.of_same (answer_sameWork p t 0x52 .ok .none)
    exact ((answered.removeQueued (j := j) mem queued).of_same (unpinJob_sameWork j)).of_same (offer_sameWork _ _)
  · next active => exact (h.mark (h.activeJob mem active)).of_same (answer_sameWork _ _ _ _ _)

/-! ## Accesses (R48 to R54) -/

/-- An access that passes its checks lies in one page (R49). -/
theorem checkAccess_fits {frame : Byte} {offset : Half} {kind : StoreKind} {q : PageNo}
    (h : s.checkAccess p frame offset kind = .ok q) : offset.toNat + kind.size ≤ 4096 := by
  have inRange : outOfRange frame offset kind = false := by
    unfold State.checkAccess at h
    split at h
    · cases h
    · next inRange => simpa using inRange
  simp only [outOfRange, Bool.or_eq_false_iff, decide_eq_false_iff_not, Nat.not_le] at inRange
  obtain ⟨⟨-, start⟩, size⟩ := inRange
  cases kind with
  | read n => simp at size; exact size.2
  | write data => simp at size; exact size.2
  | readThenWrite op =>
    have aligned : offset.toNat % 4 = 0 := by simp at size; exact size.1
    have inPage : offset.toNat < 4096 := start
    simp only [StoreKind.size]
    omega

theorem access_sameDevice (frame : Byte) (offset : Half) (kind : StoreKind) : s.SameDevice (s.access p t frame offset kind) := by
  unfold State.access
  split
  · exact (answer_sameWork _ _ _ _ _).device
  · exact ⟨rfl, rfl, rfl, rfl⟩

/-- The only record that the taking of an access adds is its own (R53). -/
theorem access_accesses {frame : Byte} {offset : Half} {kind : StoreKind} {r : AccessRec}
    (mem : r ∈ (s.access p t frame offset kind).accesses) : r ∈ s.accesses ∨ r.port = p ∧ r.tag = t := by
  unfold State.access at mem
  split at mem
  · exact .inl mem
  · rcases List.mem_append.mp mem with mem | mem
    · exact .inl mem
    · rw [List.mem_singleton.mp mem]; exact .inr ⟨rfl, rfl⟩

/-- The placement of an access whose tag no record of its port bears (R53, R54, R147). -/
theorem placeAccess_stores (h : s.StoresAgree) (fresh : ∀ r ∈ s.accesses, r.port = p → r.tag ≠ t) {q : PageNo} {offset : Nat}
    {kind : StoreKind} (fits : offset + kind.size ≤ 4096) : (s.placeAccess p t q offset kind).StoresAgree := by
  let r : AccessRec := { port := p, tag := t, kind := kind, page := q, offset := offset }
  have accesses : (s.placeAccess p t q offset kind).accesses = s.accesses ++ [r] := rfl
  have queue : ∀ b, (s.placeAccess p t q offset kind).queue b = if b = bankOf q then s.queue b ++ [r.op] else s.queue b := fun b => by
    show (s.modQueue (bankOf q) (· ++ [r.op])).queue b = _
    rw [State.queue_modQueue]
    split
    · next here => rw [here]
    · rfl
  have port : ∀ x, ((s.placeAccess p t q offset kind).port x).inFlight = (s.port x).inFlight + if x = p then 1 else 0 := fun x => by
    show ((s.modPort p fun c => { c with inFlight := c.inFlight + 1 }).port x).inFlight = _
    rw [State.port_modPort]
    split
    · next here => rw [here]
    · rfl
  have map : ∀ x, ((s.placeAccess p t q offset kind).map x).inFlight = (s.map x).inFlight + if x = p then 1 else 0 := fun x => by
    show ((s.modMap p fun m => { m with inFlight := m.inFlight + 1 }).map x).inFlight = _
    rw [State.map_modMap]
    split
    · next here => rw [here]
    · rfl
  have count : ∀ x, ((s.accesses ++ [r]).filter (·.port == x)).length =
      (s.accesses.filter (·.port == x)).length + if x = p then 1 else 0 := fun x => by
    by_cases own : x = p
    · simp [List.filter_append, r, own]
    · simp [List.filter_append, r, own, Ne.symm own]
  refine ⟨fun b op mem => ?_, fun x => ?_, ?_, fun b => ?_⟩
  · rw [queue] at mem
    split at mem
    · next here =>
      rcases List.mem_append.mp mem with mem | mem
      · exact h.inPage b op mem
      · rw [List.mem_singleton.mp mem]; exact ⟨here.symm, fits⟩
    · exact h.inPage b op mem
  · obtain ⟨records, placed⟩ := h.counts x
    rw [port, map, accesses, count, records, placed]
    exact ⟨rfl, rfl⟩
  · rw [accesses, List.map_append]
    refine List.nodup_append.mpr ⟨h.recordsOnce, List.nodup_singleton _, ?_⟩
    simpa [r] using fun x mem own => fresh x mem own
  · rw [queue, accesses, List.filter_append, List.map_append, ← h.accessOps]
    split
    · next here => simp [List.filter_append, StoreOp.isCopy, AccessRec.op, r, here]
    · next other => simp [r, Ne.symm other]

/-- An access is no copy operation. -/
theorem placeAccess_copyOps (q : PageNo) (offset : Nat) (kind : StoreKind) :
    (s.placeAccess p t q offset kind).copyOps = s.copyOps := by
  have queued : (s.placeAccess p t q offset kind).copyOps =
      (s.modQueue (bankOf q) (· ++ [{ origin := .access p t, kind := kind, page := q, offset := offset }])).copyOps :=
    copyOps_of_queues rfl
  rw [queued]
  exact copyOps_modQueue _ (by simp [List.filter_append, StoreOp.isCopy])

theorem access_settled (h : s.Settled) (fresh : ∀ r ∈ s.accesses, r.port = p → r.tag ≠ t) (frame : Byte) (offset : Half)
    (kind : StoreKind) : (s.access p t frame offset kind).Settled := by
  unfold State.access
  split
  · exact h.of_same (answer_sameWork _ _ _ _ _)
  · next q passed =>
    refine h.of_working rfl fun active ops work => ⟨work.running, ?_, work.jobs, ?_⟩
    · exact placeAccess_stores work.stores fresh (checkAccess_fits passed)
    · rw [placeAccess_copyOps]
      exact work.copyOps

end Sys2Proof.Machine

/-! # The switch, and the completions of accesses and of copy operations (R42, R43, R68, R69, R109, R110, R113) -/
namespace Sys2Proof.Machine

variable {s u v : State} {p : Port} {t : Tag}

/-! ## A request that is handed to its unit at the switch -/

theorem handHeld_sameDevice (r : Request) : s.SameDevice (s.handHeld p t r) := by
  cases r with
  | access frame offset kind => exact access_sameDevice _ _ _
  | acquire frame mode lease wait => exact (acquire_sameWork _ _ _ _ _ _).device
  | copy ss sf so ds df dOff n => exact (copy_sameRecords _ _ _ _ _ _ _).toSameDevice
  | fill ds df dOff n pattern => exact (fill_sameRecords _ _ _ _ _).toSameDevice
  | _ => exact .refl s

/-- The only record that the handing of a request adds is the request's own (R54). -/
theorem handHeld_accesses {r : Request} {a : AccessRec} (mem : a ∈ (s.handHeld p t r).accesses) :
    a ∈ s.accesses ∨ a.port = p ∧ a.tag = t := by
  cases r with
  | access frame offset kind => exact access_accesses mem
  | acquire frame mode lease wait => exact .inl ((acquire_sameWork _ _ _ _ _ _).accesses ▸ mem)
  | copy ss sf so ds df dOff n => exact .inl ((copy_sameRecords _ _ _ _ _ _ _).accesses ▸ mem)
  | fill ds df dOff n pattern => exact .inl ((fill_sameRecords _ _ _ _ _).accesses ▸ mem)
  | _ => exact .inl mem

theorem handHeld_settled (h : s.Settled) (fresh : ∀ a ∈ s.accesses, a.port = p → a.tag ≠ t) (r : Request) :
    (s.handHeld p t r).Settled := by
  cases r with
  | access frame offset kind => exact access_settled h fresh _ _ _
  | acquire frame mode lease wait => exact h.of_same (acquire_sameWork _ _ _ _ _ _)
  | copy ss sf so ds df dOff n => exact copy_settled h _ _ _ _ _ _ _
  | fill ds df dOff n pattern => exact fill_settled h _ _ _ _ _
  | _ => exact h

/-! ## The switch (R43) -/

/-- Slots whose tags are distinct, and are those of no access in flight of their port (R147). -/
structure State.TagsApart (s : State) (p : Port) (slots : List Slot) : Prop where
  once : (slots.map (·.tag)).Nodup
  fresh : ∀ x ∈ slots, ∀ a ∈ s.accesses, a.port = p → a.tag ≠ x.tag

theorem State.TagsApart.of_fewer {l l' : List Slot} (h : s.TagsApart p l) (slots : l'.Sublist l)
    (accesses : ∀ a ∈ u.accesses, a ∈ s.accesses) : u.TagsApart p l' :=
  ⟨h.once.sublist (slots.map _), fun x mem a inFlight => h.fresh x (slots.subset mem) a (accesses a inFlight)⟩

/-- The HELD requests of a port can be released: their tags are those of no access in flight. -/
def State.HeldApart (s : State) (p : Port) : Prop := s.TagsApart p (s.port p).heldSlots

theorem State.HeldApart.of_same (h : s.HeldApart p) (same : s.SameStores u) : u.HeldApart p :=
  State.TagsApart.of_fewer h (same.port p).held fun _ mem => same.accesses ▸ mem

theorem setSlot_inFlight_sameWork (t : Tag) : s.SameWork (s.modPort p (·.setSlot t .inFlight)) :=
  .modPort fun c => setSlot_sameWork c t (by decide)

theorem releaseHeld_sameDevice (x : Slot) : s.SameDevice (s.releaseHeld p x) :=
  (setSlot_inFlight_sameWork x.tag).device.trans (handHeld_sameDevice _)

theorem releaseHeld_settled (h : s.Settled) (x : Slot) (fresh : ∀ a ∈ s.accesses, a.port = p → a.tag ≠ x.tag) :
    (s.releaseHeld p x).Settled :=
  handHeld_settled (h.of_same (setSlot_inFlight_sameWork x.tag)) fresh _

/-- What is left to release stays apart from what the release of a slot places. -/
theorem State.TagsApart.release {x : Slot} {l : List Slot} (h : s.TagsApart p (x :: l)) : (s.releaseHeld p x).TagsApart p l := by
  obtain ⟨own, once⟩ := List.nodup_cons.mp h.once
  refine ⟨once, fun y mem a inFlight port => ?_⟩
  rcases handHeld_accesses inFlight with before | ⟨-, tag⟩
  · exact h.fresh y (List.mem_cons_of_mem _ mem) a before port
  · rw [tag]
    exact fun same => own (List.mem_map.mpr ⟨y, mem, same.symm⟩)

theorem releaseAll_settled {l : List Slot} (h : s.Settled) (apart : s.TagsApart p l) :
    (l.foldl (fun s x => s.releaseHeld p x) s).Settled := by
  induction l generalizing s with
  | nil => exact h
  | cons x l ih => exact ih (releaseHeld_settled h x (apart.fresh x List.mem_cons_self)) apart.release

/-- The switch up to the SELECT reply. -/
theorem switched_sameWork (set : MapSet) :
    s.SameWork ((s.modMap p fun m => { m with present := set, pendingSet := none }).answerSelect p) :=
  (State.SameWork.modMap_of rfl).trans (answerSelect_sameWork p)

theorem switchTo_settled (h : s.Settled) (apart : s.HeldApart p) (set : MapSet) : (s.switchTo p set).Settled :=
  releaseAll_settled (h.of_same (switched_sameWork set)) (apart.of_same (switched_sameWork set).stores)

theorem switchCheck_settled (h : s.Settled) (apart : s.HeldApart p) : (s.switchCheck p).Settled := by
  unfold State.switchCheck
  split
  · exact h
  · split
    · exact switchTo_settled h apart _
    · exact h

theorem releaseAll_sameDevice (l : List Slot) (s : State) : s.SameDevice (l.foldl (fun s x => s.releaseHeld p x) s) :=
  foldl_related (R := State.SameDevice) .refl .trans (fun _ x => releaseHeld_sameDevice x) l s

theorem switchTo_sameDevice (set : MapSet) : s.SameDevice (s.switchTo p set) :=
  (switched_sameWork set).device.trans (releaseAll_sameDevice _ _)

theorem switchCheck_sameDevice : s.SameDevice (s.switchCheck p) := by
  unfold State.switchCheck
  split
  · exact .refl s
  · split
    · exact switchTo_sameDevice _
    · exact .refl s

/-! ## The completion of an access (R54, R68, R69) -/

theorem mem_dropAccess {a : AccessRec} (mem : a ∈ (s.dropAccess p t).accesses) : a ∈ s.accesses := (List.mem_filter.mp mem).1

/-- One record bears a tag of a port, and it alone is dropped (R54). -/
theorem perm_dropAccess {l : List AccessRec} (once : (l.map fun r => (r.port, r.tag)).Nodup) {r : AccessRec} (mem : r ∈ l) :
    l.Perm (r :: l.filter fun x => !(x.port == r.port && x.tag == r.tag)) := by
  have erased : (l.filter fun x => !(x.port == r.port && x.tag == r.tag)) = l.erase r := by
    rw [once.of_map.erase_eq_filter]
    refine List.filter_congr fun x mem' => ?_
    have same : x = r ↔ x.port = r.port ∧ x.tag = r.tag :=
      ⟨fun e => e ▸ ⟨rfl, rfl⟩, fun e => List.inj_on_of_nodup_map once mem' mem (Prod.ext e.1 e.2)⟩
    simp only [bne, beq_eq_decide, Bool.decide_and, same]
  rw [erased]
  exact List.perm_cons_erase mem

/-- The state with the operation at the head of a queue complete and its record dropped, before the reports of it. -/
structure State.Completed (s : State) (b : BankNo) (p : Port) (t : Tag) (u : State) : Prop where
  phase : u.phase = s.phase
  jobs : u.jobs = s.jobs
  queues : u.queues = (s.modQueue b List.tail).queues
  accesses : u.accesses = (s.dropAccess p t).accesses
  port : ∀ y, (u.port y).inFlight = (s.port y).inFlight - if y = p then 1 else 0
  map : ∀ y, (u.map y).inFlight = (s.map y).inFlight - if y = p then 1 else 0

/-- The access at the head of a bank queue is the first record of the bank (R67). -/
theorem State.StoresAgree.head (h : s.StoresAgree) {b : BankNo} {op : StoreOp} {rest : List StoreOp} (head : s.queue b = op :: rest)
    (origin : op.origin = .access p t) :
    ∃ r records, s.accesses.filter (fun r => bankOf r.page == b) = r :: records ∧ (r.port = p ∧ r.tag = t) ∧
      rest.filter (fun op => !op.isCopy) = records.map AccessRec.op := by
  have ops := h.accessOps b
  rw [head, List.filter_cons_of_pos (by simp [StoreOp.isCopy, origin])] at ops
  obtain ⟨r, records, bank, rfl, others⟩ := List.map_eq_cons_iff.mp ops.symm
  simp only [AccessRec.op, Origin.access.injEq] at origin
  exact ⟨r, records, bank, origin, others.symm⟩

/-- A record that leaves is one record of its port less. -/
theorem count_port_dropAccess {l : List AccessRec} (once : (l.map fun r => (r.port, r.tag)).Nodup) {r : AccessRec} (mem : r ∈ l)
    (y : Port) : ((l.filter fun x => !(x.port == r.port && x.tag == r.tag)).filter (·.port == y)).length =
      (l.filter (·.port == y)).length - if y = r.port then 1 else 0 := by
  rw [((perm_dropAccess once mem).filter (·.port == y)).length_eq, List.filter_cons]
  by_cases own : y = r.port
  · simp [own]
  · simp [own, Ne.symm own]

theorem State.Completed.stores {b : BankNo} (done : s.Completed b p t u) (h : s.StoresAgree) {op : StoreOp} {rest : List StoreOp}
    (head : s.queue b = op :: rest) (origin : op.origin = .access p t) : u.StoresAgree := by
  obtain ⟨r, records, bank, ⟨rfl, rfl⟩, others⟩ := h.head head origin
  have first : r ∈ s.accesses.filter fun r => bankOf r.page == b := by rw [bank]; exact List.mem_cons_self
  obtain ⟨mem, here⟩ := List.mem_filter.mp first
  have queue : ∀ x, u.queue x = if x = b then (s.queue b).tail else s.queue x := fun x => by
    rw [queue_of_queues done.queues, State.queue_modQueue]
  refine ⟨fun x op mem => ?_, fun y => ?_, ?_, fun x => ?_⟩
  · rw [queue] at mem
    split at mem
    · next same => rw [same]; exact h.inPage b op (List.mem_of_mem_tail mem)
    · exact h.inPage x op mem
  · obtain ⟨port, map⟩ := h.counts y
    rw [done.port, done.map, port, map, done.accesses]
    exact ⟨(count_port_dropAccess h.recordsOnce mem y).symm, (count_port_dropAccess h.recordsOnce mem y).symm⟩
  · rw [done.accesses]
    exact h.recordsOnce.sublist (List.filter_sublist.map _)
  · have dropped : u.accesses.filter (fun r => bankOf r.page == x) =
        (s.accesses.filter fun r => bankOf r.page == x).filter fun a => !(a.port == r.port && a.tag == r.tag) := by
      rw [done.accesses]
      exact List.filter_filter.trans ((List.filter_congr fun _ _ => Bool.and_comm _ _).trans List.filter_filter.symm)
    have same : ∀ a ∈ s.accesses, (!(a.port == r.port && a.tag == r.tag)) = false → a = r := fun a mem' tag =>
      List.inj_on_of_nodup_map h.recordsOnce mem' mem (by simpa using tag)
    rw [queue, dropped]
    split
    · next here =>
      rw [here, bank, head, List.tail_cons, others, List.filter_cons_of_neg (by simp), List.filter_eq_self.mpr]
      intro a mem'
      have nodup : (r :: records).Nodup := bank ▸ h.recordsOnce.of_map.filter _
      have listed : a ∈ s.accesses := (List.mem_filter.mp (bank ▸ List.mem_cons_of_mem r mem')).1
      by_contra tag
      rw [same a listed (by simpa using tag)] at mem'
      exact (List.nodup_cons.mp nodup).1 mem'
    · next other =>
      rw [h.accessOps x]
      refine congrArg _ (List.filter_eq_self.mpr fun a mem' => ?_).symm
      obtain ⟨listed, there⟩ := List.mem_filter.mp mem'
      by_contra tag
      rw [same a listed (by simpa using tag), beq_iff_eq] at there
      exact other (there.symm.trans (beq_iff_eq.mp here))

theorem State.Completed.copyOps {b : BankNo} (done : s.Completed b p t u) {op : StoreOp} {rest : List StoreOp}
    (head : s.queue b = op :: rest) (origin : op.origin = .access p t) : u.copyOps = s.copyOps := by
  rw [copyOps_of_queues done.queues]
  refine copyOps_modQueue b ?_
  rw [head, List.tail_cons, List.filter_cons_of_neg (by simp [StoreOp.isCopy, origin])]

theorem State.Completed.settled {b : BankNo} (done : s.Completed b p t u) (h : s.Settled) {op : StoreOp} {rest : List StoreOp}
    (head : s.queue b = op :: rest) (origin : op.origin = .access p t) : u.Settled :=
  h.of_working done.jobs fun _ _ work => ⟨done.phase.trans work.running, done.stores work.stores head origin,
    done.jobs ▸ work.jobs, (done.copyOps head origin).trans work.copyOps⟩

/-- What a completion does before the end of its access is reported. -/
def State.accessReplied (s : State) (p : Port) (t : Tag) (op : StoreOp) (st : Status) (pay : Payload) : State :=
  ((s.dropAccess p t).unpinClaim op.page).replyAccess p t op.kind.code st pay

theorem accessReplied_sameWork (op : StoreOp) (st : Status) (pay : Payload) :
    (s.dropAccess p t).SameWork (s.accessReplied p t op st pay) :=
  (unpinClaim_sameWork _).trans (replyAccess_sameWork _ _ _ _ _)

/-- One access of a port in flight less, in both counts. -/
def State.oneLess (s : State) (p : Port) : State :=
  (s.modMap p fun m => { m with inFlight := m.inFlight - 1 }).modPort p fun c => { c with inFlight := c.inFlight - 1 }

theorem completeAccess_reports (op : StoreOp) (st : Status) (pay : Payload) :
    s.completeAccess p t op st pay = (((s.accessReplied p t op st pay).oneLess p).switchCheck p).closedCheck p := rfl

theorem port_oneLess (y : Port) : ((s.oneLess p).port y).inFlight = (s.port y).inFlight - if y = p then 1 else 0 := by
  rw [State.oneLess, State.port_modPort]
  split
  · next same => rw [same]; rfl
  · rfl

theorem map_oneLess (y : Port) : ((s.oneLess p).map y).inFlight = (s.map y).inFlight - if y = p then 1 else 0 := by
  show ((s.modMap p fun m => { m with inFlight := m.inFlight - 1 }).map y).inFlight = _
  rw [State.map_modMap]
  split
  · next same => rw [same]
  · rfl

theorem heldSlots_oneLess : ((s.oneLess p).port p).heldSlots = (s.port p).heldSlots := by
  rw [State.oneLess, State.port_modPort_same]
  rfl

theorem Completed.oneLess (b : BankNo) (pool : Pool) (same : ((s.popOp b pool).dropAccess p t).SameWork u) :
    s.Completed b p t (u.oneLess p) where
  phase := same.phase
  jobs := same.jobs
  queues := same.queues
  accesses := same.accesses
  port y := by rw [port_oneLess, (same.port y).inFlight]; rfl
  map y := by rw [map_oneLess, same.map y]; rfl

/-- The reports of a completion, from any state that the reply has left (R68 step 4). -/
theorem oneLess_settled (h : s.Settled) (apart : s.HeldApart p) {b : BankNo} {op : StoreOp} {rest : List StoreOp}
    (head : s.queue b = op :: rest) (origin : op.origin = .access p t) {pool : Pool}
    (same : ((s.popOp b pool).dropAccess p t).SameWork u) : (((u.oneLess p).switchCheck p).closedCheck p).Settled := by
  have done := Completed.oneLess b pool same
  refine State.Settled.of_same (switchCheck_settled (done.settled h head origin) ?_) (closedCheck_sameWork p)
  refine State.TagsApart.of_fewer apart ?_ fun a mem => ?_
  · rw [heldSlots_oneLess]
    exact (same.port p).held
  · rw [done.accesses] at mem
    exact mem_dropAccess mem

theorem completeAccess_settled (h : s.Settled) (apart : s.HeldApart p) {b : BankNo} {op : StoreOp} {rest : List StoreOp}
    (head : s.queue b = op :: rest) (origin : op.origin = .access p t) (pool : Pool) (st : Status) (pay : Payload) :
    ((s.popOp b pool).completeAccess p t op st pay).Settled := by
  rw [completeAccess_reports]
  exact oneLess_settled h apart head origin (accessReplied_sameWork op st pay)

theorem oneLess_sameDevice : s.SameDevice (s.oneLess p) := ⟨rfl, rfl, rfl, rfl⟩

theorem completeAccess_sameDevice (op : StoreOp) (st : Status) (pay : Payload) : s.SameDevice (s.completeAccess p t op st pay) := by
  have dropped : s.SameDevice (s.dropAccess p t) := ⟨rfl, rfl, rfl, rfl⟩
  have replied := dropped.trans (accessReplied_sameWork op st pay).device
  rw [completeAccess_reports]
  exact ((replied.trans oneLess_sameDevice).trans switchCheck_sameDevice).trans (closedCheck_sameWork p).device

theorem accessGood_settled (h : s.Settled) (apart : ∀ p, s.HeldApart p) (b : BankNo) : (s.accessGood b).Settled := by
  unfold State.accessGood
  split
  · exact h
  next op rest head =>
  split
  · exact h
  next p t origin =>
  dsimp only
  split
  · have queue : s.befall.queue b = op :: rest := by rw [queue_of_queues befall_sameWork.queues]; exact head
    exact completeAccess_settled (h.of_same befall_sameWork) ((apart p).of_same befall_sameWork.stores) queue origin _ _ _
  · exact h

/-- A read beyond repair poisons its page (R65). -/
theorem poisoned_sameWork (s : State) (op : StoreOp) : s.SameWork ((s.befallBad op).poison op.page) :=
  (befallBad_sameWork op).trans (.modPage _ _)

theorem accessBad_settled (h : s.Settled) (apart : ∀ p, s.HeldApart p) (b : BankNo) : (s.accessBad b).Settled := by
  unfold State.accessBad
  split
  · exact h
  next op rest head =>
  split
  · exact h
  next p t origin =>
  split
  · have same := poisoned_sameWork s op
    have queue : ((s.befallBad op).poison op.page).queue b = op :: rest := by rw [queue_of_queues same.queues]; exact head
    exact completeAccess_settled (h.of_same same) ((apart p).of_same same.stores) queue origin _ _ _
  · exact h

theorem popOp_sameDevice (b : BankNo) (pool : Pool) : s.SameDevice (s.popOp b pool) := ⟨rfl, rfl, rfl, rfl⟩

theorem accessGood_sameDevice (b : BankNo) : s.SameDevice (s.accessGood b) := by
  unfold State.accessGood
  split
  · exact .refl s
  next op rest head =>
  split
  · exact .refl s
  dsimp only
  split
  · have popped := befall_sameWork.device.trans (popOp_sameDevice (s := s.befall) b (op.store s.befall.pool))
    exact popped.trans (completeAccess_sameDevice _ _ _)
  · exact .refl s

theorem accessBad_sameDevice (b : BankNo) : s.SameDevice (s.accessBad b) := by
  unfold State.accessBad
  split
  · exact .refl s
  next op rest head =>
  split
  · exact .refl s
  split
  · have popped := (poisoned_sameWork s op).device.trans (popOp_sameDevice b (s.befallBad op).pool)
    exact popped.trans (completeAccess_sameDevice _ _ _)
  · exact .refl s

/-! ## The completions of copy operations (R109, R110, R113) -/

/-- The copy operation at the head of a bank queue is the ACTIVE job's, and none is outstanding when it has left (R64). -/
theorem State.Settled.popCopy (h : s.Settled) {b : BankNo} {op : StoreOp} {rest : List StoreOp} (head : s.queue b = op :: rest)
    (copy : op.isCopy = true) :
    ∃ j, s.activeJob = some j ∧ j.bytesDone < j.length ∧ j.HasOutstanding op ∧ (s.modQueue b List.tail).Working (some j) [] := by
  cases h with
  | idle work =>
    have found := mem_copyOps (b := b) (by rw [head]; exact List.mem_cons_self) copy
    rw [work.copyOps] at found
    cases found
  | busy j out work bytesLeft outstanding =>
    obtain ⟨rfl, popped⟩ := work.popCopy head copy
    exact ⟨j, work.activeJob, bytesLeft, outstanding, popped⟩

theorem queue_sameWork (same : s.SameWork u) (b : BankNo) : u.queue b = s.queue b := by rw [queue_of_queues same.queues]

theorem activeJob_sameWork (same : s.SameWork u) : u.activeJob = s.activeJob := by rw [State.activeJob, same.jobs, State.activeJob]

theorem copyReadGood_settled (h : s.Settled) (b : BankNo) : (s.copyReadGood b).Settled := by
  unfold State.copyReadGood
  split
  · exact h
  next op rest head =>
  split
  · next id n origin read =>
    dsimp only
    split
    · obtain ⟨j, active, bytesLeft, ⟨own, outstanding⟩, popped⟩ := (h.of_same befall_sameWork).popCopy
        ((queue_sameWork befall_sameWork b).trans head) (by rw [StoreOp.isCopy, origin])
      rw [activeJob_sameWork befall_sameWork] at active
      obtain ⟨mem, -⟩ := (popped.jobs.active j).mpr rfl
      obtain ⟨dst, destination⟩ := (popped.jobs.formed j mem).dstAt bytesLeft
      have length : n = j.segmentLength := by
        rcases outstanding with ⟨kind, -⟩ | ⟨_, kind, -⟩ <;> rw [read] at kind <;> cases kind
        rfl
      rw [active, Option.bind_some, destination]
      rw [origin, Origin.copy.injEq] at own
      subst own length
      dsimp only
      have size : (s.befall.pool.bytes op.addr j.segmentLength).length = j.segmentLength := length_bytes _ _ _
      have buffered : ({ s.befall.popOp b s.befall.pool with
          segment := s.befall.pool.bytes op.addr j.segmentLength } : State).Working (some j) [] :=
        popped.of_parts rfl rfl rfl rfl (fun _ => rfl) fun _ => rfl
      refine .busy j _ (buffered.placeCopyOp ?_) bytesLeft ⟨rfl, .inr ⟨_, rfl, size, destination⟩⟩
      rw [StoreKind.size, size]
      exact dstAt_fits destination
    · exact h
  all_goals exact h

theorem copyReadBad_settled (h : s.Settled) (b : BankNo) : (s.copyReadBad b).Settled := by
  unfold State.copyReadBad
  split
  · exact h
  next op rest head =>
  split
  · next id n origin read =>
    have same := poisoned_sameWork s op
    obtain ⟨j, active, -, -, popped⟩ := (h.of_same same).popCopy ((queue_sameWork same b).trans head)
      (by rw [StoreOp.isCopy, origin])
    rw [activeJob_sameWork same] at active
    rw [active]
    have ended : (((s.befallBad op).poison op.page).popOp b (s.befallBad op).pool).Working (some j) [] :=
      popped.of_parts rfl rfl rfl rfl (fun _ => rfl) fun _ => rfl
    exact choose_settled (ended.finishJob .mediaError)
  all_goals exact h

theorem State.Working.modActive {ops : List StoreOp} {j : Job} (h : s.Working (some j) ops) (n : Nat) :
    (s.modJob j.id fun x => { x with bytesDone := x.bytesDone + n }).Working (some { j with bytesDone := j.bytesDone + n }) ops := by
  obtain ⟨mem, active⟩ := (h.jobs.active j).mpr rfl
  have formed := (h.jobs.formed j mem).progress (j.bytesDone + n) j.cancel
  rw [← active] at formed
  exact ⟨h.running, h.stores.of_parts rfl rfl (fun _ => rfl) fun _ => rfl,
    h.jobs.changeActive (f := fun x => { x with bytesDone := x.bytesDone + n }) (fun _ => ⟨rfl, rfl⟩) formed, h.copyOps⟩

theorem copyWriteGood_settled (h : s.Settled) (b : BankNo) : (s.copyWriteGood b).Settled := by
  unfold State.copyWriteGood
  split
  · exact h
  next op rest head =>
  split
  · next id data origin write =>
    obtain ⟨j, active, -, -, popped⟩ := (h.of_same befall_sameWork).popCopy
      ((queue_sameWork befall_sameWork b).trans head) (by rw [StoreOp.isCopy, origin])
    rw [activeJob_sameWork befall_sameWork] at active
    dsimp only
    rw [active]
    have stored : ({ s.befall.popOp b (op.store s.befall.pool) with segment := [] } : State).Working (some j) [] :=
      popped.of_parts rfl rfl rfl rfl (fun _ => rfl) fun _ => rfl
    exact decisionPoint_settled (stored.modActive data.length)
  all_goals exact h

/-! ### What they leave of the device -/

theorem copyReadGood_sameDevice (b : BankNo) : s.SameDevice (s.copyReadGood b) := by
  unfold State.copyReadGood
  split
  · exact .refl s
  split
  · dsimp only
    split
    · split <;> exact befall_sameWork.device.trans ⟨rfl, rfl, rfl, rfl⟩
    · exact .refl s
  all_goals exact .refl s

theorem copyReadBad_sameDevice (b : BankNo) : s.SameDevice (s.copyReadBad b) := by
  unfold State.copyReadBad
  split
  · exact .refl s
  next op rest head =>
  split
  · have popped := (poisoned_sameWork s op).device.trans (popOp_sameDevice b (s.befallBad op).pool)
    dsimp only
    split
    · exact popped
    · exact popped.trans ((finishJob_sameRecords _ _).trans choose_sameRecords).toSameDevice
  all_goals exact .refl s

theorem copyWriteGood_sameDevice (b : BankNo) : s.SameDevice (s.copyWriteGood b) := by
  unfold State.copyWriteGood
  split
  · exact .refl s
  next op rest head =>
  split
  · have popped : s.SameDevice { s.befall.popOp b (op.store s.befall.pool) with segment := [] } :=
      befall_sameWork.device.trans ⟨rfl, rfl, rfl, rfl⟩
    dsimp only
    split
    · exact popped
    · next j _ =>
      have marked : ∀ v : State, ∀ f, v.SameDevice (v.modJob j.id f) := fun _ _ => ⟨rfl, rfl, rfl, rfl⟩
      exact (popped.trans (marked _ _)).trans (decisionPoint_sameRecords _).toSameDevice
  all_goals exact .refl s

end Sys2Proof.Machine

/-! # Teardown, requests and the line in RUNNING (R140 to R154, R158, R170) -/
namespace Sys2Proof.Machine

variable {s u v : State} {p : Port} {t : Tag}

/-! ## The teardown (R154) -/

theorem beginClosing_sameWork (reason : CloseReason) : s.SameWork (s.beginClosing p reason) := by
  have port : s.SameWork (s.modPort p (·.beginClosing reason)) := .modPort fun c => ⟨rfl, List.filter_sublist.filter _⟩
  have selection := State.SameWork.modMap_of (s := s.modPort p (·.beginClosing reason)) (p := p)
    (f := fun m => { m with present := .a, pendingSet := none }) rfl
  exact (port.trans selection).trans (.of_tables ⟨⟨rfl, rfl, rfl, rfl⟩, rfl⟩ rfl rfl rfl rfl)

theorem offerSessionEnd_sameWork (reason : CloseReason) : s.SameWork (s.offerSessionEnd p reason) := by
  cases reason with
  | ejected => exact offer_sameWork _ _
  | closed | linkLost => exact .refl s

theorem removeJob_sameStores (id : Byte) : s.SameStores (s.removeJob id) :=
  ⟨⟨⟨rfl, rfl, rfl, rfl⟩, rfl⟩, rfl, fun _ => .refl _, fun _ => rfl⟩

theorem modJob_sameStores (id : Byte) (f : Job → Job) : s.SameStores (s.modJob id f) :=
  ⟨⟨⟨rfl, rfl, rfl, rfl⟩, rfl⟩, rfl, fun _ => .refl _, fun _ => rfl⟩

theorem dropJob_sameStores (id : Byte) : s.SameStores (s.dropJob p id) := by
  unfold State.dropJob
  split
  · exact .refl s
  · exact (removeJob_sameStores id).trans (unpinJob_sameWork _).stores

theorem markActive_sameStores : s.SameStores (s.markActive p) := by
  have reported : ∀ (v : State) (active : Bool), v.SameStores (v.modPort p fun c => { c with activeJob := active }) := fun _ active =>
    (State.SameWork.modPort (f := fun c => { c with activeJob := active }) fun _ => .of_slots rfl rfl).stores
  unfold State.markActive
  split
  · exact reported _ _
  · split
    · exact (modJob_sameStores _ _).trans (reported _ _)
    · exact reported _ _

/-- No part of a teardown touches an access or a bank queue. -/
theorem tearDownPart_sameStores (x : TeardownPart) : s.SameStores (s.tearDownPart p x) := by
  cases x with
  | unlock q => exact (unlockForTeardown_sameWork p q).stores
  | disable set f => exact (disableEntry_sameWork p (set, f)).stores
  | dropJob id => exact dropJob_sameStores id
  | markActive => exact markActive_sameStores
  | ownership => exact (ownershipStep_sameWork p).stores
  | clearGrants => exact (clearGrants_sameWork p).stores
  | testClosed => exact (closedCheck_sameWork p).stores

theorem schedule_sameWork (schedule : List Nat) : s.SameWork { s with schedule := schedule } :=
  .of_tables ⟨⟨rfl, rfl, rfl, rfl⟩, rfl⟩ rfl rfl rfl rfl

theorem tearDownShares_sameStores : s.SameStores (s.tearDownShares p) := by
  have parts : ∀ (l : List TeardownPart) (v : State), v.SameStores (l.foldl (fun s x => s.tearDownPart p x) v) := fun l v =>
    foldl_related (R := State.SameStores) .refl .trans (fun _ x => tearDownPart_sameStores x) l v
  exact (schedule_sameWork _).stores.trans (parts _ _)

theorem enterClosing_sameStores (reason : CloseReason) : s.SameStores (s.enterClosing p reason) :=
  ((beginClosing_sameWork reason).trans (offerSessionEnd_sameWork reason)).stores.trans tearDownShares_sameStores

/-- A job of the port, marked for cancellation (R120). -/
def Job.markedFor (p : Port) (j : Job) : Job := if j.port = p then { j with cancel := true } else j

theorem markedFor_eq (p : Port) (j : Job) : ∃ cancel, j.markedFor p = { j with cancel := cancel } := by
  unfold Job.markedFor
  split
  · exact ⟨_, rfl⟩
  · exact ⟨_, rfl⟩

/-- The jobs that a teardown leaves: none of the port's but its ACTIVE one, marked for cancellation (R120). -/
theorem enterClosing_jobs (locks : s.LockTableSound) (jobs : s.JobQueueSound) (reason : CloseReason) :
    (s.enterClosing p reason).jobs = (s.jobs.filter fun j => !(j.port == p && j.state == .queued)).map (·.markedFor p) := by
  obtain ⟨schedule, torn⟩ := enterClosing_tornOut (p := p) (reason := reason) locks jobs
  rw [torn.jobs, begun_rest]
  rfl

/-- The teardown of a port leaves the ACTIVE job in its place. -/
theorem JobsAgree.tornDown {l : List Job} {active : Option Job} (h : JobsAgree l active) (p : Port) :
    JobsAgree ((l.filter fun j => !(j.port == p && j.state == .queued)).map (·.markedFor p)) (active.map (·.markedFor p)) := by
  have kept := h.filter fun j => !(j.port == p && j.state == .queued)
  have stays : active.filter (fun j => !(j.port == p && j.state == .queued)) = active := by
    cases active with
    | none => rfl
    | some j =>
      obtain ⟨-, state⟩ := (h.active j).mpr rfl
      exact if_pos (by simp [state])
  rw [stays] at kept
  refine kept.map (fun j => ?_) fun j mem => ?_
  · obtain ⟨cancel, marked⟩ := markedFor_eq p j
    rw [marked]
    exact ⟨rfl, rfl⟩
  obtain ⟨mem, notQueued⟩ := List.mem_filter.mp mem
  unfold Job.markedFor
  split
  · next own =>
    have state : j.state = .active := by
      cases state : j.state with
      | active => rfl
      | queued => simp [own, state] at notQueued
    have formed := (h.formed j mem).progress j.bytesDone true
    rwa [← state] at formed
  · exact h.formed j mem

theorem enterClosing_settled (h : s.Settled) (locks : s.LockTableSound) (jobs : s.JobQueueSound) (reason : CloseReason) :
    (s.enterClosing p reason).Settled := by
  have same := enterClosing_sameStores (s := s) (p := p) reason
  have left := enterClosing_jobs (p := p) locks jobs reason
  have torn : ∀ active ops, s.Working active ops → (s.enterClosing p reason).Working
      (active.map (·.markedFor p)) ops := fun active ops work =>
    ⟨same.phase.trans work.running,
      work.stores.of_parts same.queues same.accesses (fun y => (same.port y).inFlight) same.map,
      left ▸ work.jobs.tornDown p, (copyOps_of_queues same.queues).trans work.copyOps⟩
  cases h with
  | idle work empty => exact .idle (torn _ _ work) (by rw [left, empty]; rfl)
  | busy j op work bytesLeft outstanding =>
    obtain ⟨cancel, marked⟩ := markedFor_eq p j
    have work' := torn _ _ work
    rw [Option.map_some, marked] at work'
    exact .busy _ op work' bytesLeft outstanding

theorem State.LockTableSound.of_locks (h : s.LockTableSound) (same : u.locks = s.locks) : u.LockTableSound :=
  ⟨by rw [same]; exact h.places, by rw [same]; exact h.pagesOnce, by rw [same]; exact h.entries⟩

theorem State.JobQueueSound.of_jobs (h : s.JobQueueSound) (same : u.jobs = s.jobs) : u.JobQueueSound :=
  ⟨by rw [same]; exact h.jobs, by rw [same]; exact h.perPort, by rw [same]; exact h.idsOnce, by rw [same]; exact h.active⟩

/-! ## Requests (R140 to R149) -/

theorem openPort_sameDevice : s.SameDevice (s.openPort p t) := by
  have opened : s.SameDevice (s.openSession p) := ⟨rfl, rfl, rfl, rfl⟩
  unfold State.openPort
  split
  · exact opened.trans (answer_sameWork _ _ _ _ _).device
  all_goals exact (answer_sameWork _ _ _ _ _).device

/-- What the taking of a request needs: the Copy Engine settled, the tables in order, a CLOSED port without an access in flight
(R155), and a slot for each record (R54). -/
structure State.Ready (s : State) : Prop where
  settled : s.Settled
  locks : s.LockTableSound
  jobs : s.JobQueueSound
  closed : ∀ p, (s.port p).session = .closed → (s.port p).inFlight = 0
  records : ∀ a ∈ s.accesses, ∃ x ∈ (s.port a.port).slots, x.tag = a.tag

/-- A change of a Port Controller that leaves its session and its accesses, and no slot without its request. -/
theorem State.Ready.modPort (h : s.Ready) {f : PortCtl → PortCtl} (inFlight : ∀ c, (f c).inFlight = c.inFlight)
    (session : ∀ c, (f c).session = c.session) (slots : ∀ c, ∀ x ∈ c.slots, x ∈ (f c).slots) (p : Port) :
    (s.modPort p f).Ready := by
  have same : ∀ y, ((s.modPort p f).port y).inFlight = (s.port y).inFlight ∧
      ((s.modPort p f).port y).session = (s.port y).session ∧ ∀ x ∈ (s.port y).slots, x ∈ ((s.modPort p f).port y).slots := by
    intro y
    rw [State.port_modPort]
    split
    · next own => rw [own]; exact ⟨inFlight _, session _, slots _⟩
    · exact ⟨rfl, rfl, fun _ mem => mem⟩
  refine ⟨h.settled.of_working rfl fun _ _ work => work.of_parts rfl rfl rfl rfl (fun y => (same y).1) fun _ => rfl,
    h.locks.of_locks rfl, h.jobs.of_jobs rfl,
    fun y closed => ?_, fun a mem => ?_⟩
  · rw [(same y).1]
    exact h.closed y ((same y).2.1 ▸ closed)
  · obtain ⟨x, slot, tag⟩ := h.records a mem
    exact ⟨x, (same a.port).2.2 x slot, tag⟩

theorem State.Ready.idle (h : s.Ready) (closed : (s.port p).session = .closed) :
    (s.port p).inFlight = 0 ∧ (s.map p).inFlight = 0 := by
  obtain ⟨port, map⟩ := h.settled.stores.counts p
  exact ⟨h.closed p closed, by rw [map, ← port, h.closed p closed]⟩

theorem eject_settled (h : s.Ready) (target : Byte) : (s.eject p t target).Settled := by
  have answered : ∀ st, (s.answer p t 0x63 st).Settled := fun st => h.settled.of_same (answer_sameWork p t 0x63 st .none)
  unfold State.eject
  split
  · exact answered _
  split
  · exact answered _
  split
  · exact answered _
  · exact enterClosing_settled (answered _) (h.locks.of_locks rfl) (h.jobs.of_jobs rfl) _

theorem eject_sameDevice (target : Byte) : s.SameDevice (s.eject p t target) := by
  unfold State.eject
  split
  · exact (answer_sameWork _ _ _ _ _).device
  split
  · exact (answer_sameWork _ _ _ _ _).device
  split
  · exact (answer_sameWork _ _ _ _ _).device
  · exact (answer_sameWork p t 0x63 .ok .none).device.trans (enterClosing_sameStores .ejected).toSameDevice

/-- The requests that make or end work, or the sessions that bound it. -/
inductive Request.MovesWork : Request → Prop
  | openSession : MovesWork .openSession
  | closeSession : MovesWork .closeSession
  | access (frame : Byte) (offset : Half) (kind : StoreKind) : MovesWork (.access frame offset kind)
  | copy (ss : SetCode) (sf : Byte) (so : Half) (ds : SetCode) (df : Byte) (dOff : Half) (n : Word) :
      MovesWork (.copy ss sf so ds df dOff n)
  | fill (ds : SetCode) (df : Byte) (dOff : Half) (n pattern : Word) : MovesWork (.fill ds df dOff n pattern)
  | cancel (id : Byte) : MovesWork (.cancel id)
  | eject (target : Byte) : MovesWork (.eject target)

/-- Every other request leaves the work in flight alone. -/
theorem handOver_movesWork_or_sameWork (r : Request) : r.MovesWork ∨ s.SameWork (s.handOver p t r) := by
  cases r with
  | openSession => exact .inl .openSession
  | closeSession => exact .inl .closeSession
  | access frame offset kind => exact .inl (.access _ _ _)
  | copy ss sf so ds df dOff n => exact .inl (.copy _ _ _ _ _ _ _)
  | fill ds df dOff n pattern => exact .inl (.fill _ _ _ _ _)
  | cancel id => exact .inl (.cancel id)
  | eject target => exact .inl (.eject target)
  | info => exact .inr (answer_sameWork _ _ _ _ _)
  | claim => exact .inr (claim_sameWork _ _)
  | handover target => exact .inr (handover_sameWork _ _ _)
  | alloc count => exact .inr (alloc_sameWork _ _ _)
  | free page => exact .inr (free_sameWork _ _ _)
  | grant page target right => exact .inr (grant_sameWork _ _ _ _ _)
  | pageQuery page => exact .inr (pageQuery_sameWork _ _ _)
  | map set frame page access => exact .inr (mapFrame_sameWork _ _ _ _ _ _)
  | unmap set frame => exact .inr (unmapFrame_sameWork _ _ _ _)
  | selectSet set => exact .inr (selectFrames_sameWork _ _ _)
  | mapQuery set first count => exact .inr (mapQuery_sameWork _ _ _ _ _)
  | acquire frame mode lease wait => exact .inr (acquire_sameWork _ _ _ _ _ _)
  | release page => exact .inr (release_sameWork _ _ _)
  | renew page lease => exact .inr (renew_sameWork _ _ _ _)
  | jobQuery id => exact .inr (jobQuery_sameWork _ _ _)
  | configure fields => exact .inr (configure_sameWork _ _ _)
  | drain bank => exact .inr (drain_sameWork _ _ _)
  | restore bank => exact .inr (restore_sameWork _ _ _)
  | poolQuery => exact .inr (answer_sameWork _ _ _ _ _)

theorem handOver_settled (h : s.Ready) (fresh : ∀ a ∈ s.accesses, a.port = p → a.tag ≠ t) (r : Request) :
    (s.handOver p t r).Settled := by
  rcases handOver_movesWork_or_sameWork r with moves | same
  · cases moves with
    | openSession => exact h.settled.of_same (openPort_sameWork h.idle t)
    | closeSession => exact enterClosing_settled h.settled h.locks h.jobs _
    | access frame offset kind => exact handHeld_settled h.settled fresh (.access frame offset kind)
    | copy ss sf so ds df dOff n => exact handHeld_settled h.settled fresh (.copy ss sf so ds df dOff n)
    | fill ds df dOff n pattern => exact handHeld_settled h.settled fresh (.fill ds df dOff n pattern)
    | cancel id => exact cancel_settled h.settled id
    | eject target => exact eject_settled h target
  · exact h.settled.of_same same

theorem handOver_sameDevice (r : Request) : s.SameDevice (s.handOver p t r) := by
  rcases handOver_movesWork_or_sameWork (s := s) (p := p) (t := t) r with moves | same
  · cases moves with
    | openSession => exact openPort_sameDevice
    | closeSession => exact (enterClosing_sameStores _).toSameDevice
    | access frame offset kind => exact handHeld_sameDevice (.access frame offset kind)
    | copy ss sf so ds df dOff n => exact handHeld_sameDevice (.copy ss sf so ds df dOff n)
    | fill ds df dOff n pattern => exact handHeld_sameDevice (.fill ds df dOff n pattern)
    | cancel id => exact (cancel_sameRecords id).toSameDevice
    | eject target => exact eject_sameDevice target
  · exact same.device

theorem State.Ready.occupy (h : s.Ready) (r : Request) (st : SlotState) : (s.occupy p t r st).Ready :=
  h.modPort (f := fun c => { c with slots := c.slots ++ [{ tag := t, request := r, state := st }] }) (fun _ => rfl) (fun _ => rfl)
    (fun _ _ mem => List.mem_append_left _ mem) p

theorem take_settled (h : s.Ready) (fresh : ∀ a ∈ s.accesses, a.port = p → a.tag ≠ t) (r : Request) : (s.take p t r).Settled := by
  unfold State.take
  split
  · exact (h.occupy r .held).settled
  · exact handOver_settled (h.occupy r .inFlight) fresh r

theorem take_sameDevice (r : Request) : s.SameDevice (s.take p t r) := by
  have occupied : ∀ st, s.SameDevice (s.occupy p t r st) := fun _ => ⟨rfl, rfl, rfl, rfl⟩
  unfold State.take
  split
  · exact occupied .held
  · exact (occupied .inFlight).trans (handOver_sameDevice r)

/-- A request that passes the port-level checks bears the tag of no access in flight (R144). -/
theorem State.Ready.fresh (h : s.Ready) {r : Request} (passed : s.portCheck p t r = none) :
    ∀ a ∈ s.accesses, a.port = p → a.tag ≠ t := by
  rintro a mem rfl rfl
  obtain ⟨x, slot, tag⟩ := h.records a mem
  obtain ⟨-, free, -, -⟩ := portCheck_none passed
  exact free x slot tag

theorem judge_settled (h : s.Ready) (code : Byte) (m : Parsed) : (s.judge p t code m).Settled := by
  have refused : ∀ st, (s.refuse p t code st).Settled := fun st => h.settled.of_same (refuse_sameWork p t code st)
  unfold State.judge
  split
  · exact h.settled
  split
  · exact refused _
  · exact refused _
  · next r =>
    split
    · exact refused _
    · next passed => exact take_settled h (h.fresh passed) r

theorem judge_sameDevice (code : Byte) (m : Parsed) : s.SameDevice (s.judge p t code m) := by
  unfold State.judge
  split
  · exact .refl s
  split
  · exact (refuse_sameWork _ _ _ _).device
  · exact (refuse_sameWork _ _ _ _).device
  · split
    · exact (refuse_sameWork _ _ _ _).device
    · exact take_sameDevice _

/-! ## The line (R163 to R173) -/

theorem judgeBody_settled (h : s.Ready) (body : List Byte) : (s.judgeBody p body).Settled := by
  unfold State.judgeBody
  split
  · exact judge_settled h _ _
  all_goals exact h.settled

theorem judgeBody_sameDevice (body : List Byte) : s.SameDevice (s.judgeBody p body) := by
  unfold State.judgeBody
  split
  · exact judge_sameDevice _ _
  all_goals exact .refl s

theorem frameComplete_settled (h : s.Ready) (body : List Byte) : (s.frameComplete p body).Settled := by
  unfold State.frameComplete
  split
  · exact h.settled
  split
  · exact judgeBody_settled h _
  · exact h.settled.of_same (offer_sameWork _ _)

theorem frameComplete_sameDevice (body : List Byte) : s.SameDevice (s.frameComplete p body) := by
  unfold State.frameComplete
  split
  · exact .refl s
  split
  · exact judgeBody_sameDevice _
  · exact (offer_sameWork _ _).device

theorem State.Ready.setRx (h : s.Ready) (rx : RxState) (gap : Option Nat) : (s.setRx p rx gap).Ready :=
  h.modPort (f := fun c => { c with rx := rx, gap := gap }) (fun _ => rfl) (fun _ => rfl) (fun _ _ mem => mem) p

/-- A byte completes a frame, or moves the receiver alone (Table 8-2). -/
theorem receiveByte_completes_or_sameWork (b : Byte) :
    (∃ body, s.receiveByte p b = (s.setRx p .hunt none).frameComplete p body) ∨ s.SameWork (s.receiveByte p b) := by
  simp only [State.receiveByte]
  split
  · split
    · exact .inr (setRx_sameWork _ _ _)
    · exact .inr (.refl s)
  · split
    · exact .inr (setRx_sameWork _ _ _)
    · exact .inr (reject_sameWork _ _ _ _)
  · split
    · exact .inr (setRx_sameWork _ _ _)
    · exact .inr (setRx_sameWork _ _ _)
  · exact .inr (setRx_sameWork _ _ _)
  · split
    · exact .inl ⟨_, rfl⟩
    · exact .inr (reject_sameWork _ _ _ _)
  · exact .inr (setRx_sameWork _ _ _)

theorem receiveByte_settled (h : s.Ready) (b : Byte) : (s.receiveByte p b).Settled := by
  rcases receiveByte_completes_or_sameWork (s := s) (p := p) b with ⟨body, completes⟩ | same
  · rw [completes]
    exact frameComplete_settled (h.setRx _ _) _
  · exact h.settled.of_same same

theorem receiveByte_sameDevice (b : Byte) : s.SameDevice (s.receiveByte p b) := by
  rcases receiveByte_completes_or_sameWork (s := s) (p := p) b with ⟨body, completes⟩ | same
  · rw [completes]
    exact (setRx_sameWork p .hunt none).device.trans (frameComplete_sameDevice _)
  · exact same.device

theorem breakOff_sameWork (p : Port) : s.SameWork (s.modPort p (·.breakOff)) := .modPort fun _ => .of_slots rfl rfl

/-- A break on an OPEN port is its link loss (R158). -/
theorem linkLost_settled (h : s.Ready) : ((s.modPort p (·.breakOff)).enterClosing p .linkLost).Settled := by
  have broken : (s.modPort p (·.breakOff)).Ready :=
    h.modPort (f := (·.breakOff)) (fun _ => rfl) (fun _ => rfl) (fun _ _ mem => mem) p
  exact enterClosing_settled broken.settled broken.locks broken.jobs _

end Sys2Proof.Machine

/-! # Every step keeps the work in flight sound (R40, R54, R63, R64, R107, R121, R203, R205)

In RUNNING the invariant and `State.Settled` say the same (`settled_of_workSound`, `State.Settled.workSound`), and the commands are
the operations of the files above. Outside RUNNING the start-up commands halt the work or clear it. -/
namespace Sys2Proof.Machine

variable {s u v : State} {p : Port}

/-! ## The invariant, in RUNNING and in the other phases -/

theorem State.Settled.workSound (h : s.Settled) : s.WorkSound := by
  have stores := h.stores
  have running := h.running
  have notStarting : s.Starting → False := by
    rintro (clearing | ⟨reset, -⟩)
    · rw [running] at clearing; cases clearing
    · rw [running] at reset; cases reset
  cases h with
  | idle work empty =>
    exact ⟨stores.inPage, stores.counts, stores.recordsOnce, by rw [empty]; nofun, fun some => absurd empty some,
      fun _ => stores.accessOps, fun _ => ⟨fun _ => work.copyOps, by rw [empty]; nofun⟩, fun start => (notStarting start).elim⟩
  | busy j op work bytesLeft outstanding =>
    obtain ⟨mem, active⟩ := (work.jobs.active j).mpr rfl
    refine ⟨stores.inPage, stores.counts, stores.recordsOnce, fun x mem' => ?_, fun _ => ⟨j, mem, active⟩,
      fun _ => stores.accessOps, fun _ => ⟨fun empty => ?_, fun x mem' active' => ?_⟩, fun start => (notStarting start).elim⟩
    · have formed := work.jobs.formed x mem'
      refine job_sound_iff.mpr ⟨formed, ?_⟩
      cases state : x.state with
      | queued => exact formed.bytesLeft state
      | active =>
        cases (work.jobs.active x).mp ⟨mem', state⟩
        exact bytesLeft
    · rw [empty] at mem
      cases mem
    · cases (work.jobs.active x).mp ⟨mem', active'⟩
      exact ⟨op, work.copyOps, outstanding⟩

/-- RUNNING without work. -/
theorem settled_of_empty (running : s.phase = .running) (accesses : s.accesses = []) (jobs : s.jobs = [])
    (queues : ∀ b, s.queue b = []) (port : ∀ p, (s.port p).inFlight = 0) (map : ∀ p, (s.map p).inFlight = 0) : s.Settled := by
  refine .idle ⟨running, ⟨fun b op mem => ?_, fun p => ?_, ?_, fun b => ?_⟩, ⟨?_, ?_, ?_⟩, ?_⟩ jobs
  · rw [queues] at mem; cases mem
  · rw [port, map, accesses]; exact ⟨rfl, rfl⟩
  · rw [accesses]; exact .nil
  · rw [queues, accesses]; rfl
  · rw [jobs]; nofun
  · rw [jobs]; exact .nil
  · rw [jobs]; simp
  · rw [copyOps_eq]; simp [queues]

theorem settled_of_workSound (h : s.WorkSound) (jobs : s.JobQueueSound) (running : s.phase = .running) : s.Settled := by
  have stores : s.StoresAgree := ⟨h.inPage, h.counts, h.recordsOnce, h.accessOps running⟩
  have formed : ∀ j ∈ s.jobs, j.Formed := fun j mem => (job_sound_iff.mp (h.jobs j mem)).1
  obtain ⟨silent, outstanding⟩ := h.copyOps running
  by_cases empty : s.jobs = []
  · exact .idle ⟨running, stores, ⟨formed, jobs.idsOnce, fun j => by rw [empty]; simp⟩, silent empty⟩ empty
  · obtain ⟨j, mem, active⟩ := h.active empty
    obtain ⟨op, copyOps, own⟩ := outstanding j mem active
    refine .busy j op ⟨running, stores, ⟨formed, jobs.idsOnce, fun x => ?_⟩, copyOps⟩ (job_sound_iff.mp (h.jobs j mem)).2 own
    constructor
    · rintro ⟨mem', active'⟩
      rw [eq_of_id jobs.idsOnce mem' mem (jobs.activeOnce x mem' j mem active' active)]
    · rintro ⟨⟩
      exact ⟨mem, active⟩

theorem State.SameDevice.starting (same : s.SameDevice u) (h : u.Starting) : s.Starting := by
  simpa only [State.Starting, same.phase, same.supplyGood, same.resetAsserted, same.nextStart] using h

/-- What leaves the work in flight alone, in any phase. -/
theorem State.WorkSound.of_same (h : s.WorkSound) (same : s.SameWork u) : u.WorkSound := by
  have queue := queue_of_queues same.queues
  refine ⟨?_, fun p => ?_, ?_, ?_, ?_, fun running => ?_, fun running => ?_, fun starting => ?_⟩
  · rw [queue]; exact h.inPage
  · rw [(same.port p).inFlight, same.map, same.accesses]; exact h.counts p
  · rw [same.accesses]; exact h.recordsOnce
  · rw [same.jobs]; exact h.jobs
  · rw [same.jobs]; exact h.active
  · rw [queue, same.accesses]; exact h.accessOps (same.phase ▸ running)
  · rw [copyOps_of_queues same.queues, same.jobs]; exact h.copyOps (same.phase ▸ running)
  · rw [queue, same.accesses, same.jobs, same.phase]; exact h.starting (same.device.starting starting)

/-- In RESET the banks carry their operations to their ends: no queue grows (R72). -/
theorem State.WorkSound.inReset (h : s.WorkSound) (phase : u.phase = .reset) (accesses : u.accesses = s.accesses)
    (jobs : u.jobs = s.jobs) (queues : ∀ b, ∀ op ∈ u.queue b, op ∈ s.queue b)
    (port : ∀ p, (u.port p).inFlight = (s.port p).inFlight) (map : ∀ p, (u.map p).inFlight = (s.map p).inFlight)
    (starting : u.Starting → s.Starting) : u.WorkSound := by
  have notRunning : u.phase ≠ .running := by rw [phase]; nofun
  refine ⟨fun b op mem => h.inPage b op (queues b op mem), fun p => ?_, ?_, ?_, ?_, fun running => absurd running notRunning,
    fun running => absurd running notRunning, fun start => ?_⟩
  · rw [port, map, accesses]; exact h.counts p
  · rw [accesses]; exact h.recordsOnce
  · rw [jobs]; exact h.jobs
  · rw [jobs]; exact h.active
  · obtain ⟨noAccess, noJob, -⟩ := h.starting (starting start)
    exact ⟨accesses.trans noAccess, jobs.trans noJob, by rw [phase]; nofun⟩

/-- A start that has given the tables their values leaves no work, but for what a bank still carries (R72, R121). -/
theorem workSound_of_fresh (fresh : u.FreshTables) (notRunning : u.phase ≠ .running)
    (inPage : ∀ b, ∀ op ∈ u.queue b, bankOf op.page = b ∧ op.offset + op.kind.size ≤ 4096)
    (cleared : u.phase = .clearing → ∀ b, u.queue b = []) : u.WorkSound := by
  refine ⟨inPage, fun p => ?_, ?_, ?_, ?_, fun running => absurd running notRunning, fun running => absurd running notRunning,
    fun _ => ⟨fresh.accesses, fresh.jobs, cleared⟩⟩
  · obtain ⟨-, -, noAccess⟩ := fresh.selection p
    rw [(fresh.ports p).inFlight, noAccess, fresh.accesses]
    exact ⟨rfl, rfl⟩
  · rw [fresh.accesses]; exact .nil
  · rw [fresh.jobs]; nofun
  · rw [fresh.jobs]; exact absurd rfl

/-! ## What a command finds, and what it keeps -/

/-- What the commands need of a sound state. The queue of commands has no part in it. -/
structure State.AtRest (s : State) : Prop where
  phase : s.PhaseSound
  work : s.WorkSound
  locks : s.LockTableSound
  jobs : s.JobQueueSound
  closed : ∀ p, (s.port p).session = .closed → (s.port p).inFlight = 0
  records : ∀ a ∈ s.accesses, ∃ x ∈ (s.port a.port).slots, x.tag = a.tag
  apart : ∀ p, s.HeldApart p

theorem State.AtRest.ready (h : s.AtRest) (running : s.phase = .running) : s.Ready :=
  ⟨settled_of_workSound h.work h.jobs running, h.locks, h.jobs, h.closed, h.records⟩

/-- The slot of a record is IN-FLIGHT, so that the tag of a HELD one is no record's (R54, R147). -/
theorem State.Sound.heldApart (h : s.Sound) (p : Port) : s.HeldApart p := by
  have tags := (h.ports p).tags
  refine ⟨tags.sublist (List.filter_sublist.map _), fun x held a mem own same => ?_⟩
  obtain ⟨slot, isHeld⟩ := List.mem_filter.mp held
  obtain ⟨y, slot', tag, inFlight⟩ := h.slots.records a mem
  rw [own] at slot'
  rw [List.inj_on_of_nodup_map tags slot' slot (tag.trans same)] at inFlight
  simp [inFlight] at isHeld

theorem State.Sound.atRest (h : s.Sound) : s.AtRest where
  phase := h.phase
  work := h.work
  locks := h.locks
  jobs := h.jobs
  closed p closed := (h.sessions.closed p closed).1
  records a mem := by
    obtain ⟨x, slot, tag, -⟩ := h.slots.records a mem
    exact ⟨x, slot, tag⟩
  apart := h.heldApart

theorem pending_sameWork (rest : List Instr) : s.SameWork { s with pending := rest } :=
  .of_tables ⟨⟨rfl, rfl, rfl, rfl⟩, rfl⟩ rfl rfl rfl rfl

/-- The command that is taken leaves its queue. -/
theorem State.AtRest.taken (h : s.AtRest) (rest : List Instr) : ({ s with pending := rest } : State).AtRest where
  phase := ⟨h.phase.line, h.phase.supply⟩
  work := h.work.of_same (pending_sameWork rest)
  locks := h.locks.of_locks rfl
  jobs := h.jobs.of_jobs rfl
  closed := h.closed
  records := h.records
  apart p := (h.apart p).of_same (pending_sameWork rest).stores

/-- What a command does to the phase and to the work in flight. -/
structure State.KeepsWork (s u : State) : Prop where
  phase : s.PhaseSound → u.PhaseSound
  work : s.AtRest → u.WorkSound

theorem State.SameDevice.phaseSound (same : s.SameDevice u) (h : s.PhaseSound) : u.PhaseSound :=
  ⟨fun line => by rw [same.phase]; exact h.line (same.resetAsserted ▸ line),
    fun supply => by rw [same.phase]; exact h.supply (same.supplyGood ▸ supply)⟩

theorem State.SameWork.keepsWork (same : s.SameWork u) : s.KeepsWork u := ⟨same.device.phaseSound, fun h => h.work.of_same same⟩

theorem State.KeepsWork.refl (s : State) : s.KeepsWork s := (State.SameWork.refl s).keepsWork

/-- A command's effect made under a condition. -/
theorem ite_keepsWork {c : Prop} [Decidable c] (h : c → s.KeepsWork u) : s.KeepsWork (if c then u else s) := by
  split
  · next holds => exact h holds
  · exact .refl s

/-- A command's effect in RUNNING. -/
theorem keepsWork_of_running (running : s.isRunning = true) (same : s.SameDevice u)
    (settled : s.Ready → (∀ p, s.HeldApart p) → u.Settled) : s.KeepsWork u :=
  ⟨same.phaseSound, fun h => (settled (h.ready (isRunning_iff.mp running)) h.apart).workSound⟩

theorem receive_keepsWork (p : Port) (t : Tag) (code : Byte) (m : Parsed) : s.KeepsWork (s.receive p t code m) :=
  ite_keepsWork fun heard => keepsWork_of_running heard.1 (judge_sameDevice code m) fun ready _ => judge_settled ready code m

theorem breakBegins_keepsWork (p : Port) : s.KeepsWork (s.breakBegins p) := by
  unfold State.breakBegins
  split
  · exact .refl s
  split
  · next running =>
    dsimp only
    split
    · exact keepsWork_of_running running ((breakOff_sameWork p).device.trans (enterClosing_sameStores _).toSameDevice)
        fun ready _ => linkLost_settled ready
    · exact (breakOff_sameWork p).keepsWork
  · exact (State.SameWork.modPort (f := fun c => { c with breakInForce := true }) fun _ => .of_slots rfl rfl).keepsWork

/-! ## Start-up (R72, R203 to R205) -/

/-- A device in RESET is sound of phase. -/
theorem phaseSound_of_reset (phase : s.phase = .reset) : s.PhaseSound := ⟨fun _ => phase, fun _ => phase⟩

theorem phaseSound_of_released (released : s.resetAsserted = false) (good : s.supplyGood = true) : s.PhaseSound :=
  ⟨by rw [released]; nofun, by rw [good]; nofun⟩

/-- RESET stops the device; it leaves records and jobs, and one operation in each bank (R72). -/
theorem halted_workSound (h : s.WorkSound) (halted : u.HaltedFrom s) (notStarting : ¬ u.Starting) : u.WorkSound := by
  have accesses : u.accesses = s.accesses := by rw [halted.rest]
  have jobs : u.jobs = s.jobs := by rw [halted.rest]
  have map : u.map = s.map := by rw [halted.rest]; rfl
  refine h.inReset halted.phase accesses jobs (fun b op mem => ?_) (fun p => ?_) (fun p => by rw [map])
    fun starting => absurd starting notStarting
  · rw [halted.queues] at mem
    exact List.mem_of_mem_take mem
  · rw [halted.ports]

theorem halt_keepsWork (good asserted : Bool) (start : ResetKind) (down : good = false ∨ asserted = true) :
    s.KeepsWork { s.haltDevice with supplyGood := good, resetAsserted := asserted, nextStart := start } := by
  refine ⟨fun _ => phaseSound_of_reset rfl, fun h => halted_workSound h.work haltedFrom_haltDevice ?_⟩
  rintro (clearing | ⟨-, supply, line, -⟩)
  · cases clearing
  · rcases down with rfl | rfl
    · cases supply
    · cases line

/-- CLEARING gives every table its value of power-on. -/
theorem clear_keepsWork (good asserted : Bool) (start : ResetKind) (up : good = true) (released : asserted = false) :
    s.KeepsWork { s.powerOnTables with
      phase := .clearing, supplyGood := good, resetAsserted := asserted, nextStart := start } := by
  have queues : ∀ b, ({ s.powerOnTables with
      phase := .clearing, supplyGood := good, resetAsserted := asserted, nextStart := start } : State).queue b = [] :=
    powerOnTables_queue (s := s)
  refine ⟨fun _ => phaseSound_of_released released up, fun _ => workSound_of_fresh ?_ nofun (fun b op mem => ?_) fun _ => queues⟩
  · exact freshTables_of (fun p => ⟨_, powerOnTables_port (s := s) p⟩) (powerOnTables_map (s := s)) rfl
      (powerOnTables_ownedBy (s := s)) rfl rfl rfl rfl rfl rfl
  · rw [queues] at mem
    cases mem

theorem powerOn_keepsWork :
    s.KeepsWork (if s.resetAsserted then { s.haltDevice with supplyGood := true, nextStart := .powerOn }
      else { s.powerOnTables with phase := .clearing, supplyGood := true, nextStart := .powerOn }) := by
  split
  · next asserted => exact halt_keepsWork true s.resetAsserted .powerOn (.inr asserted)
  · next released => exact clear_keepsWork true s.resetAsserted .powerOn rfl (by simpa using released)

/-- The release of the reset line (R205). The device is in RESET while the line is asserted. -/
theorem releaseReset_keepsWork (asserted : s.resetAsserted = true) : s.KeepsWork s.releaseReset := by
  unfold State.releaseReset
  dsimp only
  split
  · next down =>
    have down : s.supplyGood = false := by simpa using down
    refine ⟨fun h => phaseSound_of_reset (h.line asserted), fun h => ?_⟩
    refine h.work.inReset (h.phase.line asserted) rfl rfl (fun _ _ mem => mem) (fun _ => rfl) (fun _ => rfl) fun start => ?_
    rcases start with clearing | ⟨-, supply, -⟩
    · exact .inl clearing
    · rw [show ({ s with resetAsserted := false } : State).supplyGood = s.supplyGood from rfl, down] at supply
      cases supply
  · next up =>
    have up : s.supplyGood = true := by simpa using up
    split
    · refine ⟨fun _ => phaseSound_of_released rfl up, fun h => ?_⟩
      have reset : ({ s with resetAsserted := false } : State).resetLineTables.phase = .reset := h.phase.line asserted
      exact workSound_of_fresh resetLineTables_freshTables (by rw [reset]; nofun) h.work.inPage (by rw [reset]; nofun)
    · exact clear_keepsWork s.supplyGood false s.nextStart up rfl

/-- A device that may enter RUNNING has started, and its banks have nothing to carry (R203, R205). -/
theorem starting_of_mayRun (h : s.mayRun = true) :
    s.Starting ∧ (s.phase = .clearing ∨ ∀ b, s.queue b = []) := by
  unfold State.mayRun at h
  split at h
  · cases h
  · next clearing => exact ⟨.inl clearing, .inl clearing⟩
  · next reset =>
    simp only [Bool.and_eq_true, Bool.not_eq_true', beq_iff_eq, List.all_eq_true, List.isEmpty_iff] at h
    obtain ⟨⟨⟨supply, line⟩, start⟩, queues⟩ := h
    exact ⟨.inr ⟨reset, supply, line, start⟩, .inr fun b => queues b (List.mem_finRange b)⟩

theorem enterRunning_keepsWork (h : s.mayRun = true) (straps : Vector Straps 4) : s.KeepsWork (s.enterRunning straps) := by
  obtain ⟨starting, queues⟩ := starting_of_mayRun h
  rw [enterRunning_eq]
  refine ⟨fun sound => ?_, fun rest => State.Settled.workSound ?_⟩
  · rcases starting with clearing | ⟨-, supply, line, -⟩
    · have up : s.supplyGood = true := by
        by_contra down
        rw [sound.supply (by simpa using down)] at clearing
        cases clearing
      have released : s.resetAsserted = false := by
        by_contra asserted
        rw [sound.line (by simpa using asserted)] at clearing
        cases clearing
      exact phaseSound_of_released released up
    · exact phaseSound_of_released line supply
  · obtain ⟨noAccess, noJob, cleared⟩ := rest.work.starting starting
    have empty : ∀ b, s.queue b = [] := queues.elim cleared id
    have idle : ∀ p, (s.port p).inFlight = 0 ∧ (s.map p).inFlight = 0 := by simpa [noAccess] using rest.work.counts
    refine settled_of_empty rfl noAccess noJob empty (fun p => ?_) fun p => ?_
    · rw [State.port, Fin.getElem_fin, getElem_mapEach, (told_offerEvent _ _).inFlight]
      exact (idle p).1
    · exact (idle p).2

/-- In RESET a bank ends the operation it carries (R72). -/
theorem carryOp_keepsWork (reset : s.phase = .reset) (b : BankNo) (outcome : StoreOutcome) : s.KeepsWork (s.carryOp b outcome) := by
  unfold State.carryOp
  split
  · exact .refl s
  next op rest head =>
  dsimp only
  have fell : s.SameWork (if outcome = .uncorrectable ∧ op.kind.reads then s.befallBad op else s.befall) := by
    split
    · exact befallBad_sameWork op
    · exact befall_sameWork
  generalize (if outcome = .uncorrectable ∧ op.kind.reads then s.befallBad op else s.befall) = m at fell ⊢
  have device : s.SameDevice ({ m with pool := op.perform m.pool }.modQueue b List.tail) := fell.device.trans ⟨rfl, rfl, rfl, rfl⟩
  refine ⟨device.phaseSound, fun h => h.work.inReset (device.phase.trans reset) fell.accesses fell.jobs (fun x op mem => ?_)
    (fun p => (fell.port p).inFlight) fell.map device.starting⟩
  rw [State.queue_modQueue] at mem
  rw [← queue_sameWork fell]
  split at mem
  · next here => rw [here]; exact List.mem_of_mem_tail mem
  · exact mem

/-! ## Every command, and every step -/

/-- A command that leaves the work in flight alone, in RUNNING. -/
theorem ite_sameWork_keepsWork {c : Prop} [Decidable c] (same : s.SameWork u) : s.KeepsWork (if c then u else s) :=
  ite_keepsWork fun _ => same.keepsWork

theorem exec_keepsWork (i : Instr) (s : State) : ∃ u, exec i s = .next u ∧ s.KeepsWork u := by
  cases i
  case byteReceived p b =>
    exact ⟨_, rfl, ite_keepsWork fun heard =>
      keepsWork_of_running heard.1 (receiveByte_sameDevice b) fun ready _ => receiveByte_settled ready b⟩
  case characterError p => exact ⟨_, rfl, ite_sameWork_keepsWork (receiveError_sameWork p)⟩
  case breakBegins p => exact ⟨_, rfl, breakBegins_keepsWork p⟩
  case breakEnds p => exact ⟨_, rfl, (breakEnds_sameWork p).keepsWork⟩
  case gapTimerRunsOut p => exact ⟨_, rfl, ite_sameWork_keepsWork (gapRunOut_sameWork p)⟩
  case resyncEnd p => exact ⟨_, rfl, ite_sameWork_keepsWork (resyncRunOut_sameWork p)⟩
  case lastByteSent p => exact ⟨_, rfl, ite_sameWork_keepsWork (.modPort sent_sameWork)⟩
  case tick => exact ⟨_, rfl, ite_sameWork_keepsWork (takeDue_sameWork.trans lowerTimers_sameWork)⟩
  case leaseExpiry q p => exact ⟨_, rfl, ite_sameWork_keepsWork (leaseRunOut_sameWork q p)⟩
  case waitTimeout q p => exact ⟨_, rfl, ite_sameWork_keepsWork (waitRunOut_sameWork q p)⟩
  case grantStep q => exact ⟨_, rfl, ite_sameWork_keepsWork (grantStep_sameWork q)⟩
  case bankOffline b => exact ⟨_, rfl, ite_sameWork_keepsWork (bankOfflineCheck_sameWork b)⟩
  case closedReached p => exact ⟨_, rfl, ite_sameWork_keepsWork (closedCheck_sameWork p)⟩
  case accessCompletionGood b =>
    exact ⟨_, rfl, ite_keepsWork fun running =>
      keepsWork_of_running running (accessGood_sameDevice b) fun ready apart => accessGood_settled ready.settled apart b⟩
  case accessCompletionUncorrectable b =>
    exact ⟨_, rfl, ite_keepsWork fun running =>
      keepsWork_of_running running (accessBad_sameDevice b) fun ready apart => accessBad_settled ready.settled apart b⟩
  case switch p =>
    exact ⟨_, rfl, ite_keepsWork fun running =>
      keepsWork_of_running running switchCheck_sameDevice fun ready apart => switchCheck_settled ready.settled (apart p)⟩
  case jobChoice =>
    exact ⟨_, rfl, ite_keepsWork fun running =>
      keepsWork_of_running running choose_sameRecords.toSameDevice fun ready _ => ready.settled.choose⟩
  case copyReadComplete b =>
    exact ⟨_, rfl, ite_keepsWork fun running =>
      keepsWork_of_running running (copyReadGood_sameDevice b) fun ready _ => copyReadGood_settled ready.settled b⟩
  case copyReadUncorrectable b =>
    exact ⟨_, rfl, ite_keepsWork fun running =>
      keepsWork_of_running running (copyReadBad_sameDevice b) fun ready _ => copyReadBad_settled ready.settled b⟩
  case copyWriteComplete b =>
    exact ⟨_, rfl, ite_keepsWork fun running =>
      keepsWork_of_running running (copyWriteGood_sameDevice b) fun ready _ => copyWriteGood_settled ready.settled b⟩
  case powerOn => exact ⟨_, rfl, powerOn_keepsWork⟩
  case supplyFails => exact ⟨_, rfl, halt_keepsWork false s.resetAsserted .powerOn (.inl rfl)⟩
  case resetAsserted =>
    refine ⟨_, rfl, ?_⟩
    split
    · exact .refl s
    · exact halt_keepsWork s.supplyGood true s.startAfterAssertion (.inr rfl)
  case resetReleased => exact ⟨_, rfl, ite_keepsWork releaseReset_keepsWork⟩
  case runningEntry => exact ⟨_, rfl, ite_keepsWork fun may => enterRunning_keepsWork may _⟩
  case operationCarriedToEnd b outcome => exact ⟨_, rfl, ite_keepsWork fun reset => carryOp_keepsWork reset b outcome⟩
  all_goals exact ⟨_, rfl, receive_keepsWork _ _ _ _⟩

/-- A step takes one command from the queue of commands. -/
theorem step_keepsWork (h : step s = .next u) : u = s ∨ ∃ rest, ({ s with pending := rest } : State).KeepsWork u := by
  unfold step at h
  split at h
  · cases h; exact .inl rfl
  · next c rest _ =>
    obtain ⟨v, taken, keeps⟩ := exec_keepsWork c { s with pending := rest }
    rw [taken] at h
    cases h
    exact .inr ⟨rest, keeps⟩

/-- Settles O58: every command is a change of one settled state of the Copy Engine and the Access Unit into another, or a
command of start-up. -/
theorem stepsKeepWorkInFlightSound : Obligations.StepsKeepWorkInFlightSound := by
  refine ⟨fun s u sound taken => ?_, fun s u sound taken => ?_⟩
  · rcases step_keepsWork taken with rfl | ⟨rest, keeps⟩
    · exact sound
    · exact keeps.phase ⟨sound.line, sound.supply⟩
  · rcases step_keepsWork taken with rfl | ⟨rest, keeps⟩
    · exact sound.work
    · exact keeps.work (sound.atRest.taken rest)

end Sys2Proof.Machine

/-! # Every step keeps the pool in its canonical form (R55, R66) -/
namespace Sys2Proof.Machine

variable {s u : State}

/-- Every move keeps the pool's canonical form: faults, the operations that banks perform and CLEARING alone change the pool. -/
theorem State.PoolCanonical.move (m : Move s u) (h : s.PoolCanonical) : u.PoolCanonical := by
  cases m
  case strike fs rest => exact wf_strikes h fs
  case spoil w => exact wf_spoil h w
  case take p n _ =>
    have kept : (s.takePages p n).pool = s.pool :=
      foldl_keeps (g := State.pool) (f := fun s q => State.allocPage s p q) (fun _ _ => rfl) _ _
    exact (congrArg Pool.wf kept).trans h
  case pop b op rest m head performed =>
    rcases performed with rfl | rfl
    · exact h
    · exact wf_store h op
  case carry b op rest head => exact wf_perform h op
  case clear =>
    have emptied : s.powerOnTables.pool = { cells := [], damage := [] } := by rw [State.powerOnTables, State.reset]
    have empty : ({ cells := [], damage := [] } : Pool).wf = true := by decide
    exact (congrArg Pool.wf emptied).trans empty
  all_goals exact h

/-- Settles O50: move by move. -/
theorem stepsKeepThePoolCanonical : Obligations.StepsKeepThePoolCanonical := fun _ _ h taken =>
  step_keeps (fun _ _ m => State.PoolCanonical.move m) (fun _ _ => id) taken h

end Sys2Proof.Machine

/-! # What a read delivers, and what a write and a fault leave of it (R66) -/
namespace Sys2Proof.Machine

variable {m : Pool} {a w n : Nat}

/-! ## What a read delivers -/

theorem delivers_of_agreeing (agrees : m.damageOf w = none) : m.delivers w = some (readWord m.cells (4 * w)) := by
  rw [Pool.delivers, agrees]

theorem delivers_of_damaged {d : DamagedWord} (damaged : m.damageOf w = some d) : m.delivers w = d.repaired := by
  rw [Pool.delivers, damaged]

theorem byte_of_agreeing (agrees : m.damageOf (a / 4) = none) : m.byte a = readByte m.cells a := by
  rw [Pool.byte, agrees, Option.bind_none]

theorem byte_of_repaired {d : DamagedWord} {v : Word} (damaged : m.damageOf (a / 4) = some d) (repaired : d.repaired = some v) :
    m.byte a = (v >>> (8 * (a % 4))).setWidth 8 := by
  rw [Pool.byte, damaged, Option.bind_some, repaired]

/-- What a read delivers rests on the stored word and on the record of its damage. -/
theorem delivers_congr {u : Pool} (damage : u.damageOf w = m.damageOf w)
    (stored : readWord u.cells (4 * w) = readWord m.cells (4 * w)) : u.delivers w = m.delivers w := by
  rw [Pool.delivers, damage, stored, Pool.delivers]

theorem word_of_byte {i : Nat} (h : i < 4) : (4 * w + i) / 4 = w ∧ (4 * w + i) % 4 = i := by omega

/-- The bytes read of a word are those of what its read delivers. -/
theorem wordAt_of_delivers {v : Word} (delivered : m.delivers w = some v) : m.wordAt (4 * w) = v := by
  cases damage : m.damageOf w with
  | none =>
    have byte : ∀ i < 4, m.byte (4 * w + i) = readByte m.cells (4 * w + i) := fun i h =>
      byte_of_agreeing (by rw [(word_of_byte h).1, damage])
    rw [delivers_of_agreeing damage, Option.some.injEq] at delivered
    rw [← delivered, Pool.wordAt, readWord, byte 1 (by omega), byte 2 (by omega), byte 3 (by omega)]
    exact congrArg (wordOf · _ _ _) (byte 0 (by omega))
  | some d =>
    rw [delivers_of_damaged damage] at delivered
    have byte : ∀ i < 4, m.byte (4 * w + i) = (v >>> (8 * i)).setWidth 8 := fun i h => by
      rw [byte_of_repaired (by rw [(word_of_byte h).1, damage]) delivered, (word_of_byte h).2]
    have first : m.byte (4 * w) = v.setWidth 8 := by simpa using byte 0 (by omega)
    rw [Pool.wordAt, first, byte 1 (by omega), byte 2 (by omega), byte 3 (by omega), wordOf_bytes]

theorem readable_iff : m.readable a n = true ↔ ∀ i < n, m.delivers ((a + i) / 4) ≠ none := by
  simp only [Pool.readable, List.all_eq_true, List.mem_range, Option.isSome_iff_ne_none]

theorem StoreOp.readable_of_reads {op : StoreOp} (reads : op.kind.reads = true) :
    op.readable m = m.readable op.addr op.kind.size := by
  rw [StoreOp.readable, reads, Bool.not_true, Bool.false_or]

/-! ## A write (R66) -/

theorem rising_cells (h : m.wf = true) : Rising m.cells := (wf_iff.mp (Pool.wf_iff.mp h).1).1

/-- A pool after a write of n bytes from an address up: the other bytes stand, and the check code of every word that the write
touches, and of no other, is renewed. -/
def Pool.RenewedAt (u m : Pool) (a n : Nat) : Prop :=
  (∀ x, x < a ∨ a + n ≤ x → readByte u.cells x = readByte m.cells x) ∧
    ∀ w, ((∃ i < n, (a + i) / 4 = w) → u.damageOf w = none) ∧ ((∀ i < n, (a + i) / 4 ≠ w) → u.damageOf w = m.damageOf w)

theorem damageOf_write_of_touched {bs : List Byte} (touched : ∃ i < bs.length, (a + i) / 4 = w) :
    (m.write a bs).damageOf w = none := by
  obtain ⟨i, hi, at_⟩ := touched
  refine List.find?_eq_none.mpr fun d mem same => ?_
  have apart := (List.mem_filter.mp mem).2
  simp only [Bool.not_eq_true', List.any_eq_false, List.mem_range, beq_iff_eq] at apart same
  exact apart i hi (at_.trans same.symm)

theorem damageOf_write_of_apart {bs : List Byte} (apart : ∀ i < bs.length, (a + i) / 4 ≠ w) :
    (m.write a bs).damageOf w = m.damageOf w := by
  rw [Pool.damageOf, Pool.write, List.find?_filter]
  refine List.find?_congr fun d _ => ?_
  by_cases same : d.word.val = w
  · simpa [same] using apart
  · simp [same]

theorem renewedAt_write (h : m.wf = true) (a : Nat) (bs : List Byte) : (m.write a bs).RenewedAt m a bs.length := by
  refine ⟨fun x outside => ?_, fun w => ⟨damageOf_write_of_touched, damageOf_write_of_apart⟩⟩
  exact (readByte_writeBytes (rising_cells h) a bs x).trans (if_neg (by omega))

/-- A byte written is the byte read. -/
theorem byte_write (h : m.wf = true) {bs : List Byte} {i : Nat} (hi : i < bs.length) : (m.write a bs).byte (a + i) = bs[i] := by
  rw [byte_of_agreeing (damageOf_write_of_touched ⟨i, hi, rfl⟩)]
  refine (readByte_writeBytes (rising_cells h) a bs (a + i)).trans ?_
  rw [if_pos (by omega)]
  simp [hi]

/-- A word written is the word read, whatever its address. -/
theorem wordAt_write (h : m.wf = true) (a : Nat) (v : Word) : (m.write a (wordBytes v)).wordAt a = v := by
  have byte : ∀ i (hi : i < 4), (m.write a (wordBytes v)).byte (a + i) = (wordBytes v)[i] := fun i hi => byte_write h hi
  have first : (m.write a (wordBytes v)).byte a = v.setWidth 8 := byte 0 (by omega)
  rw [Pool.wordAt, first, byte 1 (by omega), byte 2 (by omega), byte 3 (by omega)]
  exact wordOf_bytes v

/-! ## A fault (R66) -/

theorem find?_word_cons (d : DamagedWord) (l : List DamagedWord) :
    (d :: l).find? (·.word.val == w) = if w = d.word.val then some d else l.find? (·.word.val == w) := by
  by_cases own : w = d.word.val
  · rw [if_pos own, List.find?_cons_of_pos (by simp [own])]
  · rw [if_neg own, List.find?_cons_of_neg (by simpa using Ne.symm own)]

/-- A record put in its place is the one found of its word, and no other word's record changes. -/
theorem find?_insertDamage (d : DamagedWord) (l : List DamagedWord) :
    (insertDamage d l).find? (·.word.val == w) = if w = d.word.val then some d else l.find? (·.word.val == w) := by
  induction l with
  | nil => exact find?_word_cons d []
  | cons x l ih =>
    rw [insertDamage]
    split
    · exact find?_word_cons d (x :: l)
    split
    · next same =>
      rw [find?_word_cons, find?_word_cons, ← same]
      split <;> rfl
    · next other =>
      rw [find?_word_cons, ih, find?_word_cons]
      by_cases own : w = d.word.val
      · rw [if_neg fun e => other (Fin.ext (own.symm.trans e)), if_pos own, if_pos own]
      · rw [if_neg own, if_neg own]

/-- A fault beyond repair leaves the other words as they were. -/
theorem delivers_spoil (m : Pool) (x : WordNo) (w : Nat) : (m.spoil x).delivers w = if w = x.val then none else m.delivers w := by
  have damage : (m.spoil x).damageOf w = if w = x.val then some { word := x, repaired := none } else m.damageOf w :=
    find?_insertDamage _ _
  split
  · next own => rw [delivers_of_damaged (damage.trans (if_pos own))]
  · next other => exact delivers_congr (damage.trans (if_neg other)) rfl

/-- What the check code of a struck word makes of it. -/
def Pool.repairOf (m : Pool) (f : WordFault) : Option Word := if f.repairable = true then m.delivers f.word else none

/-- A fault renews the record of its word alone; a stored value that its code agrees with is no damage. -/
theorem damageOf_strike (m : Pool) (f : WordFault) (w : Nat) :
    (m.strike f).damageOf w =
      if w = f.word.val then
        if m.repairOf f = some f.stored then none else some { word := f.word, repaired := m.repairOf f }
      else m.damageOf w := by
  by_cases agrees : m.repairOf f = some f.stored
  · have damage : (m.strike f).damage = m.damage.filter (·.word ≠ f.word) := if_pos agrees
    rw [Pool.damageOf, damage, if_pos agrees]
    split
    · next own =>
      refine List.find?_eq_none.mpr fun d mem same => ?_
      have apart : d.word ≠ f.word := by simpa using (List.mem_filter.mp mem).2
      exact apart (Fin.ext ((beq_iff_eq.mp same).trans own))
    · next other =>
      rw [List.find?_filter]
      refine List.find?_congr fun d _ => ?_
      by_cases same : d.word.val = w
      · have apart : d.word ≠ f.word := fun e => other (by rw [← same, e])
        simp [same, apart]
      · simp [same]
  · have damage : (m.strike f).damage = insertDamage { word := f.word, repaired := m.repairOf f } m.damage := if_neg agrees
    rw [Pool.damageOf, damage, find?_insertDamage, if_neg agrees]
    rfl

section
variable (h : m.wf = true) (f : WordFault)
include h

theorem readWord_strike : readWord (m.strike f).cells (4 * f.word) = f.stored :=
  readWord_writeWord (rising_cells h) _ _

theorem readWord_strike_of_ne (other : w ≠ f.word) : readWord (m.strike f).cells (4 * w) = readWord m.cells (4 * w) :=
  readWord_writeBytes (rising_cells h) fun i hi => by
    rw [length_wordBytes] at hi
    omega

/-- A read of a word that a fault has struck delivers what its code makes of it. -/
theorem delivers_strike : (m.strike f).delivers f.word = m.repairOf f := by
  have damage := damageOf_strike m f f.word
  rw [if_pos rfl] at damage
  split at damage
  · next agrees => rw [delivers_of_agreeing damage, readWord_strike h f, agrees]
  · exact delivers_of_damaged damage

/-- A fault leaves what a read delivers of the other words. -/
theorem delivers_strike_of_ne (other : w ≠ f.word) : (m.strike f).delivers w = m.delivers w :=
  delivers_congr ((damageOf_strike m f w).trans (if_neg other)) (readWord_strike_of_ne h f other)

end

end Sys2Proof.Machine

/-! # Store operations on the pool, and the faults of the medium (R55 to R62, R66) -/
namespace Sys2Proof.Machine

variable {s : State} {op : StoreOp} {m : Pool}

/-! ## When an operation can complete good (R65, R66) -/

theorem readable_of_write {data : List Byte} (kind : op.kind = .write data) : op.readable m = true := by
  rw [StoreOp.readable, kind]
  rfl

theorem StoreOp.readable_iff_of_reads (reads : op.kind.reads = true) :
    op.readable m = true ↔ ∀ i < op.kind.size, m.delivers ((op.addr + i) / 4) ≠ none := by
  rw [StoreOp.readable_of_reads reads, readable_iff]

/-! ## Reads and writes -/

section
variable {n : Nat} {data : List Byte}

theorem store_of_read (kind : op.kind = .read n) : op.store m = m := by rw [StoreOp.store, kind]

theorem result_of_read (kind : op.kind = .read n) : op.result m = .bytes (m.bytes op.addr n) := by rw [StoreOp.result, kind]

theorem store_of_write (kind : op.kind = .write data) : op.store m = m.write op.addr data := by rw [StoreOp.store, kind]

theorem result_of_write (kind : op.kind = .write data) : op.result m = .none := by rw [StoreOp.result, kind]

end

/-! ## Atomics (R58 to R62) -/

section
variable {a : AtomicOp} {new : Word} {pay : Payload} (kind : op.kind = .readThenWrite a)
include kind

/-- An atomic whose outcome calls for no store leaves the pool. -/
theorem atomic_leaves (run : a.run (m.wordAt op.addr) = (none, pay)) : op.store m = m ∧ op.result m = pay := by
  simp only [StoreOp.store, StoreOp.result, kind, run, and_self]

/-- An atomic whose outcome calls for a store writes one word. -/
theorem atomic_stores (h : m.wf = true) (run : a.run (m.wordAt op.addr) = (some new, pay)) :
    ((op.store m).wordAt op.addr = new ∧ (op.store m).RenewedAt m op.addr 4) ∧ op.result m = pay := by
  have stored : op.store m = m.write op.addr (wordBytes new) := by simp only [StoreOp.store, kind, run]
  have result : op.result m = pay := by simp only [StoreOp.result, kind, run]
  rw [stored]
  exact ⟨⟨wordAt_write h op.addr new, renewedAt_write h op.addr (wordBytes new)⟩, result⟩

/-- A word at its own address that an atomic can read is the word it reads. -/
theorem atomic_delivers (aligned : op.addr % 4 = 0) (readable : op.readable m = true) :
    m.delivers (op.addr / 4) = some (m.wordAt op.addr) := by
  have all : ∀ i < 4, m.delivers ((op.addr + i) / 4) ≠ none := by
    rw [StoreOp.readable_iff_of_reads (by rw [kind]; rfl), kind] at readable
    exact readable
  obtain ⟨v, delivered⟩ := Option.ne_none_iff_exists'.mp (all 0 (by decide))
  rw [Nat.add_zero] at delivered
  have word := wordAt_of_delivers delivered
  rw [Nat.mul_div_cancel' (Nat.dvd_of_mod_eq_zero aligned)] at word
  rw [delivered, word]

end

/-- The word with one bit cleared (R61). -/
theorem getLsbD_clearBit (w : Word) (bit i : Nat) :
    (w &&& ~~~(1#32 <<< bit)).getLsbD i = (w.getLsbD i && decide (i ≠ bit)) := by
  by_cases inWord : i < 32
  · have mask : (~~~(1#32 <<< bit)).getLsbD i = decide (i ≠ bit) := by
      rw [Bool.eq_iff_iff]
      simp [inWord]
      omega
    rw [BitVec.getLsbD_and, mask]
  · rw [BitVec.getLsbD_of_ge _ _ (by omega), BitVec.getLsbD_of_ge w _ (by omega), Bool.false_and]

/-- Settles O33: an atomic stores one word or leaves the pool, as its outcome says. -/
theorem storeOperationsOnThePool : Obligations.StoreOperationsOnThePool := by
  intro op m h
  refine ⟨fun n kind => ⟨store_of_read kind, result_of_read kind⟩, fun data kind => ?_, fun a kind => ?_⟩
  · rw [store_of_write kind]
    exact ⟨result_of_write kind, renewedAt_write h op.addr data, fun i hi => byte_write h hi⟩
  refine ⟨atomic_delivers kind, fun v swap => ?_, fun expected new cas => ⟨fun same => ?_, fun other => ?_⟩,
    fun d add => ?_, fun bit testclr _ => ⟨fun isSet => ?_, fun isClear => ?_⟩,
    fun dectest => ⟨fun zero => ?_, fun one => ?_, fun notZero notOne => ?_⟩⟩
  · subst swap; exact atomic_stores kind h rfl
  · subst cas; exact atomic_stores kind h (if_pos same)
  · subst cas; exact atomic_leaves kind (if_neg other)
  · subst add; exact atomic_stores kind h rfl
  · subst testclr
    obtain ⟨⟨stored, renewed⟩, result⟩ := atomic_stores kind h (if_pos isSet)
    exact ⟨result, renewed, fun i => by rw [stored]; exact getLsbD_clearBit _ bit i⟩
  · subst testclr; exact atomic_leaves kind (if_neg (by rw [isClear]; nofun))
  · subst dectest; exact atomic_leaves kind (if_pos zero)
  · subst dectest; exact atomic_stores kind h ((if_neg (by rw [one]; decide)).trans (if_pos one))
  · subst dectest; exact atomic_stores kind h ((if_neg notZero).trans (if_neg notOne))

/-! ## Faults of the medium -/

theorem befall_of_noFaults (none : s.faults = []) : s.befall = s := by rw [State.befall, none]

theorem befall_of_faults {fs : List WordFault} {rest : List (List WordFault)} (faults : s.faults = fs :: rest) :
    s.befall = { s with pool := fs.foldl Pool.strike s.pool, faults := rest } := by rw [State.befall, faults]

/-- An offset in a page names a word of the pool. -/
theorem firstWord_val (inPage : op.offset < 4096) : op.firstWord.val = op.addr / 4 := by
  have page := op.page.isLt
  refine Nat.mod_eq_of_lt ?_
  simp only [StoreOp.addr, poolAddr, Config.pageBytes]
  omega

/-- Settles O34. -/
theorem faultsOfTheMedium : Obligations.FaultsOfTheMedium := by
  refine ⟨fun m w => ⟨fun agrees => ⟨delivers_of_agreeing agrees, fun i hi => ?_⟩,
      fun d damaged => ⟨delivers_of_damaged damaged, fun v repaired i hi => ?_⟩⟩,
    fun op m => ⟨fun _ => readable_of_write, fun n kind => ?_, fun a kind => ?_⟩,
    fun m f h => ⟨readWord_strike h f, delivers_strike h f, fun w other =>
      ⟨delivers_strike_of_ne h f other, readWord_strike_of_ne h f other⟩⟩,
    fun s => ⟨befall_of_noFaults, fun _ _ => befall_of_faults, fun op _ inPage =>
      ⟨fun unreadable => ?_, fun readable => ?_⟩⟩⟩
  · exact byte_of_agreeing (by rw [(word_of_byte hi).1, agrees])
  · rw [byte_of_repaired (by rw [(word_of_byte hi).1, damaged]) repaired, (word_of_byte hi).2]
  · rw [StoreOp.readable_iff_of_reads (by rw [kind]; rfl), kind]
    rfl
  · rw [StoreOp.readable_iff_of_reads (by rw [kind]; rfl), kind]
    rfl
  · rw [State.befallBad, if_neg (by rw [unreadable]; nofun)]
  · have spoiled : s.befallBad op = { s.befall with pool := s.befall.pool.spoil op.firstWord } := if_pos readable
    rw [spoiled]
    exact ⟨rfl, rfl, fun w => by rw [delivers_spoil, firstWord_val inPage]⟩

end Sys2Proof.Machine

/-! # An access is refused, or placed (R48 to R54) -/
namespace Sys2Proof.Machine

variable {s : State} {p : Port} {t : Tag} {frame : Byte} {offset : Half} {kind : StoreKind} {c : Instr}

/-! ## The checks (R48 to R52) -/

/-- The BOUNDS check (R49). -/
theorem outOfRange_iff : outOfRange frame offset kind = true ↔ ¬ AccessInRange frame offset kind := by
  cases kind with
  | read n => simp [outOfRange, AccessInRange, Config.pageBytes, Config.accessBytes]; omega
  | write data =>
    simp [outOfRange, AccessInRange, Config.pageBytes, Config.accessBytes, ← List.length_eq_zero_iff]; omega
  | readThenWrite a => cases a <;> simp [outOfRange, AccessInRange, Config.pageBytes] <;> omega

theorem not_outOfRange (inRange : AccessInRange frame offset kind) : ¬ outOfRange frame offset kind = true :=
  fun outside => outOfRange_iff.mp outside inRange

/-- The Access Unit's question to the Lock Unit (R52, R77). -/
theorem writeLocked_iff {q : PageNo} : s.writeLocked q p = true ↔ s.LockedAgainst q p := by
  unfold State.writeLocked State.LockedAgainst
  cases s.lockOf q with
  | none => simp
  | some l => simp [LockEntry.holds]

theorem checkAccess_of_outOfRange (outside : ¬ AccessInRange frame offset kind) :
    s.checkAccess p frame offset kind = .error .bounds := by
  rw [State.checkAccess, if_pos (outOfRange_iff.mpr outside)]

section
variable {f : FrameNo} (inRange : AccessInRange frame offset kind) (named : f.val = frame.toNat)
include inRange named

theorem checkAccess_of_unmapped (unmapped : s.resolve p (s.map p).present f = none) :
    s.checkAccess p frame offset kind = .error .unmapped := by
  rw [State.checkAccess, if_neg (not_outOfRange inRange), ← named, below_val]
  dsimp only
  rw [State.resolvePresent, unmapped]

theorem checkAccess_of_mapped {e : Entry} (mapped : s.resolve p (s.map p).present f = some e) :
    s.checkAccess p frame offset kind =
      if kind.writes = true ∧ e.access = .readOnly then .error .denied
      else if kind.reads = true ∧ (s.page e.page).poisoned = true then .error .mediaError
      else if kind.writes = true ∧ s.writeLocked e.page p = true then .error .locked
      else .ok e.page := by
  rw [State.checkAccess, if_neg (not_outOfRange inRange), ← named, below_val]
  dsimp only
  rw [State.resolvePresent, mapped]

end

/-! ## The refusal and the placement (R48, R53, R54) -/

theorem exec_access (command : AccessCommand c p t frame offset kind) (h : s.TakesAtOnce p t) :
    exec c s = .next ((s.handed p t (.access frame offset kind)).access p t frame offset kind) := by
  rw [exec_accessCommand command, receive_at_once (r := .access frame offset kind) h _ nofun]
  rfl

/-- The code of an access is that of its kind (Table 9-1). -/
theorem access_code : (Request.access frame offset kind).code = kind.code := by
  cases kind with
  | read _ | write _ => rfl
  | readThenWrite a => cases a <;> rfl

theorem exec_access_refused {st : Status} (command : AccessCommand c p t frame offset kind) (h : s.TakesAtOnce p t)
    (refused : s.checkAccess p frame offset kind = .error st) : exec c s = .next (s.reply p t kind.code st) := by
  have checked : (s.handed p t (.access frame offset kind)).checkAccess p frame offset kind = .error st := refused
  rw [exec_access command h, State.access, checked, access_code]
  exact congrArg Host.Outcome.next (handed_answer h.toTakes _ _ _ _)

theorem exec_access_placed {q : PageNo} (command : AccessCommand c p t frame offset kind) (h : s.TakesAtOnce p t)
    (passed : s.checkAccess p frame offset kind = .ok q) :
    exec c s = .next ((s.handed p t (.access frame offset kind)).placeAccess p t q offset.toNat kind) := by
  have checked : (s.handed p t (.access frame offset kind)).checkAccess p frame offset kind = .ok q := passed
  rw [exec_access command h, State.access, checked]

/-- What a placement does outside the Port Controllers: the in-flight record, the pin claim, the operation at the tail of its
bank's queue, and the Frame Map Unit's count (R53, R54). -/
def State.placed (s : State) (p : Port) (t : Tag) (q : PageNo) (o : Nat) (kind : StoreKind) : State :=
  ((({ s with accesses := s.accesses ++ [{ port := p, tag := t, kind := kind, page := q, offset := o }] } : State).pinUp
    q).modQueue (bankOf q) (· ++ [{ origin := .access p t, kind := kind, page := q, offset := o }])).modMap p fun m =>
    { m with inFlight := m.inFlight + 1 }

theorem placeAccess_eq (q : PageNo) (o : Nat) :
    s.placeAccess p t q o kind = (s.placed p t q o kind).modPort p fun c => { c with inFlight := c.inFlight + 1 } := rfl

theorem placed_modPort (q : PageNo) (o : Nat) (f : PortCtl → PortCtl) :
    (s.modPort p f).placed p t q o kind = (s.placed p t q o kind).modPort p f := rfl

/-- The slot and the count of the placed access, in one change of the Port Controller. -/
theorem placeAccess_handed (r : Request) (q : PageNo) (o : Nat) :
    (s.handed p t r).placeAccess p t q o kind = (s.placed p t q o kind).modPort p fun c =>
      { c with inFlight := c.inFlight + 1, slots := c.slots ++ [{ tag := t, request := r, state := .inFlight }] } := by
  rw [placeAccess_eq, State.handed, State.withSlot, placed_modPort, State.modPort_modPort]

/-- Settles O32: the checks in order, each with those before it passed, and then the placement. -/
theorem accessIsRefusedOrPlaced : Obligations.AccessIsRefusedOrPlaced := by
  refine ⟨⟨fun _ => ⟨rfl, rfl⟩, fun _ => ⟨rfl, rfl⟩, fun _ => ⟨rfl, rfl⟩, fun _ => rfl, fun _ => rfl, fun _ => rfl,
    fun _ _ => rfl, fun _ => rfl, fun _ => rfl, rfl⟩, ?_, ?_⟩
  · intro c p t frame offset kind s command h
    refine ⟨fun outside => exec_access_refused command h (checkAccess_of_outOfRange outside), fun inRange f named =>
      ⟨fun unmapped => exec_access_refused command h (checkAccess_of_unmapped inRange named unmapped), fun e mapped => ?_⟩⟩
    have checked := checkAccess_of_mapped inRange named mapped
    refine ⟨fun denied => ?_, fun allowed poisoned => ?_, fun allowed sound writes locked => ?_⟩
    · exact exec_access_refused command h (checked.trans (if_pos denied))
    · rw [if_neg allowed] at checked
      exact exec_access_refused command h (checked.trans (if_pos poisoned))
    · rw [if_neg allowed, if_neg sound] at checked
      exact exec_access_refused command h (checked.trans (if_pos ⟨writes, writeLocked_iff.mpr locked⟩))
  · intro c p t frame offset kind s f e command h inRange named mapped allowed sound unlocked
    have checked := checkAccess_of_mapped inRange named mapped
    rw [if_neg allowed, if_neg sound, if_neg (by rwa [writeLocked_iff])] at checked
    rw [exec_access_placed command h checked, placeAccess_handed]
    rfl

end Sys2Proof.Machine

/-! # The supply, the reset line and the operation a bank carries (R66, R72, R121, R203, R205) -/
namespace Sys2Proof.Machine

variable {s u : State}

/-- Settles O1. -/
theorem stepRunsFrontCommand : Obligations.StepRunsFrontCommand := by
  intro c rest s
  refine ⟨rfl, fun empty => ?_⟩
  rw [step, empty]

theorem exec_resetAsserted_again (asserted : s.resetAsserted = true) : exec .resetAsserted s = .next s := by
  show Host.Outcome.next (if s.resetAsserted = true then s else _) = _
  rw [if_pos asserted]

theorem exec_resetAsserted (released : s.resetAsserted = false) :
    exec .resetAsserted s =
      .next { s.haltDevice with supplyGood := s.supplyGood, resetAsserted := true, nextStart := s.startAfterAssertion } := by
  show Host.Outcome.next (if s.resetAsserted = true then s else _) = _
  rw [if_neg (by rw [released]; nofun)]
  rfl

theorem exec_resetReleased_idle (released : s.resetAsserted = false) : exec .resetReleased s = .next s := by
  show Host.Outcome.next (if s.resetAsserted = true then s.releaseReset else s) = _
  rw [if_neg (by rw [released]; nofun)]

theorem releaseReset_down (down : s.supplyGood = false) : s.releaseReset = { s with resetAsserted := false } := by
  simp [State.releaseReset, down]

/-- A release that leads to a power-on begins CLEARING from its start. -/
theorem releaseReset_powerOn (good : s.supplyGood = true) (start : s.nextStart = .powerOn) :
    s.releaseReset = ({ s with resetAsserted := false } : State).poweredOn := by
  simp [State.releaseReset, State.poweredOn, State.powerOnTables, good, start]

/-- Settles O3. -/
theorem supplyAndResetLineMoveThePhase : Obligations.SupplyAndResetLineMoveThePhase := by
  refine ⟨fun s => ⟨?_, exec_resetAsserted_again, fun released => ?_⟩, fun s => ⟨fun asserted good start => ?_,
    fun asserted down => ?_, exec_resetReleased_idle⟩⟩
  · have fails : exec .supplyFails s =
        .next { s.haltDevice with supplyGood := false, resetAsserted := s.resetAsserted, nextStart := .powerOn } := rfl
    exact ⟨_, fails, haltedFrom_haltDevice, rfl, rfl, rfl⟩
  · refine ⟨_, exec_resetAsserted released, haltedFrom_haltDevice, rfl, rfl, fun running => ?_, fun clearing => ?_,
      fun reset => ?_⟩
    · show s.startAfterAssertion = _
      rw [State.startAfterAssertion, running]
    · show s.startAfterAssertion = _
      rw [State.startAfterAssertion, clearing]
    · show s.startAfterAssertion = _
      rw [State.startAfterAssertion, reset]
  · refine ⟨_, (exec_resetReleased asserted).trans (congrArg _ (releaseReset_powerOn good start)), rfl, rfl, rfl,
      poweredOn_freshTables, poweredOn_freshPool⟩
  · rw [exec_resetReleased asserted, releaseReset_down down]

/-! ## The operation carried to its end (R72) -/

/-- The medium of a carried operation: an uncorrectable end of one that reads finds a word beyond repair (R66). -/
theorem exec_carried {b : BankNo} {op : StoreOp} {rest : List StoreOp} {m : State} (reset : s.phase = .reset)
    (head : s.queue b = op :: rest) (outcome : StoreOutcome)
    (fallen : m = if outcome = .uncorrectable ∧ op.kind.reads = true then s.befallBad op else s.befall) :
    exec (.operationCarriedToEnd b outcome) s =
      .next (({ m with pool := op.perform m.pool } : State).modQueue b fun _ => rest) := by
  have taken : exec (.operationCarriedToEnd b outcome) s = .next (s.carryOp b outcome) :=
    congrArg Host.Outcome.next (if_pos reset)
  have queued : m.queue b = op :: rest := by
    rw [fallen]
    split
    · rw [befallBad_queue, head]
    · rw [befall_queue, head]
  rw [taken, State.carryOp, head]
  dsimp only
  rw [← fallen]
  exact congrArg Host.Outcome.next (popOp_eq queued _)

/-- Settles O4. -/
theorem carriedOperationActsOnThePoolAlone : Obligations.CarriedOperationActsOnThePoolAlone := by
  intro s b op rest reset head
  exact ⟨exec_carried reset head .good (if_neg nofun).symm,
    exec_carried reset head .uncorrectable (if_congr (by simp) rfl rfl)⟩

end Sys2Proof.Machine

/-! # The completion of a copy read (R65, R66, R109, R113, R114) -/
namespace Sys2Proof.Machine

variable {s u : State}

/-- The first ACTIVE job of the queue is the one the Copy Engine finds. -/
theorem activeJob_of_split {j : Job} {before after : List Job} (jobs : s.jobs = before ++ j :: after)
    (first : ∀ x ∈ before, x.state ≠ .active) (active : j.state = .active) : s.activeJob = some j := by
  rw [State.activeJob, jobs, List.find?_append, List.find?_eq_none.mpr (by simpa using first), Option.none_or,
    List.find?_cons_of_pos (by simpa using active)]

section
variable {b : BankNo} {op : StoreOp} {rest : List StoreOp} {id : Byte} {n : Nat} {j : Job} (running : s.phase = .running)
  (head : s.queue b = op :: rest) (origin : op.origin = .copy id) (kind : op.kind = .read n)
include running head origin kind

/-- A good copy read: its bytes go to the segment buffer, and their write to the tail of its bank's queue (R109). -/
theorem exec_copyReadGood {dst : PageNo × Nat} (active : s.activeJob = some j) (next : j.dstAt = some dst)
    (readable : op.readable s.befall.pool = true) :
    exec (.copyReadComplete b) s = .next
      ((({ s.befall with segment := s.befall.pool.bytes op.addr n } : State).modQueue b fun _ => rest).placeCopyOp id
        (.write (s.befall.pool.bytes op.addr n)) dst) := by
  have taken : exec (.copyReadComplete b) s = .next (s.copyReadGood b) :=
    congrArg Host.Outcome.next (if_pos (isRunning_iff.mpr running))
  rw [taken, State.copyReadGood, head]
  simp only [origin, kind, readable, if_true, active, Option.bind_some, next]
  rw [popOp_eq ((befall_queue b).trans head)]
  rfl

/-- A read of a word beyond repair does not complete good (R66). -/
theorem exec_copyReadGood_unreadable (unreadable : op.readable s.befall.pool = false) :
    exec (.copyReadComplete b) s = .next s := by
  have taken : exec (.copyReadComplete b) s = .next (s.copyReadGood b) :=
    congrArg Host.Outcome.next (if_pos (isRunning_iff.mpr running))
  rw [taken, State.copyReadGood, head]
  simp only [origin, kind, unreadable, Bool.false_eq_true, if_false]

/-- An uncorrectable copy read poisons its page and ends its job (R113, R114). -/
theorem exec_copyReadBad (active : s.activeJob = some j) :
    exec (.copyReadUncorrectable b) s = .next
      (((((s.befallBad op).poison op.page).modQueue b fun _ => rest).finishJob j .mediaError).choose) := by
  have taken : exec (.copyReadUncorrectable b) s = .next (s.copyReadBad b) :=
    congrArg Host.Outcome.next (if_pos (isRunning_iff.mpr running))
  have head' : ((s.befallBad op).poison op.page).queue b = op :: rest := (befallBad_queue op b).trans head
  rw [taken, State.copyReadBad, head]
  simp only [origin, kind, active]
  rw [popOp_eq head']
  rfl

end

/-- Settles O44. -/
theorem copyReadPlacesItsWrite : Obligations.CopyReadPlacesItsWrite := by
  intro s b op rest id n before after j running head origin kind jobs first active
  have current := activeJob_of_split jobs first active
  refine ⟨fun readable dst place => ?_, exec_copyReadGood_unreadable running head origin kind,
    exec_copyReadBad running head origin kind current⟩
  have next : j.dstAt = some (dst, (j.dstStart + j.bytesDone) % 4096) := by
    rw [Job.dstAt]
    simp only [placeAt, Config.pageBytes, place, Option.map_some]
  exact exec_copyReadGood running head origin kind current next readable

end Sys2Proof.Machine

/-! # The lists of a lock entry, and the grant step (R74 to R76, R79, R80) -/
namespace Sys2Proof.Machine

variable {lease : Half → Nat} {hs : List Holder} {ws : List Waiter} {w : Waiter}

/-- An EXCLUSIVE holder stands alone (R76). -/
def ExclusiveAlone (hs : List Holder) : Prop := ∀ h ∈ hs, h.mode = .exclusive → hs = [h]

/-- The lists of an entry at rest: nobody waits without a holder, and the head waiter cannot be granted (R76). -/
structure ListsAtRest (hs : List Holder) (ws : List Waiter) : Prop where
  exclusive : ExclusiveAlone hs
  held : ws ≠ [] → hs ≠ []
  head : ∀ w rest, ws = w :: rest → w.mode = .shared → ∃ h ∈ hs, h.mode = .exclusive

theorem LockEntry.sound_iff {l : LockEntry} :
    l.Sound ↔ l.isEmpty = false ∧ (l.holders.map (·.port) ++ l.waiters.map (·.port)).Nodup ∧ ListsAtRest l.holders l.waiters :=
  ⟨fun ⟨notEmpty, portsOnce, exclusive, held, head⟩ => ⟨notEmpty, portsOnce, exclusive, held, head⟩,
    fun ⟨notEmpty, portsOnce, exclusive, held, head⟩ => ⟨notEmpty, portsOnce, exclusive, held, head⟩⟩

theorem LockEntry.Sound.atRest {l : LockEntry} (h : l.Sound) : ListsAtRest l.holders l.waiters := (sound_iff.mp h).2.2

theorem exclusiveAlone_of_shared (shared : ∀ x ∈ hs, x.mode = .shared) : ExclusiveAlone hs :=
  fun h mem exclusive => by rw [shared h mem] at exclusive; cases exclusive

theorem ExclusiveAlone.sublist {hs' : List Holder} (h : ExclusiveAlone hs) (fewer : hs'.Sublist hs) : ExclusiveAlone hs' := by
  intro x mem exclusive
  have alone := h x (fewer.mem mem) exclusive
  rw [alone] at fewer
  exact (List.sublist_singleton.mp fewer).resolve_left (List.ne_nil_of_mem mem)

theorem not_allShared_iff : (¬ ∀ x ∈ hs, x.mode = .shared) ↔ ∃ x ∈ hs, x.mode = .exclusive := by
  have other : ∀ m : LockMode, m ≠ .shared ↔ m = .exclusive := fun m => by cases m <;> decide
  simp only [not_forall, exists_prop, other]

theorem grantWaiters_exclusive (exclusive : w.mode = .exclusive) :
    grantWaiters lease hs (w :: ws) = if hs = [] then ([w.granted lease], ws, [w]) else (hs, w :: ws, []) := by
  obtain ⟨port, mode, tag, asked, remaining⟩ := w
  cases (exclusive : mode = .exclusive)
  cases hs with
  | nil => rfl
  | cons h hs => rfl

theorem grantWaiters_shared (shared : w.mode = .shared) :
    grantWaiters lease hs (w :: ws) = if ∀ x ∈ hs, x.mode = .shared then
      ((grantWaiters lease (hs ++ [w.granted lease]) ws).1, (grantWaiters lease (hs ++ [w.granted lease]) ws).2.1,
        w :: (grantWaiters lease (hs ++ [w.granted lease]) ws).2.2)
      else (hs, w :: ws, []) := by
  obtain ⟨port, mode, tag, asked, remaining⟩ := w
  cases (shared : mode = .shared)
  exact if_congr (by simp) rfl rfl

/-- The grant step leaves an entry at rest. -/
theorem grantWaiters_atRest (alone : ExclusiveAlone hs) :
    ListsAtRest (grantWaiters lease hs ws).1 (grantWaiters lease hs ws).2.1 := by
  induction ws generalizing hs with
  | nil => exact ⟨alone, fun waits => absurd rfl waits, nofun⟩
  | cons w ws ih =>
    cases mode : w.mode with
    | exclusive =>
      rw [grantWaiters_exclusive mode]
      split
      · exact ⟨fun h mem _ => by rw [List.mem_singleton.mp mem], fun _ => List.cons_ne_nil _ _,
          fun x rest _ _ => ⟨_, List.mem_singleton_self _, mode⟩⟩
      · next held => exact ⟨alone, fun _ => held, fun x rest e shared => by cases e; rw [mode] at shared; cases shared⟩
    | shared =>
      rw [grantWaiters_shared mode]
      split
      · next shared =>
        refine ih (exclusiveAlone_of_shared fun x mem => ?_)
        rcases List.mem_append.mp mem with mem | mem
        · exact shared x mem
        · rw [List.mem_singleton.mp mem]; exact mode
      · next exclusive =>
        obtain ⟨x, mem, mode'⟩ := not_allShared_iff.mp exclusive
        exact ⟨alone, fun _ => List.ne_nil_of_mem mem, fun _ _ _ _ => ⟨x, mem, mode'⟩⟩

/-- At rest the grant step grants nobody. -/
theorem grantWaiters_of_atRest (h : ListsAtRest hs ws) : grantWaiters lease hs ws = (hs, ws, []) := by
  cases ws with
  | nil => rfl
  | cons w ws =>
    cases mode : w.mode with
    | exclusive => rw [grantWaiters_exclusive mode, if_neg (h.held (List.cons_ne_nil _ _))]
    | shared => rw [grantWaiters_shared mode, if_neg (not_allShared_iff.mpr (h.head w ws rfl mode))]

/-- The ports of an entry stand in one order through the grant step. -/
theorem grantWaiters_ports :
    (grantWaiters lease hs ws).1.map (·.port) ++ (grantWaiters lease hs ws).2.1.map (·.port) =
      hs.map (·.port) ++ ws.map (·.port) := by
  obtain ⟨waiters, holders⟩ := grantWaiters_split lease hs ws
  rw [holders, List.map_append, List.map_map, List.append_assoc]
  conv => rhs; rw [waiters, List.map_append]
  rfl

/-- What a removal and its grant step leave of a sound entry is sound, or empty. -/
theorem LockEntry.Sound.regrant {l : LockEntry} (h : l.Sound) (fewerHolders : hs.Sublist l.holders)
    (fewerWaiters : ws.Sublist l.waiters)
    (left : ({ l with holders := (grantWaiters lease hs ws).1, waiters := (grantWaiters lease hs ws).2.1 } : LockEntry).isEmpty =
      false) :
    ({ l with holders := (grantWaiters lease hs ws).1, waiters := (grantWaiters lease hs ws).2.1 } : LockEntry).Sound := by
  refine sound_iff.mpr ⟨left, ?_, grantWaiters_atRest (h.atRest.exclusive.sublist fewerHolders)⟩
  dsimp only
  rw [grantWaiters_ports]
  exact h.portsOnce.sublist ((fewerHolders.map _).append (fewerWaiters.map _))

end Sys2Proof.Machine

/-! # What keeps the form of the lock table (R73 to R76)

A command keeps it operation by operation. Most operations leave the table as it is, or take whole entries from it. -/
namespace Sys2Proof.Machine

variable {s u v : State} {p : Port} {t : Tag} {q : PageNo}

/-! ## The relation -/

/-- The lock table keeps its form from one state to another. -/
def State.KeepsLocks (s u : State) : Prop := s.LockTableSound → u.LockTableSound

theorem State.KeepsLocks.refl (s : State) : s.KeepsLocks s := id

theorem State.KeepsLocks.trans (h : s.KeepsLocks u) (h' : u.KeepsLocks v) : s.KeepsLocks v := h' ∘ h

theorem State.KeepsLocks.foldl {α : Type} {f : State → α → State} (h : ∀ s x, State.KeepsLocks s (f s x)) (l : List α)
    (s : State) : s.KeepsLocks (l.foldl f s) := foldl_related .refl .trans h l s

/-- The table is as it was. -/
theorem State.KeepsLocks.same (locks : u.locks = s.locks) : s.KeepsLocks u := fun h => h.of_locks locks

/-- Entries are taken from the table. -/
theorem State.KeepsLocks.fewer (locks : u.locks.Sublist s.locks) : s.KeepsLocks u := fun h =>
  ⟨locks.length_le.trans h.places, h.pagesOnce.sublist (locks.map _), fun l mem => h.entries l (locks.mem mem)⟩

/-- An effect that a change of other tables follows. -/
theorem State.KeepsLocks.and (h : s.KeepsLocks u) (locks : v.locks = u.locks) : s.KeepsLocks v := h.trans (.same locks)

/-- An effect that a change of other tables goes before. -/
theorem State.KeepsLocks.after (h : u.KeepsLocks v) (locks : u.locks = s.locks) : s.KeepsLocks v := .trans (.same locks) h

/-! ## One entry -/

/-- One entry gives way to another of its page, or to none. -/
theorem State.LockTableSound.of_entry (h : s.LockTableSound) {l : LockEntry} {mid : List LockEntry} (page : l.page = q)
    (changed : s.EntryChanged u q l mid) (sound : ∀ x ∈ mid, x.Sound) : u.LockTableSound := by
  have apart := changed.apart h.apart page fun x mem => (sound x mem).portsOnce
  obtain ⟨a, b, before, -, after⟩ := changed.split
  have places := h.places
  have entries := h.entries
  rw [before] at places entries
  refine ⟨?_, apart.pages, fun x mem => ?_⟩
  · have short : mid.length ≤ 1 := by
      rcases changed.short with rfl | ⟨l', rfl, -⟩ <;> simp
    rw [after]
    simp only [List.length_append, List.length_cons] at places ⊢
    omega
  · rw [after] at mem
    rcases List.mem_append.mp mem with mem | mem
    · rcases List.mem_append.mp mem with mem | mem
      · exact entries x (by simp [mem])
      · exact sound x mem
    · exact entries x (by simp [mem])

/-- An entry changed to a sound one, or to an empty one, which goes (R73). -/
theorem State.LockTableSound.modLock (h : s.LockTableSound) {l : LockEntry} (entry : s.lockOf q = some l)
    {f : LockEntry → LockEntry} (page : (f l).page = l.page) (sound : (f l).isEmpty = false → (f l).Sound) :
    (s.modLock q f).LockTableSound := by
  have here : l.page = q := (lockOf_mem entry).2
  have changed : s.EntryChanged (s.modLock q f) q l (f l).remains := by
    refine entryChanged_of h.apart entry ?_ fun a b split => modLock_split split here (page.trans here)
    unfold LockEntry.remains
    split
    · exact .inl rfl
    · exact .inr ⟨_, rfl, page.trans here⟩
  refine h.of_entry here changed fun x mem => ?_
  unfold LockEntry.remains at mem
  split at mem
  · cases mem
  · next left => rw [List.mem_singleton.mp mem]; exact sound (by simpa using left)

theorem regrant_keepsLocks {l : LockEntry} (entry : s.lockOf q = some l) {hs : List Holder} {ws : List Waiter}
    (fewerHolders : hs.Sublist l.holders) (fewerWaiters : ws.Sublist l.waiters) : s.KeepsLocks (s.regrant q hs ws) := by
  unfold State.regrant
  refine State.KeepsLocks.trans (fun h => ?_) (.foldl (f := fun s w => s.answerGranted q w) (fun _ _ => .same rfl) _ _)
  exact h.modLock entry rfl ((h.entries l (lockOf_mem entry).1).regrant fewerHolders fewerWaiters)

theorem grantStep_keepsLocks : s.KeepsLocks (s.grantStep q) := by
  unfold State.grantStep
  split
  · exact .refl s
  · next entry => exact regrant_keepsLocks entry (.refl _) (.refl _)

theorem dropHolder_keepsLocks : s.KeepsLocks (s.dropHolder q p) := by
  unfold State.dropHolder
  split
  · exact .refl s
  · next entry => exact regrant_keepsLocks entry List.filter_sublist (.refl _)

theorem dropWaiter_keepsLocks : s.KeepsLocks (s.dropWaiter q p) := by
  unfold State.dropWaiter
  split
  · exact .refl s
  · next entry => exact regrant_keepsLocks entry (.refl _) List.filter_sublist

theorem unlockForTeardown_keepsLocks : s.KeepsLocks (s.unlockForTeardown p q) := by
  unfold State.unlockForTeardown
  split
  · exact .refl s
  · next l entry =>
    split
    · exact regrant_keepsLocks entry List.filter_sublist List.filter_sublist
    · next w _ =>
      exact (regrant_keepsLocks (s := s.modPort p (·.freeSlot w.tag)) entry List.filter_sublist List.filter_sublist).after rfl

/-! ## ACQUIRE (R79, R81 to R83) -/

theorem holds_eq_false {l : LockEntry} : l.holds p = false ↔ p ∉ l.holders.map (·.port) := by
  simp [LockEntry.holds]

theorem waits_eq_false {l : LockEntry} : l.waits p = false ↔ p ∉ l.waiters.map (·.port) := by
  simp [LockEntry.waits]

/-- The ports of an entry with one more, which has no record in it. -/
theorem portsOnce_insert {l : LockEntry} (once : (l.holders.map (·.port) ++ l.waiters.map (·.port)).Nodup)
    (absent : l.holds p = false ∧ l.waits p = false) :
    (l.holders.map (·.port) ++ [p] ++ l.waiters.map (·.port)).Nodup := by
  rw [List.append_assoc, List.singleton_append, List.nodup_middle, List.nodup_cons, List.mem_append, not_or]
  exact ⟨⟨holds_eq_false.mp absent.1, waits_eq_false.mp absent.2⟩, once⟩

theorem grantsAtOnce_iff {l : LockEntry} {mode : LockMode} :
    l.grantsAtOnce mode = true ↔ mode = .shared ∧ l.waiters = [] ∧ ∀ h ∈ l.holders, h.mode = .shared := by
  cases mode <;> simp [LockEntry.grantsAtOnce]

/-- A grant at once adds a SHARED holder to SHARED holders (R79). -/
theorem LockEntry.Sound.addHolder {l : LockEntry} (h : l.Sound) {x : Holder} (absent : l.holds x.port = false ∧ l.waits x.port = false)
    (atOnce : l.grantsAtOnce x.mode = true) : ({ l with holders := l.holders ++ [x] } : LockEntry).Sound := by
  obtain ⟨mode, noWaiter, shared⟩ := grantsAtOnce_iff.mp atOnce
  refine sound_iff.mpr ⟨by simp [LockEntry.isEmpty], ?_, exclusiveAlone_of_shared fun y mem => ?_, fun waits => absurd noWaiter waits,
    fun w rest waits => by rw [show l.waiters = w :: rest from waits] at noWaiter; cases noWaiter⟩
  · have once := portsOnce_insert h.portsOnce absent
    simpa using once
  · rcases List.mem_append.mp mem with mem | mem
    · exact shared y mem
    · rw [List.mem_singleton.mp mem]; exact mode

/-- A waiter that is not granted at once stands behind another, or cannot be granted (R83). -/
theorem LockEntry.Sound.addWaiter {l : LockEntry} (h : l.Sound) {x : Waiter} (absent : l.holds x.port = false ∧ l.waits x.port = false)
    (notAtOnce : ¬ l.grantsAtOnce x.mode = true) : ({ l with waiters := l.waiters ++ [x] } : LockEntry).Sound := by
  have held : l.holders ≠ [] := by
    by_cases waits : l.waiters = []
    · have left := h.notEmpty
      simpa [LockEntry.isEmpty, waits] using left
    · exact h.held waits
  refine sound_iff.mpr ⟨by simp [LockEntry.isEmpty], ?_, h.exclusive, fun _ => held, fun w rest waits shared => ?_⟩
  · have once := portsOnce_insert h.portsOnce absent
    refine (List.Perm.nodup_iff ?_).mpr once
    simp only [List.map_append, List.map_cons, List.map_nil, List.append_assoc]
    exact List.Perm.append_left _ List.perm_append_comm
  · have waits : l.waiters ++ [x] = w :: rest := waits
    cases before : l.waiters with
    | nil =>
      rw [before] at waits
      cases waits
      refine not_allShared_iff.mp fun allShared => notAtOnce (grantsAtOnce_iff.mpr ⟨shared, before, allShared⟩)
    | cons y ys =>
      rw [before] at waits
      cases waits
      exact h.head w ys before shared

/-- The state with an entry of a page that has none, and its one holder (R81, R82). -/
def State.withNewLock (s : State) (q : PageNo) (x : Holder) : State :=
  { s with locks := s.locks ++ [{ page := q, holders := [x], waiters := [] }] }

theorem State.LockTableSound.newLock (h : s.LockTableSound) (noEntry : s.lockOf q = none) (room : s.locks.length < Config.lockPlaces)
    (x : Holder) : (s.withNewLock q x).LockTableSound := by
  have table : (s.withNewLock q x).locks = s.locks ++ [{ page := q, holders := [x], waiters := [] }] := rfl
  have other := lockOf_eq_none.mp noEntry
  refine ⟨?_, ?_, fun l mem => ?_⟩
  · simpa [table] using room
  · simp only [table, List.map_append, List.map_cons, List.map_nil]
    refine List.nodup_append.mpr ⟨h.pagesOnce, List.nodup_singleton _, fun a mem b mem' same => ?_⟩
    obtain ⟨l, inTable, rfl⟩ := List.mem_map.mp mem
    exact other l inTable (same.trans (List.mem_singleton.mp mem'))
  · rcases List.mem_append.mp mem with mem | mem
    · exact h.entries l mem
    · rw [List.mem_singleton.mp mem]
      exact ⟨rfl, List.nodup_singleton _, fun y mem _ => by rw [List.mem_singleton.mp mem], fun waits => absurd rfl waits, nofun⟩

theorem acquireGrant_new (noEntry : s.lockOf q = none) (mode : LockMode) (asked : Half) :
    s.acquireGrant p t q mode asked =
      (s.withNewLock q { port := p, mode := mode, remaining := s.leaseGranted asked }).answer p t 0x40 .ok
        (.lease q (s.leaseGranted asked)) := by
  rw [State.acquireGrant, State.hasLock, noEntry]
  rfl

theorem acquireGrant_shared {l : LockEntry} (entry : s.lockOf q = some l) (mode : LockMode) (asked : Half) :
    s.acquireGrant p t q mode asked =
      (s.modLock q fun l => { l with holders := l.holders ++ [{ port := p, mode := mode, remaining := s.leaseGranted asked }] }).answer
        p t 0x40 .ok (.lease q (s.leaseGranted asked)) := by
  rw [State.acquireGrant, State.hasLock, entry]
  rfl

theorem acquire_keepsLocks (frame : Byte) (mode : LockMode) (asked wait : Half) :
    s.KeepsLocks (s.acquire p t frame mode asked wait) := by
  unfold State.acquire
  split
  · exact .same rfl
  split
  · exact .same rfl
  split
  · exact .same rfl
  split
  · next noEntry =>
    split
    · exact .same rfl
    · next room =>
      rw [acquireGrant_new noEntry]
      exact fun h => (h.newLock noEntry (Nat.not_le.mp room) _).of_locks rfl
  · next l entry =>
    split
    · exact .same rfl
    next absent =>
    simp only [not_or, Bool.not_eq_true] at absent
    split
    · next atOnce =>
      rw [acquireGrant_shared entry]
      exact fun h => (h.modLock entry rfl fun _ => (h.entries l (lockOf_mem entry).1).addHolder absent atOnce).of_locks rfl
    · next notAtOnce =>
      split
      · exact .same rfl
      · exact fun h => (h.modLock entry (f := fun l => { l with waiters := l.waiters ++ [_] }) rfl
          fun _ => (h.entries l (lockOf_mem entry).1).addWaiter absent notAtOnce).of_locks rfl

/-! ## RELEASE, RENEW, the timers and dissolution (R11, R86 to R90) -/

theorem release_keepsLocks (page : Half) : s.KeepsLocks (s.release p t page) := by
  unfold State.release
  split
  · exact .same rfl
  split
  · exact dropHolder_keepsLocks.and rfl
  · exact .same rfl

/-- New timers leave an entry's ports and modes as they are. -/
theorem LockEntry.Sound.retimed {l : LockEntry} (h : l.Sound) {f : Holder → Holder} {g : Waiter → Waiter}
    (holder : ∀ x, (f x).port = x.port ∧ (f x).mode = x.mode) (waiter : ∀ w, (g w).port = w.port ∧ (g w).mode = w.mode) :
    ({ l with holders := l.holders.map f, waiters := l.waiters.map g } : LockEntry).Sound := by
  obtain ⟨notEmpty, portsOnce, exclusive, held, head⟩ := h
  refine ⟨by simpa [LockEntry.isEmpty] using notEmpty, ?_, fun x mem mode => ?_, by simpa using held, fun w rest waits mode => ?_⟩
  · simpa [Function.comp_def, holder, waiter] using portsOnce
  · obtain ⟨y, held, rfl⟩ := List.mem_map.mp mem
    dsimp only
    rw [exclusive y held ((holder y).2.symm.trans mode)]
    rfl
  · obtain ⟨w', rest', before, rfl, -⟩ := List.map_eq_cons_iff.mp waits
    obtain ⟨x, held, mode'⟩ := head w' rest' before ((waiter w').2.symm.trans mode)
    exact ⟨f x, List.mem_map_of_mem held, (holder x).2.trans mode'⟩

theorem setLease_keepsLocks {l : LockEntry} (entry : s.lockOf q = some l) (lease : Nat) : s.KeepsLocks (s.setLease q p lease) := by
  refine fun h => h.modLock entry rfl fun _ => ?_
  have kept := (h.entries l (lockOf_mem entry).1).retimed (f := fun x => if x.port = p then { x with remaining := lease } else x)
    (g := id) (fun x => by split <;> exact ⟨rfl, rfl⟩) fun _ => ⟨rfl, rfl⟩
  rwa [List.map_id] at kept

theorem holdsLock_iff : s.holdsLock q p = true ↔ ∃ l, s.lockOf q = some l ∧ l.holds p = true := by
  unfold State.holdsLock
  cases s.lockOf q <;> simp

theorem renew_keepsLocks (page asked : Half) : s.KeepsLocks (s.renew p t page asked) := by
  unfold State.renew
  split
  · exact .same rfl
  split
  · next holds =>
    obtain ⟨l, entry, -⟩ := holdsLock_iff.mp holds
    exact (setLease_keepsLocks entry _).and rfl
  · exact .same rfl

theorem leaseRunOut_keepsLocks : s.KeepsLocks (s.leaseRunOut q p) := by
  unfold State.leaseRunOut
  split
  · exact dropHolder_keepsLocks.and rfl
  · exact .refl s

theorem waitRunOut_keepsLocks : s.KeepsLocks (s.waitRunOut q p) := by
  unfold State.waitRunOut State.timeOutWait
  split
  · split
    · exact .refl s
    · exact dropWaiter_keepsLocks.after rfl
  · exact .refl s

theorem lowerTimers_keepsLocks : s.KeepsLocks s.lowerTimers := by
  intro h
  have ticked : s.lowerTimers.locks = s.locks.map LockEntry.tick := rfl
  refine ⟨?_, ?_, fun l mem => ?_⟩
  · rw [ticked, List.length_map]; exact h.places
  · rw [ticked, List.map_map]; exact h.pagesOnce
  · obtain ⟨l', before, rfl⟩ := List.mem_map.mp mem
    exact (h.entries l' before).retimed (fun _ => ⟨rfl, rfl⟩) fun _ => ⟨rfl, rfl⟩

end Sys2Proof.Machine

/-! # Every operation and every command keeps the form of the lock table (R73 to R76) -/
namespace Sys2Proof.Machine

variable {s u : State} {p : Port} {t : Tag} {q : PageNo}

/-! ## Operations that leave the table as it is -/

theorem offerSupervisor_locks (e : Event) : (s.offerSupervisor e).locks = s.locks := by
  unfold State.offerSupervisor
  split <;> rfl

theorem bankOfflineCheck_locks (b : BankNo) : (s.bankOfflineCheck b).locks = s.locks := by
  unfold State.bankOfflineCheck
  split
  · exact offerSupervisor_locks _
  · rfl

theorem retireLimitCheck_locks (b : BankNo) : (s.retireLimitCheck b).locks = s.locks := by
  unfold State.retireLimitCheck
  split
  · exact (bankOfflineCheck_locks b).trans (offerSupervisor_locks _)
  · rfl

theorem settleBank_locks (before : State) : (before.settleBank s q).locks = s.locks := by
  unfold State.settleBank
  split
  · rfl
  split
  · split
    · exact retireLimitCheck_locks _
    · exact bankOfflineCheck_locks _
  · exact bankOfflineCheck_locks _
  all_goals rfl

theorem closedCheck_locks : (s.closedCheck p).locks = s.locks := by
  have answered : ∀ v : State, (v.answerClose p).locks = v.locks := fun v => by
    unfold State.answerClose
    split
    · split <;> rfl
    · rfl
  have told : ∀ v : State, (v.offerPortDown p).locks = v.locks := fun v => by
    unfold State.offerPortDown
    split
    · split <;> rfl
    all_goals rfl
  unfold State.closedCheck
  split
  · exact (told _).trans (answered _)
  · rfl

theorem reportJobEnd_locks (j : Job) (outcome : JobOutcome) : (s.reportJobEnd j outcome).locks = s.locks := by
  unfold State.reportJobEnd
  split
  · rfl
  · exact closedCheck_locks

theorem alloc_locks (count : Byte) : (s.alloc p t count).locks = s.locks := by
  simp only [State.alloc]
  split
  · rfl
  split
  · rfl
  split
  · rfl
  · show (s.takePages p count.toNat).locks = s.locks
    rw [takePages_rest]

theorem pageQuery_locks (page : Half) : (s.pageQuery p t page).locks = s.locks := by
  unfold State.pageQuery
  split <;> rfl

theorem drain_locks (bank : Byte) : (s.drain p t bank).locks = s.locks := by
  unfold State.drain
  split
  · rfl
  split
  · rfl
  · exact (bankOfflineCheck_locks _).trans (offerSupervisor_locks _)

theorem restore_locks (bank : Byte) : (s.restore p t bank).locks = s.locks := by
  unfold State.restore
  split
  · rfl
  split
  · rfl
  · exact offerSupervisor_locks _

theorem selectFrames_locks (set : MapSet) : (s.selectFrames p t set).locks = s.locks := by
  unfold State.selectFrames
  split
  · rfl
  split
  · rfl
  split <;> rfl

theorem mapQuery_locks (set : MapSet) (first count : Byte) : (s.mapQuery p t set first count).locks = s.locks := by
  simp only [State.mapQuery]
  split <;> rfl

theorem offerMapChanged_locks (pairs : List ChangedEntry) : (s.offerMapChanged p q pairs).locks = s.locks := by
  simp only [State.offerMapChanged]
  split
  · rfl
  split <;> rfl

theorem access_locks (frame : Byte) (offset : Half) (kind : StoreKind) : (s.access p t frame offset kind).locks = s.locks := by
  unfold State.access
  split <;> rfl

theorem jobQuery_locks (id : Byte) : (s.jobQuery p t id).locks = s.locks := by
  unfold State.jobQuery
  split <;> rfl

theorem openPort_locks : (s.openPort p t).locks = s.locks := by
  unfold State.openPort
  split <;> rfl

theorem claim_locks : (s.claim p t).locks = s.locks := by
  unfold State.claim
  split
  · rfl
  · split <;> rfl

theorem handover_locks (target : Byte) : (s.handover p t target).locks = s.locks := by
  unfold State.handover
  split
  · rfl
  split
  · rfl
  split <;> rfl

theorem configure_locks (f : ConfigFields) : (s.configure p t f).locks = s.locks := by
  simp only [State.configure]
  split
  · rfl
  split
  · rfl
  split
  · exact foldl_keeps (g := State.locks) (f := State.retireLimitCheck) (fun _ b => retireLimitCheck_locks b) _ _
  · rfl

theorem befall_locks : s.befall.locks = s.locks := by rw [befall_rest]

theorem befallBad_locks (op : StoreOp) : (s.befallBad op).locks = s.locks := by rw [befallBad_rest]

theorem answerSelect_locks : (s.answerSelect p).locks = s.locks := by
  unfold State.answerSelect
  split <;> rfl

theorem replyAccess_locks (code : Byte) (st : Status) (pay : Payload) : (s.replyAccess p t code st pay).locks = s.locks := by
  unfold State.replyAccess
  split <;> rfl

theorem markActive_locks : (s.markActive p).locks = s.locks := by
  unfold State.markActive
  split
  · rfl
  · split <;> rfl

/-! ## Releases and claims: the entry of a released page goes (R8, R10, R11) -/

theorem releasePage_keepsLocks : s.KeepsLocks (s.releasePage q) :=
  .fewer (by rw [releasePage_locks]; exact List.filter_sublist)

theorem orphanCheck_keepsLocks : s.KeepsLocks (s.orphanCheck q) := by
  unfold State.orphanCheck
  split
  · exact releasePage_keepsLocks
  · exact .refl s

theorem mapDown_keepsLocks : s.KeepsLocks (s.mapDown q) :=
  orphanCheck_keepsLocks.after rfl

theorem pinDown_keepsLocks : s.KeepsLocks (s.pinDown q) :=
  orphanCheck_keepsLocks.after rfl

theorem unmapClaim_keepsLocks : s.KeepsLocks (s.unmapClaim q) := mapDown_keepsLocks.and (settleBank_locks s)

theorem unpinClaim_keepsLocks : s.KeepsLocks (s.unpinClaim q) := pinDown_keepsLocks.and (settleBank_locks s)

theorem free_keepsLocks (page : Half) : s.KeepsLocks (s.free p t page) := by
  unfold State.free
  split
  · exact .same rfl
  split
  · exact .same rfl
  split
  · exact .same rfl
  split
  · exact .same rfl
  split
  · exact .same rfl
  · exact releasePage_keepsLocks.and (settleBank_locks s)

theorem disownPage_keepsLocks : s.KeepsLocks (s.disownPage p q) := by
  unfold State.disownPage
  split
  · exact releasePage_keepsLocks.and (settleBank_locks s)
  · exact .same rfl

/-! ## The Frame Map Unit -/

theorem mapFrame_keepsLocks (set : MapSet) (frame : Byte) (page : Half) (a : Access) :
    s.KeepsLocks (s.mapFrame p t set frame page a) := by
  unfold State.mapFrame
  split
  · next f q _ _ =>
    split
    · refine State.KeepsLocks.and (u := (s.setEntry p set f (some { page := q, access := a })).mapClaim (s.resolve p set f) q)
        ?_ rfl
      unfold State.mapClaim
      split
      · exact .same rfl
      · split
        · exact .same rfl
        · exact unmapClaim_keepsLocks.after rfl
    · exact .same rfl
  all_goals exact .same rfl

theorem unmapFrame_keepsLocks (set : MapSet) (frame : Byte) : s.KeepsLocks (s.unmapFrame p t set frame) := by
  unfold State.unmapFrame
  split
  · exact .same rfl
  next f _ =>
  split
  · exact .same rfl
  next e _ =>
  have disabled : s.KeepsLocks ((s.setEntry p set f none).mapDown e.page) := mapDown_keepsLocks.after rfl
  exact disabled.and (settleBank_locks s)

theorem disableEntry_keepsLocks (x : MapSet × FrameNo) : s.KeepsLocks (s.disableEntry p x) := by
  unfold State.disableEntry
  split
  · exact .refl s
  · exact unmapClaim_keepsLocks.after rfl

theorem grantTaken_keepsLocks (target : Port) (right : Right) : s.KeepsLocks (s.grantTaken p t q target right) := by
  have set : s.KeepsLocks (s.setGrant q target right) := .same rfl
  have removed : ∀ l : List (MapSet × FrameNo),
      s.KeepsLocks (l.foldl (fun s x => s.disableEntry target x) (s.setGrant q target right)) := fun l =>
    set.trans (.foldl (fun _ x => disableEntry_keepsLocks x) l _)
  simp only [State.grantTaken]
  split
  · exact (set.trans (.foldl (f := fun s x => s.downgradeEntry target x) (fun _ _ => .same rfl) _ _)).and (offerMapChanged_locks _)
  · exact (removed _).and (offerMapChanged_locks _)
  · exact (removed _).and (offerMapChanged_locks _)
  all_goals exact .same rfl

theorem grant_keepsLocks (page : Half) (target : Byte) (right : Right) : s.KeepsLocks (s.grant p t page target right) := by
  unfold State.grant
  split
  · split
    · exact .same rfl
    split
    · exact .same rfl
    split
    · exact .same rfl
    · exact grantTaken_keepsLocks _ _
  all_goals exact .same rfl

/-! ## The Copy Engine -/

theorem unpinJob_keepsLocks (j : Job) : s.KeepsLocks (s.unpinJob j) := .foldl (fun _ _ => unpinClaim_keepsLocks) _ _

/-- A job leaves the queue. -/
theorem leaveQueue_keepsLocks (id : Byte) (j : Job) : s.KeepsLocks ((s.removeJob id).unpinJob j) :=
  (unpinJob_keepsLocks j).after rfl

theorem finishJob_keepsLocks (j : Job) (outcome : JobOutcome) : s.KeepsLocks (s.finishJob j outcome) :=
  (leaveQueue_keepsLocks j.id j).and (reportJobEnd_locks j outcome)

theorem runChoice_keepsLocks (n : Nat) : s.KeepsLocks (State.runChoice n s) := by
  induction n generalizing s with
  | zero => exact .refl s
  | succ n ih =>
    rw [State.runChoice]
    split
    · exact .refl s
    split
    · exact .refl s
    next j _ =>
    split
    · exact .same rfl
    · exact ((finishJob_keepsLocks (s := s.activate j) _ _).trans ih).after rfl

theorem choose_keepsLocks : s.KeepsLocks s.choose := runChoice_keepsLocks _

theorem decisionPoint_keepsLocks (j : Job) : s.KeepsLocks (s.decisionPoint j) := by
  unfold State.decisionPoint
  split
  · exact .same rfl
  · exact (finishJob_keepsLocks _ _).trans choose_keepsLocks

theorem acceptJob_keepsLocks {code : Byte} {kind : JobKind} {dstSet : MapSet} {dstPages : List PageNo} {dstStart length : Nat} :
    s.KeepsLocks (s.acceptJob p t code kind dstSet dstPages dstStart length) := by
  rw [acceptJob_eq]
  refine choose_keepsLocks.after ?_
  exact foldl_keeps (g := State.locks) (f := State.pinUp) (fun _ _ => rfl) _ _

theorem copy_keepsLocks (ss : SetCode) (sf : Byte) (so : Half) (ds : SetCode) (df : Byte) (dOff : Half) (n : Word) :
    s.KeepsLocks (s.copy p t ss sf so ds df dOff n) := by
  simp only [State.copy]
  split
  · exact .same rfl
  split
  · split
    · exact .same rfl
    split
    · exact .same rfl
    split
    · exact .same rfl
    · exact acceptJob_keepsLocks
  all_goals exact .same rfl

theorem fill_keepsLocks (ds : SetCode) (df : Byte) (dOff : Half) (n pattern : Word) :
    s.KeepsLocks (s.fill p t ds df dOff n pattern) := by
  simp only [State.fill]
  split
  · exact .same rfl
  split
  · exact .same rfl
  split
  · exact .same rfl
  split
  · exact .same rfl
  · exact acceptJob_keepsLocks

theorem cancel_keepsLocks (id : Byte) : s.KeepsLocks (s.cancel p t id) := by
  unfold State.cancel
  split
  · exact .same rfl
  next j _ =>
  split
  · have left : s.KeepsLocks (((s.answer p t 0x52 .ok).removeJob id).unpinJob j) := (leaveQueue_keepsLocks id j).after rfl
    exact left.and rfl
  · exact .same rfl

/-! ## The switch and the completions -/

theorem handHeld_keepsLocks (r : Request) : s.KeepsLocks (s.handHeld p t r) := by
  unfold State.handHeld
  split
  · exact .same (access_locks _ _ _)
  · exact acquire_keepsLocks _ _ _ _
  · exact copy_keepsLocks _ _ _ _ _ _ _
  · exact fill_keepsLocks _ _ _ _ _
  all_goals exact .refl s

theorem switchCheck_keepsLocks : s.KeepsLocks (s.switchCheck p) := by
  have released : ∀ (v : State) (x : Slot), v.KeepsLocks (v.releaseHeld p x) := fun v x =>
    (handHeld_keepsLocks x.request).after rfl
  unfold State.switchCheck
  split
  · exact .refl s
  next set _ =>
  split
  · simp only [State.switchTo]
    exact (State.KeepsLocks.foldl released _ _).after answerSelect_locks
  · exact .refl s

theorem endAccess_keepsLocks : s.KeepsLocks (s.endAccess p) := by
  have counted : s.KeepsLocks ((s.modMap p fun m => { m with inFlight := m.inFlight - 1 }).modPort p fun c =>
    { c with inFlight := c.inFlight - 1 }) := .same rfl
  exact (counted.trans switchCheck_keepsLocks).and closedCheck_locks

theorem completeAccess_keepsLocks (op : StoreOp) (st : Status) (pay : Payload) :
    s.KeepsLocks (s.completeAccess p t op st pay) := by
  have dropped : s.KeepsLocks (s.dropAccess p t) := .same rfl
  exact ((dropped.trans unpinClaim_keepsLocks).and (replyAccess_locks _ _ _)).trans endAccess_keepsLocks

theorem accessGood_keepsLocks (b : BankNo) : s.KeepsLocks (s.accessGood b) := by
  unfold State.accessGood
  split
  · exact .refl s
  next op _ _ =>
  split
  · exact .refl s
  have popped : s.KeepsLocks (s.befall.popOp b (op.store s.befall.pool)) := .same befall_locks
  dsimp only
  split
  · exact popped.trans (completeAccess_keepsLocks _ _ _)
  · exact .refl s

theorem accessBad_keepsLocks (b : BankNo) : s.KeepsLocks (s.accessBad b) := by
  unfold State.accessBad
  split
  · exact .refl s
  next op _ _ =>
  split
  · exact .refl s
  have popped : s.KeepsLocks (((s.befallBad op).poison op.page).popOp b (s.befallBad op).pool) := .same (befallBad_locks op)
  split
  · exact popped.trans (completeAccess_keepsLocks _ _ _)
  · exact .refl s

theorem copyReadGood_keepsLocks (b : BankNo) : s.KeepsLocks (s.copyReadGood b) := by
  unfold State.copyReadGood
  split
  · exact .refl s
  split
  · dsimp only
    split
    · split <;> exact .same befall_locks
    · exact .refl s
  all_goals exact .refl s

theorem copyReadBad_keepsLocks (b : BankNo) : s.KeepsLocks (s.copyReadBad b) := by
  unfold State.copyReadBad
  split
  · exact .refl s
  next op _ _ =>
  have popped : s.KeepsLocks (((s.befallBad op).poison op.page).popOp b (s.befallBad op).pool) := .same (befallBad_locks op)
  split
  · dsimp only
    split
    · exact popped
    · exact (popped.trans (finishJob_keepsLocks _ _)).trans choose_keepsLocks
  all_goals exact .refl s

theorem copyWriteGood_keepsLocks (b : BankNo) : s.KeepsLocks (s.copyWriteGood b) := by
  unfold State.copyWriteGood
  split
  · exact .refl s
  split
  · dsimp only
    split
    · exact .same befall_locks
    · exact (decisionPoint_keepsLocks _).after befall_locks
  all_goals exact .refl s

/-! ## The teardown of a port (R97, R154) -/

theorem dropJob_keepsLocks (id : Byte) : s.KeepsLocks (s.dropJob p id) := by
  unfold State.dropJob
  split
  · exact .refl s
  · exact leaveQueue_keepsLocks _ _

theorem tearDownPart_keepsLocks (x : TeardownPart) : s.KeepsLocks (s.tearDownPart p x) := by
  cases x with
  | unlock q => exact unlockForTeardown_keepsLocks
  | disable set f => exact disableEntry_keepsLocks _
  | dropJob id => exact dropJob_keepsLocks _
  | markActive => exact .same markActive_locks
  | ownership => exact .foldl (fun _ _ => disownPage_keepsLocks) _ _
  | clearGrants => exact .same rfl
  | testClosed => exact .same closedCheck_locks

theorem enterClosing_keepsLocks (reason : CloseReason) : s.KeepsLocks (s.enterClosing p reason) := by
  have begun : s.KeepsLocks ((s.beginClosing p reason).offerSessionEnd p reason) := by
    cases reason <;> exact .same rfl
  have parts : ∀ v : State, v.KeepsLocks (v.tearDownShares p) := fun v =>
    (State.KeepsLocks.foldl (f := fun s x => s.tearDownPart p x) (fun _ x => tearDownPart_keepsLocks x) _ _).after rfl
  exact begun.trans (parts _)

theorem eject_keepsLocks (target : Byte) : s.KeepsLocks (s.eject p t target) := by
  unfold State.eject
  split
  · exact .same rfl
  split
  · exact .same rfl
  split
  · exact .same rfl
  · exact (enterClosing_keepsLocks _).after rfl

/-! ## Requests and the line -/

theorem handOver_keepsLocks (r : Request) : s.KeepsLocks (s.handOver p t r) := by
  have held := handHeld_keepsLocks (s := s) (p := p) (t := t)
  cases r with
  | openSession => exact .same openPort_locks
  | closeSession => exact enterClosing_keepsLocks _
  | info => exact .same rfl
  | claim => exact .same claim_locks
  | handover target => exact .same (handover_locks _)
  | alloc count => exact .same (alloc_locks _)
  | free page => exact free_keepsLocks _
  | grant page target right => exact grant_keepsLocks _ _ _
  | pageQuery page => exact .same (pageQuery_locks _)
  | map set frame page a => exact mapFrame_keepsLocks _ _ _ _
  | unmap set frame => exact unmapFrame_keepsLocks _ _
  | selectSet set => exact .same (selectFrames_locks _)
  | mapQuery set first count => exact .same (mapQuery_locks _ _ _)
  | access frame offset kind => exact held (.access frame offset kind)
  | acquire frame mode lease wait => exact held (.acquire frame mode lease wait)
  | release page => exact release_keepsLocks _
  | renew page lease => exact renew_keepsLocks _ _
  | copy ss sf so ds df dOff n => exact held (.copy ss sf so ds df dOff n)
  | fill ds df dOff n pattern => exact held (.fill ds df dOff n pattern)
  | cancel id => exact cancel_keepsLocks _
  | jobQuery id => exact .same (jobQuery_locks _)
  | configure fields => exact .same (configure_locks _)
  | drain bank => exact .same (drain_locks _)
  | restore bank => exact .same (restore_locks _)
  | eject target => exact eject_keepsLocks _
  | poolQuery => exact .same rfl

theorem take_keepsLocks (r : Request) : s.KeepsLocks (s.take p t r) := by
  unfold State.take
  split
  · exact .same rfl
  · exact (handOver_keepsLocks r).after rfl

theorem judge_keepsLocks (code : Byte) (m : Parsed) : s.KeepsLocks (s.judge p t code m) := by
  unfold State.judge
  split
  · exact .refl s
  split
  · exact .same rfl
  · exact .same rfl
  · split
    · exact .same rfl
    · exact take_keepsLocks _

theorem frameComplete_keepsLocks (body : List Byte) : s.KeepsLocks (s.frameComplete p body) := by
  unfold State.frameComplete
  split
  · exact .refl s
  split
  · unfold State.judgeBody
    split
    · exact judge_keepsLocks _ _
    all_goals exact .refl s
  · exact .same rfl

theorem receiveByte_keepsLocks (b : Byte) : s.KeepsLocks (s.receiveByte p b) := by
  simp only [State.receiveByte]
  split
  · split <;> exact .same rfl
  · split <;> exact .same rfl
  · split <;> exact .same rfl
  · exact .same rfl
  · split
    · exact (frameComplete_keepsLocks _).after rfl
    · exact .same rfl
  · exact .same rfl

theorem receiveError_locks : (s.receiveError p).locks = s.locks := by
  simp only [State.receiveError]
  split <;> rfl

theorem gapRunOut_locks : (s.gapRunOut p).locks = s.locks := by
  unfold State.gapRunOut
  split <;> rfl

theorem resyncRunOut_locks : (s.resyncRunOut p).locks = s.locks := by
  unfold State.resyncRunOut
  split <;> rfl

theorem breakBegins_keepsLocks : s.KeepsLocks (s.breakBegins p) := by
  simp only [State.breakBegins]
  split
  · exact .refl s
  split
  · split
    · exact (enterClosing_keepsLocks _).after rfl
    · exact .same rfl
  · exact .same rfl

theorem breakEnds_locks : (s.breakEnds p).locks = s.locks := by
  unfold State.breakEnds
  split
  · rfl
  split <;> rfl

/-! ## The tick and start-up -/

theorem takeDue_keepsLocks : s.KeepsLocks s.takeDue := by
  have gaps : s.KeepsLocks (([0, 1, 2, 3] : List Port).foldl State.takeGapDue s) :=
    .foldl (fun _ _ => .same (resyncRunOut_locks.trans gapRunOut_locks)) _ _
  have leases : ∀ v : State, v.KeepsLocks (v.dueLeases.foldl (fun s x => s.leaseRunOut x.1 x.2) v) := fun v =>
    .foldl (fun _ _ => leaseRunOut_keepsLocks) _ _
  have waits : ∀ v : State, v.KeepsLocks (v.dueWaits.foldl (fun s x => s.waitRunOut x.1 x.2) v) := fun v =>
    .foldl (fun _ _ => waitRunOut_keepsLocks) _ _
  exact (gaps.trans (leases _)).trans (waits _)

/-- The table is empty after a power-on and after the reset line (R98). -/
theorem State.KeepsLocks.emptied (empty : u.locks = []) : s.KeepsLocks u := .fewer (by rw [empty]; exact List.nil_sublist _)

theorem releaseReset_keepsLocks : s.KeepsLocks s.releaseReset := by
  simp only [State.releaseReset]
  split
  · exact .same rfl
  · split <;> exact .emptied rfl

theorem carryOp_locks (b : BankNo) (outcome : StoreOutcome) : (s.carryOp b outcome).locks = s.locks := by
  unfold State.carryOp
  split
  · rfl
  next op _ _ =>
  dsimp only
  split
  · exact befallBad_locks op
  · exact befall_locks

/-! ## Every command, and every step -/

theorem ite_keepsLocks {c : Prop} [Decidable c] (h : s.KeepsLocks u) : s.KeepsLocks (if c then u else s) := by
  split
  · exact h
  · exact .refl s

theorem exec_keepsLocks (i : Instr) (s : State) : ∃ u, exec i s = .next u ∧ s.KeepsLocks u := by
  cases i
  case byteReceived p b => exact ⟨_, rfl, ite_keepsLocks (receiveByte_keepsLocks b)⟩
  case characterError p => exact ⟨_, rfl, ite_keepsLocks (.same receiveError_locks)⟩
  case breakBegins p => exact ⟨_, rfl, breakBegins_keepsLocks⟩
  case breakEnds p => exact ⟨_, rfl, .same breakEnds_locks⟩
  case gapTimerRunsOut p => exact ⟨_, rfl, ite_keepsLocks (.same gapRunOut_locks)⟩
  case resyncEnd p => exact ⟨_, rfl, ite_keepsLocks (.same resyncRunOut_locks)⟩
  case lastByteSent p => exact ⟨_, rfl, ite_keepsLocks (.same rfl)⟩
  case tick => exact ⟨_, rfl, ite_keepsLocks (takeDue_keepsLocks.trans lowerTimers_keepsLocks)⟩
  case leaseExpiry q p => exact ⟨_, rfl, ite_keepsLocks leaseRunOut_keepsLocks⟩
  case waitTimeout q p => exact ⟨_, rfl, ite_keepsLocks waitRunOut_keepsLocks⟩
  case grantStep q => exact ⟨_, rfl, ite_keepsLocks grantStep_keepsLocks⟩
  case accessCompletionGood b => exact ⟨_, rfl, ite_keepsLocks (accessGood_keepsLocks b)⟩
  case accessCompletionUncorrectable b => exact ⟨_, rfl, ite_keepsLocks (accessBad_keepsLocks b)⟩
  case switch p => exact ⟨_, rfl, ite_keepsLocks switchCheck_keepsLocks⟩
  case bankOffline b => exact ⟨_, rfl, ite_keepsLocks (.same (bankOfflineCheck_locks b))⟩
  case jobChoice => exact ⟨_, rfl, ite_keepsLocks choose_keepsLocks⟩
  case copyReadComplete b => exact ⟨_, rfl, ite_keepsLocks (copyReadGood_keepsLocks b)⟩
  case copyReadUncorrectable b => exact ⟨_, rfl, ite_keepsLocks (copyReadBad_keepsLocks b)⟩
  case copyWriteComplete b => exact ⟨_, rfl, ite_keepsLocks (copyWriteGood_keepsLocks b)⟩
  case closedReached p => exact ⟨_, rfl, ite_keepsLocks (.same closedCheck_locks)⟩
  case powerOn =>
    refine ⟨_, rfl, ?_⟩
    split
    · exact .same rfl
    · exact .emptied rfl
  case supplyFails => exact ⟨_, rfl, .same rfl⟩
  case resetAsserted =>
    refine ⟨_, rfl, ?_⟩
    split
    · exact .refl s
    · exact .same rfl
  case resetReleased => exact ⟨_, rfl, ite_keepsLocks releaseReset_keepsLocks⟩
  case runningEntry => exact ⟨_, rfl, ite_keepsLocks (.same rfl)⟩
  case operationCarriedToEnd b outcome => exact ⟨_, rfl, ite_keepsLocks (.same (carryOp_locks b outcome))⟩
  all_goals exact ⟨_, rfl, ite_keepsLocks (judge_keepsLocks _ _)⟩

/-- Settles O56, command by command. -/
theorem stepsKeepTheLockTableSound : Obligations.StepsKeepTheLockTableSound := by
  intro s u sound taken
  unfold step at taken
  split at taken
  · cases taken; exact sound
  · next c rest _ =>
    obtain ⟨v, ran, keeps⟩ := exec_keepsLocks c { s with pending := rest }
    rw [ran] at taken
    cases taken
    exact keeps (sound.of_locks rfl)

end Sys2Proof.Machine

/-! # The grant step (R76, R80) -/
namespace Sys2Proof.Machine

variable {s : State} {q : PageNo} {l : LockEntry}

/-- The lease granted for a lease asked (R84). -/
theorem leaseGranted_eq (asked : Half) :
    s.leaseGranted asked = if asked.toNat = 0 then s.config.defaultLease else asked.toNat :=
  if_congr BitVec.toNat_eq rfl rfl

/-- An entry that does not change leaves the table as it was. -/
theorem modLock_same (apart : s.LocksApart) (entry : s.lockOf q = some l) {f : LockEntry → LockEntry} (same : f l = l)
    (left : l.isEmpty = false) : s.modLock q f = s := by
  obtain ⟨page, a, b, split, ha, hb⟩ := locks_split apart entry
  have remains : l.remains = [l] := by rw [LockEntry.remains, left]; rfl
  have locks : (s.modLock q f).locks = s.locks := by
    rw [modLock_split split page (same.symm ▸ page) ha hb, same, remains, split, List.append_assoc]
    rfl
  show { s with locks := (s.modLock q f).locks } = s
  rw [locks]

/-- A removal's new lists, and then the replies to the waiters granted, head first (R80). -/
theorem regrant_eq (hs : List Holder) (ws : List Waiter) :
    s.regrant q hs ws =
      (s.modLock q fun l => { l with holders := (grantWaiters s.leaseGranted hs ws).1,
                                     waiters := (grantWaiters s.leaseGranted hs ws).2.1 }).tellEach (·.port)
        (PortCtl.waitGranted q s.leaseGranted) (grantWaiters s.leaseGranted hs ws).2.2 := answerGranted_foldl q _

theorem exec_grantStep (running : s.phase = .running) : exec (.grantStep q) s = .next (s.grantStep q) :=
  congrArg Host.Outcome.next (if_pos (isRunning_iff.mpr running))

theorem grantStep_of_some (entry : s.lockOf q = some l) : s.grantStep q = s.regrant q l.holders l.waiters := by
  rw [State.grantStep, entry]

/-- On an entry at rest the grant step changes nothing (R76). -/
theorem grantStep_of_sound (sound : s.LockTableSound) : s.grantStep q = s := by
  cases entry : s.lockOf q with
  | none => rw [State.grantStep, entry]
  | some l =>
    have rest := sound.entries l (lockOf_mem entry).1
    rw [grantStep_of_some entry, regrant_eq, grantWaiters_of_atRest rest.atRest]
    exact modLock_same sound.apart entry rfl rest.notEmpty

/-- Settles O38: the steps of the recursion, and the replies as one change for each port told. -/
theorem grantStepGrantsFromTheHead : Obligations.GrantStepGrantsFromTheHead := by
  refine ⟨fun lease hs => rfl, fun lease hs w ws => ⟨?_, ?_, ?_, ?_⟩, fun s q running sound => ?_, fun s q l running entry => ?_⟩
  · intro exclusive free
    rw [grantWaiters_exclusive exclusive, if_pos free]
    rfl
  · intro exclusive held
    rw [grantWaiters_exclusive exclusive, if_neg held]
  · intro shared allShared
    rw [grantWaiters_shared shared, if_pos allShared]
    rfl
  · intro shared exclusive
    rw [grantWaiters_shared shared, if_neg (not_allShared_iff.mpr exclusive)]
  · rw [exec_grantStep running, grantStep_of_sound sound]
  · rw [exec_grantStep running, grantStep_of_some entry, regrant_eq]
    simp only [← leaseGranted_eq]
    rfl

end Sys2Proof.Machine

/-! # ACQUIRE (R79, R81 to R84) -/
namespace Sys2Proof.Machine

variable {s : State} {p : Port} {t : Tag} {frame modeCode : Byte} {mode : LockMode} {asked wait : Half}

/-! ## The checks (R81) -/

theorem acquire_bounds (outside : 64 ≤ frame.toNat) :
    s.acquire p t frame mode asked wait = s.answer p t 0x40 .bounds := by
  rw [State.acquire, below_eq_none.mpr outside]

section
variable {f : FrameNo} (named : f.val = frame.toNat)
include named

theorem acquire_unmapped (disabled : s.resolve p (s.map p).present f = none) :
    s.acquire p t frame mode asked wait = s.answer p t 0x40 .unmapped := by
  rw [State.acquire, ← named, below_val]
  dsimp only
  rw [State.resolvePresent, disabled]

variable {e : Entry} (mapped : s.resolve p (s.map p).present f = some e)
include mapped

theorem acquire_denied (readOnly : mode = .exclusive ∧ e.access = .readOnly) :
    s.acquire p t frame mode asked wait = s.answer p t 0x40 .denied := by
  rw [State.acquire, ← named, below_val]
  dsimp only
  rw [State.resolvePresent, mapped]
  exact if_pos readOnly

variable (allowed : ¬ (mode = .exclusive ∧ e.access = .readOnly))
include allowed

theorem acquire_allowed :
    s.acquire p t frame mode asked wait = (s.lockOf e.page).elim
      (if Config.lockPlaces ≤ s.locks.length then s.answer p t 0x40 .tableFull else s.acquireGrant p t e.page mode asked)
      fun l =>
        if l.holds p = true ∨ l.waits p = true then s.answer p t 0x40 .alreadyHeld
        else if l.grantsAtOnce mode then s.acquireGrant p t e.page mode asked
        else if wait = 0 then s.answer p t 0x40 .contended
        else s.acquireWait p t e.page mode asked wait := by
  rw [State.acquire, ← named, below_val]
  dsimp only
  rw [State.resolvePresent, mapped]
  dsimp only
  rw [if_neg allowed]
  cases s.lockOf e.page <;> rfl

theorem acquire_tableFull (noEntry : s.lockOf e.page = none) (full : 32 ≤ s.locks.length) :
    s.acquire p t frame mode asked wait = s.answer p t 0x40 .tableFull := by
  rw [acquire_allowed named mapped allowed, noEntry]
  exact if_pos full

theorem acquire_newLock (noEntry : s.lockOf e.page = none) (room : s.locks.length < 32) :
    s.acquire p t frame mode asked wait = s.acquireGrant p t e.page mode asked := by
  rw [acquire_allowed named mapped allowed, noEntry]
  exact if_neg (Nat.not_le.mpr room)

section
variable {l : LockEntry} (entry : s.lockOf e.page = some l)
include entry

theorem acquire_alreadyHeld (present : l.holds p = true ∨ l.waits p = true) :
    s.acquire p t frame mode asked wait = s.answer p t 0x40 .alreadyHeld := by
  rw [acquire_allowed named mapped allowed, entry]
  exact if_pos present

theorem acquire_contended (noHolder : l.holds p = false) (noWaiter : l.waits p = false) :
    s.acquire p t frame mode asked wait =
      if l.grantsAtOnce mode then s.acquireGrant p t e.page mode asked
      else if wait = 0 then s.answer p t 0x40 .contended
      else s.acquireWait p t e.page mode asked wait := by
  rw [acquire_allowed named mapped allowed, entry]
  exact if_neg (by rw [noHolder, noWaiter]; decide)

end

end

/-! ## The request (R140, R147) -/

/-- The slot of the request just taken becomes WAITING. -/
theorem setSlot_withSlot (free : ∀ x ∈ (s.port p).slots, x.tag ≠ t) (r : Request) (st st' : SlotState) :
    (s.withSlot p t r st).modPort p (·.setSlot t st') = s.withSlot p t r st' := by
  have others : ((s.port p).slots.map fun x => if x.tag = t then { x with state := st' } else x) = (s.port p).slots :=
    (List.map_congr_left fun x mem => if_neg (free x mem)).trans (List.map_id _)
  have set : PortCtl.setSlot { s.port p with slots := (s.port p).slots ++ [{ tag := t, request := r, state := st }] } t st' =
      { s.port p with slots := (s.port p).slots ++ [{ tag := t, request := r, state := st' }] } := by
    rw [PortCtl.setSlot, List.map_append, others, List.map_singleton, if_pos rfl]
  rw [State.withSlot, State.modPort_modPort]
  show ({ s with ports := _ } : State) = _
  dsimp only
  rw [set]
  rfl

theorem exec_acquire (h : s.TakesAtOnce p t) (named : lockModeOf modeCode = some mode) :
    exec (.acquire p t frame modeCode asked wait) s =
      .next ((s.handed p t (.acquire frame mode asked wait)).acquire p t frame mode asked wait) := by
  have spelled : acquireRequest frame modeCode asked wait = some (.acquire frame mode asked wait) := by
    rw [acquireRequest, named]; rfl
  show Host.Outcome.next (s.receive p t 0x40 (.ofOption (acquireRequest frame modeCode asked wait))) = _
  rw [spelled]
  exact congrArg Host.Outcome.next (receive_at_once (r := .acquire frame mode asked wait) h 0x40 nofun)

theorem exec_acquire_refused (h : s.TakesAtOnce p t) (named : lockModeOf modeCode = some mode) {st : Status}
    (refused : (s.handed p t (.acquire frame mode asked wait)).acquire p t frame mode asked wait =
      (s.handed p t (.acquire frame mode asked wait)).answer p t 0x40 st) :
    exec (.acquire p t frame modeCode asked wait) s = .next (s.reply p t 0x40 st) := by
  rw [exec_acquire h named, refused, handed_answer h.toTakes]

/-! ## The grant at once, and the wait (R82, R83) -/

section
variable (h : s.Takes p t) {r : Request} {q : PageNo}
include h

theorem acquireGrant_handed_new (noEntry : s.lockOf q = none) :
    (s.handed p t r).acquireGrant p t q mode asked =
      (s.withNewLock q { port := p, mode := mode, remaining := s.leaseGranted asked }).reply p t 0x40 .ok
        (.lease q (s.leaseGranted asked)) := by
  have noEntry' : (s.handed p t r).lockOf q = none := noEntry
  rw [acquireGrant_new noEntry']
  exact answer_withSlot (s := s.withNewLock q _) h.tagFree r .inFlight _ _ _

theorem acquireGrant_handed_shared {l : LockEntry} (entry : s.lockOf q = some l) :
    (s.handed p t r).acquireGrant p t q mode asked =
      (s.modLock q fun l => { l with holders := l.holders ++ [{ port := p, mode := mode, remaining := s.leaseGranted asked }] }).reply
        p t 0x40 .ok (.lease q (s.leaseGranted asked)) := by
  have entry' : (s.handed p t r).lockOf q = some l := entry
  rw [acquireGrant_shared entry']
  exact answer_withSlot (s := s.modLock q _) h.tagFree r .inFlight _ _ _

theorem acquireWait_handed :
    (s.handed p t r).acquireWait p t q mode asked wait =
      (s.modLock q fun l =>
        { l with waiters := l.waiters ++
            [{ port := p, mode := mode, tag := t, lease := asked,
               remaining := if wait.toNat = 65535 then none else some wait.toNat }] }).withSlot p t r .waiting :=
  setSlot_withSlot (s := s.modLock q _) h.tagFree r .inFlight .waiting

end

/-- Settles O36: the checks in order, each with those before it passed, and then the grant or the wait. -/
theorem acquireGrantsOrWaits : Obligations.AcquireGrantsOrWaits := by
  intro p t frame modeCode asked wait s mode h named
  dsimp only
  rw [← leaseGranted_eq]
  have refused := fun {st} => exec_acquire_refused (frame := frame) (asked := asked) (wait := wait) (st := st) h named
  refine ⟨fun outside => refused (acquire_bounds outside),
    fun f hf => ⟨fun disabled => refused (acquire_unmapped hf disabled),
      fun e mapped => ⟨fun exclusive readOnly => refused (acquire_denied hf mapped ⟨exclusive, readOnly⟩),
        fun allowed => ⟨?_, ?_, ?_⟩⟩⟩⟩
  · intro noEntry full
    exact refused (acquire_tableFull (s := s.handed p t _) hf mapped allowed noEntry full)
  · intro noEntry room
    rw [exec_acquire h named, acquire_newLock (s := s.handed p t _) hf mapped allowed noEntry room,
      acquireGrant_handed_new h.toTakes noEntry]
    rfl
  · refine fun l entry => ⟨fun present => refused (acquire_alreadyHeld (s := s.handed p t _) hf mapped allowed entry present),
      fun noHolder noWaiter => ?_⟩
    have contended := acquire_contended (s := s.handed p t (.acquire frame mode asked wait)) (t := t) (asked := asked) (wait := wait)
      hf mapped allowed entry noHolder noWaiter
    refine ⟨fun atOnce => ?_, fun notAtOnce noWait => ?_, fun notAtOnce waits => ?_⟩
    · rw [exec_acquire h named, contended, if_pos (grantsAtOnce_iff.mpr atOnce), acquireGrant_handed_shared h.toTakes entry]
    · rw [if_neg (by rwa [grantsAtOnce_iff]), if_pos (BitVec.eq_of_toNat_eq noWait)] at contended
      exact refused contended
    · have waits : wait ≠ 0 := fun none => waits (by rw [none]; rfl)
      rw [exec_acquire h named, contended, if_neg (by rwa [grantsAtOnce_iff]), if_neg waits, acquireWait_handed h.toTakes]

end Sys2Proof.Machine

/-! # RELEASE and RENEW (R89, R90) -/
namespace Sys2Proof.Machine

variable {s : State} {p : Port} {t : Tag} {q : PageNo} {page asked : Half} {r : Request}

theorem exec_release (h : s.Takes p t) :
    exec (.release p t page) s = .next ((s.handed p t (.release page)).release p t page) :=
  congrArg Host.Outcome.next (receive_handed h 0x41 nofun rfl)

theorem exec_renew (h : s.Takes p t) :
    exec (.renew p t page asked) s = .next ((s.handed p t (.renew page asked)).renew p t page asked) :=
  congrArg Host.Outcome.next (receive_handed h 0x42 nofun rfl)

theorem release_bounds (outside : 2048 ≤ page.toNat) : s.release p t page = s.answer p t 0x41 .bounds := by
  rw [State.release, below_eq_none.mpr outside]

theorem renew_bounds (outside : 2048 ≤ page.toNat) : s.renew p t page asked = s.answer p t 0x42 .bounds := by
  rw [State.renew, below_eq_none.mpr outside]

section
variable (named : q.val = page.toNat)
include named

theorem release_of_page : s.release p t page =
    if s.holdsLock q p then (s.dropHolder q p).answer p t 0x41 .ok else s.answer p t 0x41 .notFound := by
  rw [State.release, ← named, below_val]

theorem renew_of_page : s.renew p t page asked =
    if s.holdsLock q p then
      (s.setLease q p (s.leaseGranted asked)).answer p t 0x42 .ok (.lease q (s.leaseGranted asked))
    else s.answer p t 0x42 .notFound := by
  rw [State.renew, ← named, below_val]

end

theorem dropHolder_of_some {l : LockEntry} (entry : s.lockOf q = some l) :
    s.dropHolder q p = s.regrant q (l.holders.filter (·.port ≠ p)) l.waiters := by
  rw [State.dropHolder, entry]

theorem dropWaiter_of_some {l : LockEntry} (entry : s.lockOf q = some l) :
    s.dropWaiter q p = s.regrant q l.holders (l.waiters.filter (·.port ≠ p)) := by
  rw [State.dropWaiter, entry]

theorem modPort_modPort_other {x : Port} (other : x ≠ p) (f g : PortCtl → PortCtl) :
    (s.modPort p f).modPort x g = (s.modPort x g).modPort p f := by
  have apart : p.val ≠ x.val := fun same => other (Fin.ext same.symm)
  rw [State.modPort, State.port_modPort_ne _ _ _ other, State.modPort, State.modPort, State.port_modPort_ne _ _ _ (Ne.symm other),
    State.modPort]
  exact congrArg (fun ports => ({ s with ports := ports } : State)) (Vector.set_comm _ _ apart)

/-- What is told to other ports commutes with a change of this one. -/
theorem tellEach_modPort {α : Type} (port : α → Port) (f : α → PortCtl → PortCtl) {l : List α} (absent : p ∉ l.map port)
    (g : PortCtl → PortCtl) : (s.modPort p g).tellEach port f l = (s.tellEach port f l).modPort p g := by
  induction l generalizing s with
  | nil => rfl
  | cons a l ih =>
    obtain ⟨other, absent⟩ := not_or.mp (List.mem_cons.not.mp absent)
    show ((s.modPort p g).modPort (port a) (f a)).tellEach port f l = _
    rw [modPort_modPort_other (Ne.symm other), ih absent]
    rfl

/-- A port that does not wait is not granted. -/
theorem granted_absent (lease : Half → Nat) {hs : List Holder} {ws : List Waiter} (absent : p ∉ ws.map (·.port)) :
    p ∉ (grantWaiters lease hs ws).2.2.map (·.port) := by
  rw [(grantWaiters_split lease hs ws).1, List.map_append] at absent
  exact fun granted => absent (List.mem_append_left _ granted)

/-- The grant step tells only the ports that waited, and leaves the slot of the request that caused it (R80). -/
theorem regrant_handed {hs : List Holder} {ws : List Waiter} (absent : p ∉ ws.map (·.port)) :
    (s.handed p t r).regrant q hs ws = (s.regrant q hs ws).handed p t r := by
  have lease : (s.handed p t r).leaseGranted = s.leaseGranted := rfl
  have relisted : ∀ f, (s.handed p t r).modLock q f = (s.modLock q f).handed p t r := fun _ => rfl
  rw [regrant_eq, regrant_eq, lease, relisted, State.handed, State.withSlot, tellEach_modPort _ _ (granted_absent _ absent)]
  rfl

theorem regrant_port {hs : List Holder} {ws : List Waiter} (absent : p ∉ ws.map (·.port)) :
    (s.regrant q hs ws).port p = s.port p := by
  rw [regrant_eq, tellEach_other _ _ (granted_absent _ absent)]
  rfl

/-- Settles O37: the grant step tells other ports alone, so the slot of the request goes with its reply. -/
theorem releaseAndRenewAnAcquiredLock : Obligations.ReleaseAndRenewAnAcquiredLock := by
  intro p t page asked s h
  dsimp only
  rw [exec_release h, exec_renew h, ← leaseGranted_eq]
  refine ⟨fun outside => ?_, fun q named => ⟨fun absent => ?_, fun l entry holds waits => ?_⟩⟩
  · rw [release_bounds outside, renew_bounds outside, handed_answer h, handed_answer h]
    exact ⟨rfl, rfl⟩
  · have idle : ∀ r, ¬ (s.handed p t r).holdsLock q p = true := fun r holds => by
      obtain ⟨l, entry, holds⟩ := holdsLock_iff.mp holds
      rw [absent l entry] at holds
      cases holds
    rw [release_of_page named, renew_of_page named, if_neg (idle _), if_neg (idle _), handed_answer h, handed_answer h]
    exact ⟨rfl, rfl⟩
  · have held : ∀ r, (s.handed p t r).holdsLock q p = true := fun r => holdsLock_iff.mpr ⟨l, entry, holds⟩
    have absent := waits_eq_false.mp waits
    rw [release_of_page named, renew_of_page named, if_pos (held _), if_pos (held _)]
    refine ⟨?_, congrArg Host.Outcome.next (answer_withSlot (s := s.modLock q _) h.tagFree _ .inFlight _ _ _)⟩
    rw [dropHolder_of_some (s := s.handed p t _) entry, regrant_handed absent]
    exact congrArg Host.Outcome.next (answer_withSlot (by rw [regrant_port absent]; exact h.tagFree) _ .inFlight _ _ _)

end Sys2Proof.Machine

/-! # The run-outs, and TICK (R86 to R88, R169) -/
namespace Sys2Proof.Machine

variable {s u : State} {p : Port} {q : PageNo} {l : LockEntry}

/-! ## LEASE_EXPIRY (R87) -/

theorem exec_leaseExpiry (running : s.phase = .running) : exec (.leaseExpiry q p) s = .next (s.leaseRunOut q p) :=
  congrArg Host.Outcome.next (if_pos (isRunning_iff.mpr running))

theorem leaseDue_iff :
    s.leaseDue q p = true ↔ ∃ l, s.lockOf q = some l ∧ ∃ h ∈ l.holders, h.port = p ∧ h.remaining = 0 := by
  unfold State.leaseDue
  cases s.lockOf q <;> simp

theorem leaseRunOut_of_not_due (idle : ∀ l, s.lockOf q = some l → ∀ h ∈ l.holders, h.port = p → h.remaining ≠ 0) :
    s.leaseRunOut q p = s := by
  refine if_neg fun due => ?_
  obtain ⟨l, entry, h, mem, own, out⟩ := leaseDue_iff.mp due
  exact idle l entry h mem own out

theorem leaseRunOut_of_due (entry : s.lockOf q = some l) {h : Holder} (mem : h ∈ l.holders) (own : h.port = p)
    (out : h.remaining = 0) :
    s.leaseRunOut q p = (s.regrant q (l.holders.filter (·.port ≠ p)) l.waiters).offer p (.leaseLost q) := by
  rw [State.leaseRunOut, if_pos (leaseDue_iff.mpr ⟨l, entry, h, mem, own, out⟩), State.expireLease, dropHolder_of_some entry]

/-! ## WAIT_TIMEOUT (R88) -/

theorem exec_waitTimeout (running : s.phase = .running) : exec (.waitTimeout q p) s = .next (s.waitRunOut q p) :=
  congrArg Host.Outcome.next (if_pos (isRunning_iff.mpr running))

theorem waiterOf_some {w : Waiter} (found : s.waiterOf q p = some w) :
    ∃ l, s.lockOf q = some l ∧ w ∈ l.waiters ∧ w.port = p := by
  obtain ⟨l, entry, found⟩ := Option.bind_eq_some_iff.mp found
  exact ⟨l, entry, List.mem_of_find?_eq_some found, by simpa using List.find?_some found⟩

theorem waitDue_iff : s.waitDue q p = true ↔ ∃ w, s.waiterOf q p = some w ∧ w.remaining = some 0 := by
  unfold State.waitDue
  cases s.waiterOf q p <;> simp

theorem waitRunOut_of_not_due (idle : ∀ l, s.lockOf q = some l → ∀ w ∈ l.waiters, w.port = p → w.remaining ≠ some 0) :
    s.waitRunOut q p = s := by
  refine if_neg fun due => ?_
  obtain ⟨w, found, out⟩ := waitDue_iff.mp due
  obtain ⟨l, entry, mem, own⟩ := waiterOf_some found
  exact idle l entry w mem own out

/-- In a sound entry a port has one waiter record (R76). -/
theorem waiterOf_of_sound (entry : s.lockOf q = some l) (sound : l.Sound) {w : Waiter} (mem : w ∈ l.waiters) (own : w.port = p) :
    s.waiterOf q p = some w := by
  have records := filter_port_eq l.waiters (List.nodup_append.mp sound.portsOnce).2.1 p
  have found : w ∈ (l.waiters.find? (·.port == p)).toList := by
    rw [← records]
    exact List.mem_filter.mpr ⟨mem, by simpa using own⟩
  rw [State.waiterOf, entry]
  exact Option.mem_toList.mp found

theorem waitRunOut_of_due (entry : s.lockOf q = some l) (sound : l.Sound) {w : Waiter} (mem : w ∈ l.waiters) (own : w.port = p)
    (out : w.remaining = some 0) :
    s.waitRunOut q p = (s.answer p w.tag 0x40 .timeout).regrant q l.holders (l.waiters.filter (·.port ≠ p)) := by
  have found := waiterOf_of_sound entry sound mem own
  rw [State.waitRunOut, if_pos (waitDue_iff.mpr ⟨w, found, out⟩), State.timeOutWait, found]
  exact dropWaiter_of_some (s := s.answer p w.tag 0x40 .timeout) entry

/-! ## The run-outs that a TICK takes first (log entry 9) -/

theorem runAll_cons {c : Instr} (cs : List Instr) (ran : exec c s = .next u) : runAll (c :: cs) s = runAll cs u := by
  rw [runAll, ran]

/-- Commands that run in groups, each with the effect of one operation, in a device that stays RUNNING. -/
theorem runAll_flatMap {α : Type} {cmds : α → List Instr} {f : State → α → State}
    (ran : ∀ (s : State) x rest, s.phase = .running → runAll (cmds x ++ rest) s = runAll rest (f s x))
    (stays : ∀ s x, (f s x).phase = s.phase) (xs : List α) (s : State) (running : s.phase = .running) :
    runAll (xs.flatMap cmds) s = .next (xs.foldl f s) := by
  induction xs generalizing s with
  | nil => rfl
  | cons x xs ih =>
    rw [List.flatMap_cons, ran s x _ running, List.foldl_cons]
    exact ih (f s x) ((stays s x).trans running)

/-- The state once the gap timers' run-outs are taken. -/
def State.gapsTaken (s : State) : State := [0, 1, 2, 3].foldl State.takeGapDue s

/-- The state once the leases' run-outs are taken. -/
def State.leasesTaken (s : State) : State := s.dueLeases.foldl (fun s x => s.leaseRunOut x.1 x.2) s

/-- The state once the waits' run-outs are taken. -/
def State.waitsTaken (s : State) : State := s.dueWaits.foldl (fun s x => s.waitRunOut x.1 x.2) s

theorem gapRunOut_phase : (s.gapRunOut p).phase = s.phase := (gapRunOut_sameWork p).phase

theorem takeGapDue_phase : (s.takeGapDue p).phase = s.phase := (resyncRunOut_sameWork p).phase.trans gapRunOut_phase

theorem gapsTaken_phase : s.gapsTaken.phase = s.phase := foldl_keeps (g := State.phase) (fun _ _ => takeGapDue_phase) _ _

theorem leasesTaken_phase : s.leasesTaken.phase = s.phase :=
  (State.SameWork.foldl (f := fun s (x : PageNo × Port) => s.leaseRunOut x.1 x.2) (fun _ _ => leaseRunOut_sameWork _ _) _ _).phase

theorem runAll_gaps (running : s.phase = .running) :
    runAll ([0, 1, 2, 3].flatMap fun p => [.gapTimerRunsOut p, .resyncEnd p]) s = .next s.gapsTaken := by
  refine runAll_flatMap (fun s p rest running => ?_) (fun _ _ => takeGapDue_phase) _ s running
  have ranOut : exec (.gapTimerRunsOut p) s = .next (s.gapRunOut p) :=
    congrArg Host.Outcome.next (if_pos (isRunning_iff.mpr running))
  have ended : exec (.resyncEnd p) (s.gapRunOut p) = .next (s.takeGapDue p) :=
    congrArg Host.Outcome.next (if_pos (isRunning_iff.mpr (gapRunOut_phase.trans running)))
  exact (runAll_cons _ ranOut).trans (runAll_cons _ ended)

theorem runAll_leases (running : s.phase = .running) :
    runAll (s.locks.flatMap fun l => (l.holders.filter (·.remaining == 0)).map fun h => .leaseExpiry l.page h.port) s =
      .next s.leasesTaken := by
  have commands : (s.locks.flatMap fun l => (l.holders.filter (·.remaining == 0)).map fun h => Instr.leaseExpiry l.page h.port) =
      s.dueLeases.flatMap fun x => [.leaseExpiry x.1 x.2] := by
    simp [State.dueLeases, List.flatMap_assoc, List.map_eq_flatMap]
  rw [commands]
  exact runAll_flatMap (fun s x rest running => runAll_cons rest (exec_leaseExpiry running))
    (fun _ _ => (leaseRunOut_sameWork _ _).phase) _ s running

theorem runAll_waits (running : s.phase = .running) :
    runAll (s.locks.flatMap fun l => (l.waiters.filter (·.remaining == some 0)).map fun w => .waitTimeout l.page w.port) s =
      .next s.waitsTaken := by
  have commands :
      (s.locks.flatMap fun l => (l.waiters.filter (·.remaining == some 0)).map fun w => Instr.waitTimeout l.page w.port) =
        s.dueWaits.flatMap fun x => [.waitTimeout x.1 x.2] := by
    simp [State.dueWaits, List.flatMap_assoc, List.map_eq_flatMap]
  rw [commands]
  exact runAll_flatMap (fun s x rest running => runAll_cons rest (exec_waitTimeout running))
    (fun _ _ => (waitRunOut_sameWork _ _).phase) _ s running

/-! ## TICK (R86, R169) -/

theorem exec_tick (running : s.phase = .running) : exec .tick s = .next s.gapsTaken.leasesTaken.waitsTaken.lowerTimers :=
  congrArg Host.Outcome.next (if_pos (isRunning_iff.mpr running))

theorem lowerTimers_port : s.lowerTimers.port p = { s.port p with gap := (s.port p).gap.map (· - 1) } := by
  simp [State.lowerTimers, State.port]

theorem lowerTimers_locks :
    s.lowerTimers.locks = s.locks.map fun l =>
      { l with holders := l.holders.map fun h => { h with remaining := h.remaining - 1 },
               waiters := l.waiters.map fun w => { w with remaining := w.remaining.map (· - 1) } } := rfl

theorem lowerTimers_rest : s.lowerTimers = { s with locks := s.lowerTimers.locks, ports := s.lowerTimers.ports } := rfl

theorem takeGapDue_of_not_due (idle : (s.port p).gap ≠ some 0) : s.takeGapDue p = s := by
  have gap : s.gapRunOut p = s := if_neg (by simp [PortCtl.gapDue, idle])
  have resync : s.resyncRunOut p = s := if_neg (by simp [PortCtl.resyncDue, idle])
  rw [State.takeGapDue, gap, resync]

theorem gapsTaken_of_not_due (idle : ∀ p, (s.port p).gap ≠ some 0) : s.gapsTaken = s := by
  simp only [State.gapsTaken, List.foldl_cons, List.foldl_nil, takeGapDue_of_not_due (idle _)]

theorem leasesTaken_of_not_due (idle : ∀ l ∈ s.locks, ∀ h ∈ l.holders, h.remaining ≠ 0) : s.leasesTaken = s := by
  have none : s.dueLeases = [] := by simpa [State.dueLeases] using idle
  rw [State.leasesTaken, none, List.foldl_nil]

theorem waitsTaken_of_not_due (idle : ∀ l ∈ s.locks, ∀ w ∈ l.waiters, w.remaining ≠ some 0) : s.waitsTaken = s := by
  have none : s.dueWaits = [] := by simpa [State.dueWaits] using idle
  rw [State.waitsTaken, none, List.foldl_nil]

/-- Settles O39: a TICK is three groups of run-outs, each a run of its commands, and then the lowering. -/
theorem timersRunOutAndAreLowered : Obligations.TimersRunOutAndAreLowered := by
  refine ⟨fun s q p running => ?_, fun s running => ?_⟩
  · rw [exec_leaseExpiry running, exec_waitTimeout running]
    refine ⟨fun idle => by rw [leaseRunOut_of_not_due idle], fun idle => by rw [waitRunOut_of_not_due idle],
      fun l entry sound => ⟨fun h mem own out => ?_, fun w mem own out => ?_⟩⟩
    · rw [leaseRunOut_of_due entry mem own out]
      rfl
    · rw [waitRunOut_of_due entry sound mem own out]
      rfl
  · have running' := gapsTaken_phase.trans running
    refine ⟨_, _, _, _, runAll_gaps running, runAll_leases running', runAll_waits (leasesTaken_phase.trans running'),
      exec_tick running, lowerTimers_locks, fun _ => lowerTimers_port, lowerTimers_rest, fun gaps idle => ?_⟩
    rw [gapsTaken_of_not_due gaps, leasesTaken_of_not_due fun l mem => (idle l mem).1,
      waitsTaken_of_not_due fun l mem => (idle l mem).2]

end Sys2Proof.Machine

/-! # Every step keeps the bounds of the copy queue (R99, R101) -/
namespace Sys2Proof.Machine

variable {s u : State} {j : Job}

/-- A queue that only loses jobs keeps its bounds. -/
theorem State.JobQueueSound.fewer (h : s.JobQueueSound) (fewer : u.jobs.Sublist s.jobs) : u.JobQueueSound where
  jobs := fewer.length_le.trans h.jobs
  perPort _ := (fewer.filter _).length_le.trans (h.perPort _)
  idsOnce := h.idsOnce.sublist (fewer.map _)
  active := (fewer.filter _).length_le.trans h.active

theorem State.JobQueueSound.same (h : s.JobQueueSound) (jobs : u.jobs = s.jobs) : u.JobQueueSound :=
  h.fewer (jobs ▸ List.Sublist.refl _)

theorem length_filter_map_congr {l : List Job} {f : Job → Job} {test : Job → Bool} (same : ∀ j, test (f j) = test j) :
    ((l.map f).filter test).length = (l.filter test).length := by
  have test' : test ∘ f = test := funext same
  rw [List.filter_map, test', List.length_map]

/-- A change of records that leaves ids and ports is a matter of how many jobs are then ACTIVE. -/
theorem State.JobQueueSound.changed (h : s.JobQueueSound) {f : Job → Job} (jobs : u.jobs = s.jobs.map f)
    (kept : ∀ j, (f j).id = j.id ∧ (f j).port = j.port) (active : (u.jobs.filter (·.state == .active)).length ≤ 1) :
    u.JobQueueSound where
  jobs := by rw [jobs, List.length_map]; exact h.jobs
  perPort p := by
    rw [jobs, length_filter_map_congr fun j => by rw [(kept j).2]]
    exact h.perPort p
  idsOnce := by
    have ids : (s.jobs.map f).map (·.id) = s.jobs.map (·.id) := by
      rw [List.map_map]
      exact List.map_congr_left fun j _ => (kept j).1
    rw [jobs, ids]
    exact h.idsOnce
  active := active

/-- A job's progress or cancel mark changes (R110, R116). -/
theorem State.JobQueueSound.modJob (h : s.JobQueueSound) (id : Byte) {f : Job → Job}
    (kept : ∀ j, (f j).id = j.id ∧ (f j).port = j.port ∧ (f j).state = j.state) : (s.modJob id f).JobQueueSound := by
  have kept' : ∀ j : Job, (if j.id = id then f j else j).id = j.id ∧ (if j.id = id then f j else j).port = j.port ∧
      (if j.id = id then f j else j).state = j.state := fun j => by
    split
    · exact kept j
    · exact ⟨rfl, rfl, rfl⟩
  refine h.changed rfl (fun j => ⟨(kept' j).1, (kept' j).2.1⟩) ?_
  refine (length_filter_map_congr fun j => ?_).trans_le h.active
  rw [(kept' j).2.2]

theorem length_filter_id_le_one {l : List Job} (once : (l.map (·.id)).Nodup) (id : Byte) :
    (l.filter (·.id == id)).length ≤ 1 := by
  have one := List.nodup_iff_count_le_one.mp once id
  rwa [List.count, List.countP_map, List.countP_eq_length_filter] at one

theorem not_active_of_activeJob_none (idle : s.activeJob = none) (mem : j ∈ s.jobs) : j.state ≠ .active := by
  simpa using List.find?_eq_none.mp idle j mem

/-- The choice makes one job ACTIVE where none is (R107). -/
theorem State.JobQueueSound.activate (h : s.JobQueueSound) (idle : s.activeJob = none) (j : Job) :
    (s.activate j).JobQueueSound := by
  refine h.changed rfl (fun x => ?_) ?_
  · split <;> exact ⟨rfl, rfl⟩
  · refine Nat.le_trans (Nat.le_of_eq ?_) (length_filter_id_le_one h.idsOnce j.id)
    show ((s.jobs.map _).filter _).length = _
    rw [List.filter_map, List.length_map]
    refine congrArg List.length (List.filter_congr fun x mem => ?_)
    have queued := not_active_of_activeJob_none idle mem
    by_cases named : x.id = j.id <;> simp [named, queued]

/-- An accepted job finds room and brings an id that no job bears (R101, R102). -/
theorem State.JobQueueSound.addJob (h : s.JobQueueSound) (jobs : u.jobs = s.jobs ++ [j])
    (room : s.jobs.length < Config.jobPlaces) (roomOfPort : (s.jobs.filter (·.port == j.port)).length < Config.jobsPerPort)
    (fresh : s.idInUse j.id = false) (queued : j.state = .queued) : u.JobQueueSound where
  jobs := by rw [jobs, List.length_append]; exact room
  perPort p := by
    rw [jobs, List.filter_append, List.length_append]
    by_cases own : j.port = p
    · subst own
      rw [List.filter_cons_of_pos (by simp)]
      exact roomOfPort
    · rw [List.filter_cons_of_neg (by simpa using own)]
      exact h.perPort p
  idsOnce := by
    have unused : ∀ x ∈ s.jobs, x.id ≠ j.id := by simpa [State.idInUse] using fresh
    rw [jobs, List.map_append, List.map_singleton]
    exact List.nodup_append.mpr ⟨h.idsOnce, List.nodup_singleton _, by simpa using unused⟩
  active := by
    rw [jobs, List.filter_append, List.filter_cons_of_neg (by simp [queued]), List.filter_nil, List.append_nil]
    exact h.active

theorem powerOnTables_jobs : s.powerOnTables.jobs = [] := by rw [State.powerOnTables, State.reset]

/-- Every move keeps the bounds: the Copy Engine's own moves and the start alone change the queue. -/
theorem State.JobQueueSound.move (m : Move s u) (h : s.JobQueueSound) : u.JobQueueSound := by
  cases m
  case addJob j counter room roomOfPort fresh queued => exact h.addJob rfl room roomOfPort fresh queued
  case removeJob id => exact h.fewer List.filter_sublist
  case cancelJob id => exact h.modJob id fun _ => ⟨rfl, rfl, rfl⟩
  case jobBytes id n => exact h.modJob id fun _ => ⟨rfl, rfl, rfl⟩
  case activate j idle _ => exact h.activate idle j
  case take p n _ => exact h.same (by rw [takePages_rest])
  case clear => exact h.fewer (powerOnTables_jobs (s := s) ▸ List.nil_sublist _)
  case resetLine => exact h.fewer (powerOnTables_jobs (s := s) ▸ List.nil_sublist _)
  all_goals exact h.same rfl

/-- Settles O57: move by move. -/
theorem stepsKeepTheJobQueueSound : Obligations.StepsKeepTheJobQueueSound := fun _ _ h taken =>
  step_keeps (fun _ _ m => State.JobQueueSound.move m) (fun _ _ h => h.same rfl) taken h

end Sys2Proof.Machine

/-! # Segments and decision points (R108, R111 to R113) -/
namespace Sys2Proof.Machine

variable {s : State} {j : Job} {dst src : PageNo × Nat} {set : MapSet} {pages : List PageNo} {start : Nat} {pattern : Word}

/-! ## The segment at bytes done (R108) -/

/-- The four limits of a COPY's segment. -/
theorem segmentLength_copy (kind : j.kind = .copy set pages start) :
    j.segmentLength = min (min 64 (j.length - j.bytesDone))
      (min (4096 - (start + j.bytesDone) % 4096) (4096 - (j.dstStart + j.bytesDone) % 4096)) := by
  rw [Job.segmentLength, kind]
  rfl

/-- A FILL has no source side: its limits are three. -/
theorem segmentLength_fill (kind : j.kind = .fill pattern) :
    j.segmentLength = min (min 64 (j.length - j.bytesDone)) (4096 - (j.dstStart + j.bytesDone) % 4096) := by
  have limits : j.segmentLength =
      min (min 64 (j.length - j.bytesDone)) (min 64 (4096 - (j.dstStart + j.bytesDone) % 4096)) := by
    rw [Job.segmentLength, kind]
    rfl
  omega

/-! ## The tests of a decision point (R111 to R113) -/

theorem dstAt_of_page {q : PageNo} (place : j.dstPages[(j.dstStart + j.bytesDone) / 4096]? = some q) :
    j.dstAt = some (q, (j.dstStart + j.bytesDone) % 4096) := by
  rw [Job.dstAt]
  simp only [placeAt, Config.pageBytes, place, Option.map_some]

theorem srcAt_of_page {q : PageNo} (kind : j.kind = .copy set pages start)
    (place : pages[(start + j.bytesDone) / 4096]? = some q) : j.srcAt = some (q, (start + j.bytesDone) % 4096) := by
  rw [Job.srcAt, kind]
  simp only [placeAt, Config.pageBytes, place, Option.map_some]

/-- The first segment of a destination place is at bytes done 0, or at the start of a page (R112). -/
theorem atPlaceStart_iff : j.atPlaceStart = true ↔ j.bytesDone = 0 ∨ (j.dstStart + j.bytesDone) % 4096 = 0 := by
  simp [Job.atPlaceStart, placeAt]

/-- The Copy Engine's question to the Lock Unit (R77, R112). -/
theorem lockedByOther_iff {q : PageNo} {p : Port} :
    s.lockedByOther q p = true ↔ ∃ l, s.lockOf q = some l ∧ ∃ h ∈ l.holders, h.port ≠ p := by
  unfold State.lockedByOther
  cases s.lockOf q <;> simp

theorem decide_done (moved : j.length ≤ j.bytesDone) : s.decide j = .finish .done := if_pos moved

section
variable (bytesLeft : j.bytesDone < j.length)
include bytesLeft

theorem decide_cancelled (cancel : j.cancel = true) : s.decide j = .finish .cancelled := by
  rw [State.decide, if_neg (Nat.not_le.mpr bytesLeft), if_pos cancel]

variable (going : j.cancel = false) (destination : j.dstAt = some dst)
include going destination

theorem decide_locked (first : j.atPlaceStart = true) (locked : s.lockedByOther dst.1 j.port = true) :
    s.decide j = .finish .locked := by
  rw [State.decide, if_neg (Nat.not_le.mpr bytesLeft), if_neg (by simp [going]), destination]
  exact if_pos ⟨first, locked⟩

variable (free : ¬ (j.atPlaceStart = true ∧ s.lockedByOther dst.1 j.port = true))
include free

theorem decide_fill (kind : j.kind = .fill pattern) :
    s.decide j = .place (.write (patternBytes pattern j.segmentLength)) dst := by
  rw [State.decide, if_neg (Nat.not_le.mpr bytesLeft), if_neg (by simp [going]), destination]
  dsimp only
  rw [if_neg free, kind]

theorem decide_copy (kind : j.kind = .copy set pages start) (source : j.srcAt = some src) :
    s.decide j = if (s.page src.1).poisoned = true then .finish .mediaError else .place (.read j.segmentLength) src := by
  rw [State.decide, if_neg (Nat.not_le.mpr bytesLeft), if_neg (by simp [going]), destination]
  dsimp only
  rw [if_neg free, kind, source]

end

/-- Settles O41: the limits of the segment by the job's kind, and the tests each with those before it passed. -/
theorem segmentsAndDecisionPoints : Obligations.SegmentsAndDecisionPoints := by
  refine ⟨fun j bytesLeft => ?_, fun s j => ⟨fun moved => decide_done (Nat.le_of_eq moved.symm),
    fun bytesLeft cancel => decide_cancelled bytesLeft cancel, fun dst bytesLeft going place => ?_⟩⟩
  · dsimp only
    cases kind : j.kind with
    | copy set pages start =>
      have limits := segmentLength_copy kind
      refine ⟨by omega, by omega, by omega, by omega, ?_, nofun⟩
      rintro _ _ _ ⟨⟩
      omega
    | fill pattern =>
      have limits := segmentLength_fill kind
      exact ⟨by omega, by omega, by omega, by omega, nofun, fun _ _ => by omega⟩
  · have destination := dstAt_of_page place
    dsimp only
    rw [← atPlaceStart_iff, ← lockedByOther_iff]
    refine ⟨fun ⟨first, locked⟩ => decide_locked bytesLeft going destination first locked, fun free =>
      ⟨fun pattern kind => decide_fill bytesLeft going destination free kind, fun set pages start src kind place' => ?_⟩⟩
    have decided := decide_copy bytesLeft going destination free kind (srcAt_of_page kind place')
    exact ⟨fun poisoned => decided.trans (if_pos poisoned), fun sound => decided.trans (if_neg (by simp [sound]))⟩

end Sys2Proof.Machine

/-! # The choice, and the completion of a segment's write (R103, R107, R109 to R111) -/
namespace Sys2Proof.Machine

variable {s u : State} {j : Job} {outcome : JobOutcome} {kind : StoreKind} {place : PageNo × Nat}

/-- The bytes of a FILL's segment (R103, R110). -/
theorem getLsbD_patternBytes (pattern : Word) {n i : Nat} (h : i < (patternBytes pattern n).length) {k : Nat} (byte : k < 8) :
    ((patternBytes pattern n)[i]).getLsbD k = pattern.getLsbD (8 * (i % 4) + k) := by
  simp [patternBytes, byte]

/-! ## The decision point (R111) -/

/-- A decision point asks the lock table and the page records alone. -/
theorem decide_congr (locks : u.locks = s.locks) (pages : u.pages = s.pages) (j : Job) : u.decide j = s.decide j := by
  have locked : u.lockedByOther = s.lockedByOther := by
    funext q p
    simp only [State.lockedByOther, State.lockOf, locks]
  have page : u.page = s.page := by
    funext q
    simp only [State.page, pages]
  rw [State.decide, State.decide, locked, page]

theorem decisionPoint_place (decided : s.decide j = .place kind place) : s.decisionPoint j = s.placeCopyOp j.id kind place := by
  rw [State.decisionPoint, decided]

theorem decisionPoint_finish (decided : s.decide j = .finish outcome) :
    s.decisionPoint j = (s.finishJob j outcome).choose := by
  rw [State.decisionPoint, decided]

/-! ## The rounds of the choice (R107) -/

theorem finishJob_jobs (j : Job) (outcome : JobOutcome) : (s.finishJob j outcome).jobs = s.jobs.filter (·.id ≠ j.id) :=
  (finishJob_sameWork j outcome).jobs

/-- A round that ends the job it takes leaves a shorter queue. -/
theorem finishJob_activate_length (mem : j ∈ s.jobs) (outcome : JobOutcome) :
    ((s.activate j).finishJob { j with state := .active } outcome).jobs.length < s.jobs.length := by
  have same : (s.activate j).jobs.length = s.jobs.length := List.length_map _
  rw [finishJob_jobs, ← same]
  exact List.length_filter_lt_length_iff_exists.mpr ⟨_, activate_mem mem, by simp⟩

theorem nextJob_eq_none (idle : ∀ j ∈ s.jobs, j.state ≠ .queued) : s.nextJob = none := by
  refine List.findSome?_eq_none_iff.mpr fun p _ => List.find?_eq_none.mpr fun j mem => ?_
  simp [idle j mem]

theorem runChoice_of_no_job (idle : ∀ j ∈ s.jobs, j.state ≠ .queued) (n : Nat) : State.runChoice n s = s := by
  cases n with
  | zero => rfl
  | succ n =>
    rw [State.runChoice, nextJob_eq_none idle]
    split <;> rfl

/-- A choice with one more round than the queue has jobs ends no later. -/
theorem runChoice_succ (n : Nat) (enough : s.jobs.length ≤ n) : State.runChoice (n + 1) s = State.runChoice n s := by
  induction n generalizing s with
  | zero =>
    have empty := List.eq_nil_of_length_eq_zero (Nat.le_zero.mp enough)
    exact runChoice_of_no_job (by simp [empty]) 1
  | succ n ih =>
    rw [State.runChoice, State.runChoice]
    cases s.activeJob with
    | some _ => rfl
    | none =>
      cases next : s.nextJob with
      | none => rfl
      | some j =>
        dsimp only
        cases s.decide { j with state := .active } with
        | place _ _ => rfl
        | finish outcome =>
          exact ih (Nat.le_of_lt_succ (Nat.lt_of_lt_of_le (finishJob_activate_length (nextJob_mem next) outcome) enough))

/-- The number of jobs is fuel enough. -/
theorem runChoice_eq_choose {n : Nat} (enough : s.jobs.length ≤ n) : State.runChoice n s = s.choose := by
  induction n, enough using Nat.le_induction with
  | base => rfl
  | succ n enough ih => rw [runChoice_succ n enough, ih]

/-- The choice makes the next job ACTIVE and runs its first decision point in the same step. -/
theorem choose_next (idle : s.activeJob = none) (next : s.nextJob = some j) :
    s.choose = (s.activate j).decisionPoint { j with state := .active } := by
  have nonempty : s.jobs.length = s.jobs.length - 1 + 1 := by
    have := List.length_pos_of_mem (nextJob_mem next)
    omega
  rw [State.choose, nonempty, State.runChoice, idle, next, State.decisionPoint, decide_congr (u := s.activate j) (s := s) rfl rfl]
  dsimp only
  split
  · rfl
  · next outcome _ =>
    refine runChoice_eq_choose ?_
    have shorter := finishJob_activate_length (nextJob_mem next) outcome
    omega

/-! ## The job the choice takes (R107) -/

/-- The cyclic order of the ports, cut at one of them. -/
theorem portsAfter_split (p : Port) (k : Fin 4) :
    portsAfter p = ((List.finRange 4).take k).map (p + 1 + ·) ++ (p + 1 + k) :: ((List.finRange 4).drop (k + 1)).map (p + 1 + ·) := by
  revert p k
  decide

theorem lt_of_mem_take_finRange (k : Fin 4) : ∀ i ∈ (List.finRange 4).take k, i < k := by
  revert k
  decide

theorem nextJob_of_chooses (h : s.Chooses j) : s.nextJob = some j := by
  obtain ⟨queued, ⟨older, younger, jobs, oldest⟩, k, port, silent⟩ := h
  refine List.findSome?_eq_some_iff.mpr ⟨_, _, _, port ▸ portsAfter_split s.lastServed k, ?_, fun p before => ?_⟩
  · rw [State.oldestQueued, jobs, List.find?_append, List.find?_eq_none.mpr (by simpa using oldest), Option.none_or,
      List.find?_cons_of_pos (by simp [queued])]
  · obtain ⟨i, mem, rfl⟩ := List.mem_map.mp before
    exact List.find?_eq_none.mpr (by simpa using silent i (lt_of_mem_take_finRange k i mem))

theorem activeJob_eq_none (idle : ∀ j ∈ s.jobs, j.state ≠ .active) : s.activeJob = none :=
  List.find?_eq_none.mpr (by simpa using idle)

theorem activeJob_of_exists (busy : ∃ j ∈ s.jobs, j.state = .active) : ∃ j, s.activeJob = some j :=
  Option.isSome_iff_exists.mp (List.find?_isSome.mpr (by simpa using busy))

theorem exec_jobChoice (running : s.phase = .running) : exec .jobChoice s = .next s.choose :=
  congrArg Host.Outcome.next (if_pos (isRunning_iff.mpr running))

/-- Settles O42. -/
theorem choiceTakesTheNextPortsOldestJob : Obligations.ChoiceTakesTheNextPortsOldestJob := by
  refine ⟨fun pattern n => ⟨length_patternBytes pattern n, fun i h k => getLsbD_patternBytes pattern h⟩, fun s running => ?_⟩
  rw [exec_jobChoice running]
  refine ⟨fun busy => ?_, fun idle => congrArg _ (runChoice_of_no_job idle _), fun queued j chosen => ?_⟩
  · obtain ⟨j, active⟩ := activeJob_of_exists busy
    exact congrArg _ (choose_of_active active)
  · have idle : s.activeJob = none := activeJob_eq_none fun x mem => by simp [queued x mem]
    rw [choose_next idle (nextJob_of_chooses chosen)]
    have unmoved := decide_congr (u := s.activate j) (s := s) rfl rfl { j with state := .active }
    exact ⟨fun kind place decided => congrArg _ (decisionPoint_place (unmoved.trans decided)),
      fun outcome decided => congrArg _ (decisionPoint_finish (unmoved.trans decided))⟩

/-! ## COPY_WRITE_COMPLETE (R109, R110) -/

/-- A segment's write: its bytes are stored, bytes done rises, and the next decision point runs. -/
theorem exec_copyWriteGood {b : BankNo} {op : StoreOp} {rest : List StoreOp} {id : Byte} {data : List Byte}
    (running : s.phase = .running) (head : s.queue b = op :: rest) (origin : op.origin = .copy id) (write : op.kind = .write data)
    (active : s.activeJob = some j) :
    exec (.copyWriteComplete b) s = .next
      (((({ s.befall with pool := op.store s.befall.pool, segment := [] } : State).modQueue b fun _ => rest).modJob j.id fun x =>
        { x with bytesDone := x.bytesDone + data.length }).decisionPoint { j with bytesDone := j.bytesDone + data.length }) := by
  have taken : exec (.copyWriteComplete b) s = .next (s.copyWriteGood b) :=
    congrArg Host.Outcome.next (if_pos (isRunning_iff.mpr running))
  rw [taken, State.copyWriteGood, head]
  simp only [origin, write, active]
  rw [popOp_eq ((befall_queue b).trans head)]
  rfl

/-- Settles O45. -/
theorem copyWriteRaisesBytesDone : Obligations.CopyWriteRaisesBytesDone := by
  intro s b op rest id data before after j running head origin write jobs first active
  rw [exec_copyWriteGood running head origin write (activeJob_of_split jobs first active), State.modJob]
  dsimp only [State.modQueue_jobs]
  rw [befall_jobs]
  have unmoved : ∀ (v : State), v.locks = s.befall.locks → v.pages = s.befall.pages → ∀ x, v.decide x = s.decide x :=
    fun v locks pages x => decide_congr (locks.trans (by rw [befall_rest])) (pages.trans (by rw [befall_rest])) x
  exact ⟨fun kind place decided => congrArg _ (decisionPoint_place ((unmoved _ rfl rfl _).trans decided)),
    fun outcome decided => congrArg _ (decisionPoint_finish ((unmoved _ rfl rfl _).trans decided))⟩

end Sys2Proof.Machine

/-! # CANCEL and JOB-QUERY (R116, R118) -/
namespace Sys2Proof.Machine

variable {s : State} {p : Port} {t : Tag} {id : Byte} {j : Job} {before after : List Job}

theorem exec_cancel (h : s.Takes p t) (id : Byte) :
    exec (.cancel p t id) s = .next ((s.handed p t (.cancel id)).cancel p t id) :=
  congrArg Host.Outcome.next (receive_handed h 0x52 nofun rfl)

theorem exec_jobQuery (h : s.Takes p t) (id : Byte) :
    exec (.jobQuery p t id) s = .next ((s.handed p t (.jobQuery id)).jobQuery p t id) :=
  congrArg Host.Outcome.next (receive_handed h 0x53 nofun rfl)

/-! ## The job that a request names -/

theorem jobOf_eq_none (absent : ∀ j ∈ s.jobs, ¬ (j.id = id ∧ j.port = p)) : s.jobOf p id = none :=
  List.find?_eq_none.mpr (by simpa using absent)

section
variable (jobs : s.jobs = before ++ j :: after) (first : ∀ x ∈ before, ¬ (x.id = id ∧ x.port = p)) (named : j.id = id)
  (own : j.port = p)
include jobs first named own

theorem jobOf_of_split : s.jobOf p id = some j := by
  rw [State.jobOf, jobs, List.find?_append, List.find?_eq_none.mpr (by simpa using first), Option.none_or,
    List.find?_cons_of_pos (by simp [named, own])]

/-- The position that JOB-QUERY reports counts the jobs before it (R118). -/
theorem findIdx_of_split : s.jobs.findIdx (fun x => x.id == id && x.port == p) = before.length := by
  have others : before.findIdx (fun x => x.id == id && x.port == p) = before.length :=
    List.findIdx_eq_length.mpr (by simpa using first)
  rw [jobs, List.findIdx_append, others, if_neg (Nat.lt_irrefl _)]
  simp [List.findIdx_cons, named, own]

end

/-! ## What the two requests do -/

theorem cancel_of_none (none : s.jobOf p id = none) : s.cancel p t id = s.answer p t 0x52 .notFound := by
  rw [State.cancel, none]

theorem jobQuery_of_none (none : s.jobOf p id = none) : s.jobQuery p t id = s.answer p t 0x53 .notFound := by
  rw [State.jobQuery, none]

theorem jobQuery_of_some (found : s.jobOf p id = some j) :
    s.jobQuery p t id =
      s.answer p t 0x53 .ok (.job (s.jobs.findIdx (fun x => x.id == id && x.port == p) + 1) j) := by
  rw [State.jobQuery, found]

theorem cancel_of_active (found : s.jobOf p id = some j) (active : j.state = .active) :
    s.cancel p t id = (s.modJob id fun x => { x with cancel := true }).answer p t 0x52 .ok := by
  rw [State.cancel, found]
  dsimp only
  rw [active]

theorem cancel_of_queued (found : s.jobOf p id = some j) (queued : j.state = .queued) :
    s.cancel p t id = (((s.answer p t 0x52 .ok).removeJob id).unpinJob j).offer p (.jobEnd id .cancelled 0) := by
  rw [State.cancel, found]
  dsimp only
  rw [queued]

/-- Settles O46: each case is the unit's own, its slot gone with the reply. -/
theorem cancelAndJobQuery : Obligations.CancelAndJobQuery := by
  intro p t id s h
  rw [exec_cancel h, exec_jobQuery h]
  refine ⟨fun absent => ?_, fun before after j jobs first named own => ?_⟩
  · have none : ∀ r, (s.handed p t r).jobOf p id = none := fun r => jobOf_eq_none (s := s.handed p t r) absent
    rw [cancel_of_none (none _), jobQuery_of_none (none _), handed_answer h, handed_answer h]
    exact ⟨rfl, rfl⟩
  · have found : ∀ r, (s.handed p t r).jobOf p id = some j := fun r => jobOf_of_split (s := s.handed p t r) jobs first named own
    refine ⟨?_, fun active => ?_, fun queued => ?_⟩
    · rw [jobQuery_of_some (found _), findIdx_of_split (s := s.handed p t _) jobs first named own, handed_answer h]
    · rw [cancel_of_active (found _) active]
      exact congrArg Host.Outcome.next (answer_withSlot (s := s.modJob id _) h.tagFree _ .inFlight _ _ _)
    · rw [cancel_of_queued (found _) queued, handed_answer h]
      rfl

end Sys2Proof.Machine

/-! # The overlap of two ranges (R104, R105) -/
namespace Sys2Proof.Machine

variable {l : List PageNo} {start n o : Nat} {q : PageNo}

/-- A place holds an offset of a page. -/
def PlaceHolds (x : PageNo × Nat × Nat) (q : PageNo) (o : Nat) : Prop := x.1 = q ∧ x.2.1 ≤ o ∧ o < x.2.2

theorem places_cons (q : PageNo) (l : List PageNo) (start n : Nat) :
    places (q :: l) start n = (q, start, start + min n (4096 - start)) :: places l 0 (n - min n (4096 - start)) := rfl

/-- The places of a range hold the bytes of its positions (R104). -/
theorem places_hold_iff (inPage : start < 4096) :
    (∃ x ∈ places l start n, PlaceHolds x q o) ↔ ∃ i < n, l[(start + i) / 4096]? = some q ∧ (start + i) % 4096 = o := by
  induction l generalizing start n with
  | nil => simp [places]
  | cons q' l ih =>
    rw [places_cons]
    simp only [List.mem_cons, exists_eq_or_imp, ih (start := 0) (by decide), Nat.zero_add]
    constructor
    · rintro (⟨rfl, least, most⟩ | ⟨i, inside, page, rfl⟩)
      · dsimp only at least most
        have here : (start + (o - start)) / 4096 = 0 := by omega
        exact ⟨o - start, by omega, by rw [here]; rfl, by omega⟩
      · have next : (start + (4096 - start + i)) / 4096 = i / 4096 + 1 := by omega
        exact ⟨4096 - start + i, by omega, by rw [next]; exact page, by omega⟩
    · rintro ⟨i, inside, page, rfl⟩
      by_cases first : start + i < 4096
      · have here : (start + i) / 4096 = 0 := by omega
        rw [here] at page
        exact .inl ⟨Option.some.inj page, by dsimp only; omega, by dsimp only; omega⟩
      · have next : (start + i) / 4096 = (i - (4096 - start)) / 4096 + 1 := by omega
        rw [next] at page
        exact .inr ⟨i - (4096 - start), by omega, page, by omega⟩

/-- Every place of a range of at least one byte begins its page or holds a byte. -/
theorem places_begin_or_hold (inPage : start < 4096) (nonempty : start = 0 ∨ 1 ≤ n) :
    ∀ x ∈ places l start n, x.2.1 = 0 ∨ x.2.1 < x.2.2 := by
  induction l generalizing start n with
  | nil => nofun
  | cons q' l ih =>
    rw [places_cons]
    refine List.forall_mem_cons.mpr ⟨?_, ih (by decide) (.inl rfl)⟩
    dsimp only
    omega

theorem placesMeet_iff {x y : PageNo × Nat × Nat} (hx : x.2.1 = 0 ∨ x.2.1 < x.2.2) (hy : y.2.1 = 0 ∨ y.2.1 < y.2.2) :
    placesMeet x y = true ↔ ∃ q o, PlaceHolds x q o ∧ PlaceHolds y q o := by
  obtain ⟨q, a, b⟩ := x
  obtain ⟨q', c, d⟩ := y
  simp only [placesMeet, Bool.and_eq_true, beq_iff_eq, decide_eq_true_eq, PlaceHolds]
  constructor
  · rintro ⟨⟨rfl, before⟩, after⟩
    dsimp only at hx hy before after
    exact ⟨q, max a c, ⟨rfl, by omega, by omega⟩, rfl, by omega, by omega⟩
  · rintro ⟨_, o, ⟨rfl, least, most⟩, same, least', most'⟩
    exact ⟨⟨same.symm, Nat.lt_of_le_of_lt least most'⟩, Nat.lt_of_le_of_lt least' most⟩

/-- The overlap check finds a pool byte that both ranges touch (R105). -/
theorem rangesOverlap_iff {src dst : List PageNo} {srcStart dstStart : Nat} (nonempty : 1 ≤ n) (srcInPage : srcStart < 4096)
    (dstInPage : dstStart < 4096) :
    rangesOverlap src srcStart dst dstStart n = true ↔ SharePoolByte src srcStart dst dstStart n := by
  have meet : rangesOverlap src srcStart dst dstStart n = true ↔
      ∃ q o, (∃ x ∈ places src srcStart n, PlaceHolds x q o) ∧ ∃ y ∈ places dst dstStart n, PlaceHolds y q o := by
    simp only [rangesOverlap, List.any_eq_true]
    constructor
    · rintro ⟨x, hx, y, hy, meet⟩
      obtain ⟨q, o, left, right⟩ := (placesMeet_iff (places_begin_or_hold srcInPage (.inr nonempty) x hx)
        (places_begin_or_hold dstInPage (.inr nonempty) y hy)).mp meet
      exact ⟨q, o, ⟨x, hx, left⟩, y, hy, right⟩
    · rintro ⟨q, o, ⟨x, hx, left⟩, y, hy, right⟩
      exact ⟨x, hx, y, hy, (placesMeet_iff (places_begin_or_hold srcInPage (.inr nonempty) x hx)
        (places_begin_or_hold dstInPage (.inr nonempty) y hy)).mpr ⟨q, o, left, right⟩⟩
  rw [meet, SharePoolByte]
  simp only [places_hold_iff srcInPage, places_hold_iff dstInPage]
  constructor
  · rintro ⟨q, o, ⟨i, hi, source, rfl⟩, j, hj, destination, same⟩
    exact ⟨i, j, hi, hj, ⟨q, source, destination⟩, same.symm⟩
  · rintro ⟨i, j, hi, hj, ⟨q, source, destination⟩, same⟩
    exact ⟨q, _, ⟨i, hi, source, rfl⟩, j, hj, destination, same.symm⟩

end Sys2Proof.Machine

/-! # COPY and FILL (R101 to R106) -/
namespace Sys2Proof.Machine

variable {s : State} {p : Port} {t : Tag}

/-! ## The range (R102, R104) -/

theorem rangeOutOfBounds_iff {frame : Byte} {offset : Half} {length : Word} :
    rangeOutOfBounds frame offset length = true ↔ ¬ RangeInWindow frame offset length := by
  have zero : length = 0 ↔ length.toNat = 0 := by simp [BitVec.toNat_eq]
  simp only [rangeOutOfBounds, RangeInWindow, Bool.or_eq_true, decide_eq_true_eq, beq_iff_eq, zero,
    Config.pageBytes, Config.windowBytes]
  omega

theorem mapM_eq_some_iff {α β : Type} {f : α → Option β} {l : List α} {ys : List β} :
    l.mapM f = some ys ↔ List.Forall₂ (fun x y => f x = some y) l ys := by
  induction l generalizing ys with
  | nil => simp [eq_comm]
  | cons x l ih =>
    rw [List.mapM_cons, List.forall₂_cons_left_iff]
    simp only [Option.bind_eq_bind, Option.bind_eq_some_iff, ih, Option.pure_def, Option.some.injEq]
    exact ⟨fun ⟨y, hy, tail, rest, same⟩ => ⟨y, tail, hy, rest, same.symm⟩, fun ⟨y, tail, hy, rest, same⟩ =>
      ⟨y, hy, tail, rest, same.symm⟩⟩

/-- The range check of the model resolves each frame that a range touches (R104). -/
theorem resolveRange_iff {set : MapSet} {frame : Byte} {offset : Half} {length : Word} {es : List Entry} :
    s.resolveRange p set frame.toNat offset.toNat length.toNat = some es ↔ s.RangeResolves p set frame offset length es := by
  have frames : framesTouched offset.toNat length.toNat = (offset.toNat + length.toNat - 1) / 4096 + 1 := rfl
  have entry : ∀ i e, ((below 64 i).bind (s.resolve p set) = some e ↔ ∃ f : FrameNo, f.val = i ∧ s.resolve p set f = some e) :=
    fun i e => by simp only [Option.bind_eq_some_iff, below_eq_some, eq_comm (a := i)]
  rw [State.resolveRange, mapM_eq_some_iff, List.forall₂_iff_get, State.RangeResolves]
  simp only [entry, List.length_map, List.length_range, List.get_eq_getElem, List.getElem_map, List.getElem_range, frames]
  exact ⟨fun ⟨size, each⟩ => ⟨size.symm, fun i h => each i (size ▸ h) h⟩, fun ⟨size, each⟩ => ⟨size.symm, fun i _ h => each i h⟩⟩

theorem resolveRange_none {set : MapSet} {frame : Byte} {offset : Half} {length : Word}
    (disabled : ∀ es, ¬ s.RangeResolves p set frame offset length es) :
    s.resolveRange p set frame.toNat offset.toNat length.toNat = none :=
  Option.eq_none_iff_forall_ne_some.mpr fun es resolved => disabled es (resolveRange_iff.mp resolved)

theorem readOnly_iff {es : List Entry} : es.any (·.access == .readOnly) = true ↔ ∃ e ∈ es, e.access = .readOnly := by simp

theorem jobsFull_iff : s.jobsFull p = true ↔ s.QueueFull p := by
  simp only [State.jobsFull, Bool.or_eq_true, decide_eq_true_eq]
  rfl

/-! ## The id of an accepted job (R101) -/

/-- Ids in use that follow one another are no more than the jobs. -/
theorem run_of_ids_le (id : Byte) {k : Nat} (small : k ≤ 256) (used : ∀ i < k, s.idInUse (id + BitVec.ofNat 8 i) = true) :
    k ≤ s.jobs.length := by
  have maps : ∀ i ∈ Finset.range k, id + BitVec.ofNat 8 i ∈ (s.jobs.map (·.id)).toFinset := fun i mem => by
    simpa [State.idInUse] using used i (Finset.mem_range.mp mem)
  have distinct : ∀ i ∈ Finset.range k, ∀ i' ∈ Finset.range k, id + BitVec.ofNat 8 i = id + BitVec.ofNat 8 i' → i = i' := by
    intro i mem i' mem' same
    have := Finset.mem_range.mp mem
    have := Finset.mem_range.mp mem'
    have := congrArg BitVec.toNat same
    simp only [BitVec.toNat_add, BitVec.toNat_ofNat] at this
    omega
  have fewer := (Finset.card_le_card_of_injOn _ maps distinct).trans (List.toFinset_card_le _)
  rwa [Finset.card_range, List.length_map] at fewer

/-- The search passes over ids in use alone. -/
theorem freeId_walks (n : Nat) (id : Byte) :
    ∃ k ≤ n, s.freeId n id = id + BitVec.ofNat 8 k ∧ ∀ i < k, s.idInUse (id + BitVec.ofNat 8 i) = true := by
  induction n generalizing id with
  | zero => exact ⟨0, Nat.le_refl _, by simp [State.freeId], nofun⟩
  | succ n ih =>
    rw [State.freeId]
    split
    · next used =>
      obtain ⟨k, le, found, passed⟩ := ih (id + 1)
      have next : ∀ i, id + 1 + BitVec.ofNat 8 i = id + BitVec.ofNat 8 (i + 1) := fun i => by
        rw [BitVec.add_assoc, Nat.add_comm, BitVec.ofNat_add]
        rfl
      refine ⟨k + 1, Nat.succ_le_succ le, found.trans (next k), fun i lt => ?_⟩
      cases i with
      | zero => simpa using used
      | succ i => rw [← next]; exact passed i (Nat.lt_of_succ_lt_succ lt)
    · exact ⟨0, Nat.zero_le _, by simp, nofun⟩

theorem freeId_handed (r : Request) (n : Nat) (id : Byte) : (s.handed p t r).freeId n id = s.freeId n id := by
  induction n generalizing id with
  | zero => rfl
  | succ n ih =>
    rw [State.freeId, State.freeId, ih]
    rfl

theorem givesId_freeId (room : s.jobs.length < 8) : s.GivesId (s.freeId Config.jobPlaces s.nextJobId) := by
  have fresh := freeId_fresh (s := s) room s.nextJobId
  obtain ⟨k, le, found, passed⟩ := freeId_walks (s := s) Config.jobPlaces s.nextJobId
  have few := run_of_ids_le s.nextJobId (Nat.le_trans le (by decide)) passed
  exact ⟨by simpa [State.idInUse] using fresh, k, found, Nat.lt_of_le_of_lt few room, by simpa [State.idInUse] using passed⟩

/-! ## Acceptance (R106) -/

theorem foldl_pinUp_handed (r : Request) (l : List PageNo) :
    l.foldl State.pinUp (s.handed p t r) = (l.foldl State.pinUp s).handed p t r := by
  induction l generalizing s with
  | nil => rfl
  | cons q l ih => exact ih (s := s.pinUp q)

theorem foldl_pinUp_port (l : List PageNo) : (l.foldl State.pinUp s).port p = s.port p :=
  foldl_pinUp_keeps (State.port · p) (fun _ _ => rfl) l

/-- The pins fall to the pages and the reply frees the slot that the request took. -/
theorem pinAndReply_handed (tagFree : ∀ x ∈ (s.port p).slots, x.tag ≠ t) (r : Request) (code : Byte) (j : Job) :
    (s.handed p t r).pinAndReply p t code j = (j.pages.foldl State.pinUp s).reply p t code .ok (.jobId j.id) := by
  rw [State.pinAndReply, foldl_pinUp_handed]
  exact answer_withSlot (by rw [foldl_pinUp_port]; exact tagFree) r .inFlight code .ok _

theorem accepted_jobs (code : Byte) (j : Job) : (s.accepted p t code j).jobs = s.jobs ++ [j] :=
  foldl_pinUp_keeps State.jobs (fun _ _ => rfl) j.pages

/-- The choice that follows an acceptance waits while a job is ACTIVE (R107). -/
theorem choose_of_exists_active (busy : ∃ j ∈ s.jobs, j.state = .active) : s.choose = s := by
  obtain ⟨j, active⟩ := activeJob_of_exists busy
  exact choose_of_active active

/-- What the acceptance of a request comes to: the id, the record with its pins and its reply, and the choice. -/
theorem acceptJob_handed (h : s.Takes p t) (r : Request) (room : ¬ s.QueueFull p) (code : Byte) (kind : JobKind) (set : MapSet)
    (pages : List PageNo) (start length : Nat) :
    ∃ id, s.GivesId id ∧ (s.handed p t r).acceptJob p t code kind set pages start length =
      if ∃ j ∈ s.jobs, j.state = .active then s.accepted p t code (newJob id p kind set pages start length)
      else (s.accepted p t code (newJob id p kind set pages start length)).choose := by
  refine ⟨_, givesId_freeId (Nat.not_le.mp fun full => room (.inl full)), ?_⟩
  rw [acceptJob_eq]
  have counter : (s.handed p t r).nextJobId = s.nextJobId := rfl
  rw [freeId_handed, counter]
  generalize newJob _ p kind set pages start length = j
  have reached : ((s.handed p t r).joined j).pinAndReply p t code j = s.accepted p t code j :=
    pinAndReply_handed (s := s.joined j) h.tagFree r code j
  rw [reached]
  split
  · next busy =>
    obtain ⟨x, mem, active⟩ := busy
    exact choose_of_exists_active ⟨x, by rw [accepted_jobs]; exact List.mem_append_left _ mem, active⟩
  · rfl

/-! ## The requests at the Copy Engine -/

/-- A request that R42 does not name, or that finds no SELECT pending, reaches its unit. -/
theorem receive_unheld (h : s.Takes p t) (code : Byte) {r : Request} (unreserved : r.isReserved = false)
    (unheld : (s.map p).pendingSet = none ∨ r.isHeld = false) :
    s.receive p t code (.request r) = (s.handed p t r).handOver p t r := by
  have role : r.isReserved = true → s.role = some p := by rw [unreserved]; nofun
  rcases unheld with none | free
  · exact receive_at_once ⟨h, none⟩ code role
  · exact receive_handed h code role free

section
variable {ss sf ds df : Byte} {so dOff : Half} {n pattern : Word} {x y : SetCode}

theorem exec_copy (h : s.Takes p t) (source : setCodeOf ss = some x) (destination : setCodeOf ds = some y)
    (unheld : (s.map p).pendingSet = none ∨ x ≠ .present ∧ y ≠ .present) :
    exec (.copy p t ss sf so ds df dOff n) s = .next ((s.handed p t (.copy x sf so y df dOff n)).copy p t x sf so y df dOff n) := by
  have request : copyRequest ss sf so ds df dOff n = some (.copy x sf so y df dOff n) := by
    rw [copyRequest, source, destination]
    rfl
  show Host.Outcome.next (s.receive p t 0x50 (.ofOption (copyRequest ss sf so ds df dOff n))) = _
  rw [request]
  exact congrArg Host.Outcome.next (receive_unheld h 0x50 rfl (unheld.imp id fun free => by simp [Request.isHeld, free]))

theorem exec_fill (h : s.Takes p t) (destination : setCodeOf ds = some y)
    (unheld : (s.map p).pendingSet = none ∨ y ≠ .present) :
    exec (.fill p t ds df dOff n pattern) s = .next ((s.handed p t (.fill y df dOff n pattern)).fill p t y df dOff n pattern) := by
  have request : fillRequest ds df dOff n pattern = some (.fill y df dOff n pattern) := by
    rw [fillRequest, destination]
    rfl
  show Host.Outcome.next (s.receive p t 0x51 (.ofOption (fillRequest ds df dOff n pattern))) = _
  rw [request]
  exact congrArg Host.Outcome.next (receive_unheld h 0x51 rfl (unheld.imp id fun free => by simp [Request.isHeld, free]))

/-! ## The checks of a COPY (R102) -/

theorem copy_bounds (outside : ¬ (RangeInWindow sf so n ∧ RangeInWindow df dOff n)) :
    s.copy p t x sf so y df dOff n = s.answer p t 0x50 .bounds := by
  rw [State.copy, if_pos (by rw [rangeOutOfBounds_iff, rangeOutOfBounds_iff]; tauto)]

section
variable (srcRange : RangeInWindow sf so n) (dstRange : RangeInWindow df dOff n)
include srcRange dstRange

theorem copy_inBounds : ¬ (rangeOutOfBounds sf so n = true ∨ rangeOutOfBounds df dOff n = true) := by
  rw [rangeOutOfBounds_iff, rangeOutOfBounds_iff]
  tauto

theorem copy_unmapped (disabled : (∀ es, ¬ s.RangeResolves p (s.setOf p x) sf so n es) ∨
    (∀ es, ¬ s.RangeResolves p (s.setOf p y) df dOff n es)) : s.copy p t x sf so y df dOff n = s.answer p t 0x50 .unmapped := by
  rw [State.copy, if_neg (copy_inBounds srcRange dstRange)]
  rcases disabled with disabled | disabled
  · rw [resolveRange_none disabled]
  · rw [resolveRange_none disabled]
    cases s.resolveRange p (s.setOf p x) sf.toNat so.toNat n.toNat <;> rfl

theorem copy_mapped {src dst : List Entry} (source : s.RangeResolves p (s.setOf p x) sf so n src)
    (destination : s.RangeResolves p (s.setOf p y) df dOff n dst) :
    s.copy p t x sf so y df dOff n =
      if dst.any (·.access == .readOnly) then s.answer p t 0x50 .denied
      else if rangesOverlap (src.map (·.page)) so.toNat (dst.map (·.page)) dOff.toNat n.toNat then s.answer p t 0x50 .overlap
      else if s.jobsFull p then s.answer p t 0x50 .queueFull
      else s.acceptJob p t 0x50 (.copy (s.setOf p x) (src.map (·.page)) so.toNat) (s.setOf p y) (dst.map (·.page)) dOff.toNat
        n.toNat := by
  rw [State.copy, if_neg (copy_inBounds srcRange dstRange), resolveRange_iff.mpr source, resolveRange_iff.mpr destination]

end

/-! ## The checks of a FILL (R103) -/

theorem fill_bounds (outside : ¬ (RangeInWindow df dOff n ∧ dOff.toNat % 4 = 0 ∧ n.toNat % 4 = 0)) :
    s.fill p t y df dOff n pattern = s.answer p t 0x51 .bounds := by
  rw [State.fill, if_pos (by rw [rangeOutOfBounds_iff]; tauto)]

section
variable (inRange : RangeInWindow df dOff n ∧ dOff.toNat % 4 = 0 ∧ n.toNat % 4 = 0)
include inRange

theorem fill_inBounds : ¬ (rangeOutOfBounds df dOff n = true ∨ dOff.toNat % 4 ≠ 0 ∨ n.toNat % 4 ≠ 0) := by
  rw [rangeOutOfBounds_iff]
  tauto

theorem fill_unmapped (disabled : ∀ es, ¬ s.RangeResolves p (s.setOf p y) df dOff n es) :
    s.fill p t y df dOff n pattern = s.answer p t 0x51 .unmapped := by
  rw [State.fill, if_neg (fill_inBounds inRange), resolveRange_none disabled]

theorem fill_mapped {dst : List Entry} (destination : s.RangeResolves p (s.setOf p y) df dOff n dst) :
    s.fill p t y df dOff n pattern =
      if dst.any (·.access == .readOnly) then s.answer p t 0x51 .denied
      else if s.jobsFull p then s.answer p t 0x51 .queueFull
      else s.acceptJob p t 0x51 (.fill pattern) (s.setOf p y) (dst.map (·.page)) dOff.toNat n.toNat := by
  rw [State.fill, if_neg (fill_inBounds inRange), resolveRange_iff.mpr destination]

end

end

/-- A refusal leaves the reply alone. -/
theorem handed_refused (h : s.Takes p t) {c : Instr} {r : Request} {u : State} {code : Byte} {st : Status}
    (reached : exec c s = .next u) (refused : u = (s.handed p t r).answer p t code st) :
    exec c s = .next (s.reply p t code st) := by
  rw [reached, refused, handed_answer h]

/-- Settles O40: the checks in order, each with those before it passed, and then the acceptance. -/
theorem copyAndFillAreAcceptedOrRefused : Obligations.CopyAndFillAreAcceptedOrRefused := by
  refine ⟨fun p t ss sf so ds df dOff n s x y h source destination unheld => ?_,
    fun p t ds df dOff n pattern s y h destination unheld => ?_⟩
  · have reached := exec_copy (sf := sf) (so := so) (df := df) (dOff := dOff) (n := n) h source destination unheld
    refine ⟨fun outside => handed_refused h reached (copy_bounds outside), fun srcRange dstRange =>
      ⟨fun disabled => handed_refused h reached (copy_unmapped srcRange dstRange disabled), fun src dst srcOf dstOf => ?_⟩⟩
    have checked := copy_mapped (s := s.handed p t (.copy x sf so y df dOff n)) (t := t) srcRange dstRange srcOf dstOf
    obtain ⟨-, srcInPage, nonempty, -⟩ := srcRange
    obtain ⟨-, dstInPage, -⟩ := dstRange
    have overlap := rangesOverlap_iff (src := src.map (·.page)) (dst := dst.map (·.page)) nonempty srcInPage dstInPage
    refine ⟨fun denied => ?_, fun allowed shared => ?_, fun allowed apart full => ?_, fun allowed apart room => ?_⟩
    · exact handed_refused h reached (checked.trans (if_pos (readOnly_iff.mpr denied)))
    · rw [if_neg (mt readOnly_iff.mp allowed)] at checked
      exact handed_refused h reached (checked.trans (if_pos (overlap.mpr shared)))
    · rw [if_neg (mt readOnly_iff.mp allowed), if_neg (mt overlap.mp apart)] at checked
      exact handed_refused h reached (checked.trans (if_pos (jobsFull_iff.mpr full)))
    · rw [if_neg (mt readOnly_iff.mp allowed), if_neg (mt overlap.mp apart),
        if_neg (mt (jobsFull_iff (s := s.handed p t _)).mp room)] at checked
      obtain ⟨id, gives, accepted⟩ := acceptJob_handed h _ room 0x50 _ _ _ _ _
      exact ⟨id, gives, reached.trans (congrArg _ (checked.trans accepted))⟩
  · have reached := exec_fill (df := df) (dOff := dOff) (n := n) (pattern := pattern) h destination unheld
    refine ⟨fun outside => handed_refused h reached (fill_bounds outside), fun inRange =>
      ⟨fun disabled => handed_refused h reached (fill_unmapped inRange disabled), fun dst dstOf => ?_⟩⟩
    have checked := fill_mapped (s := s.handed p t (.fill y df dOff n pattern)) (t := t) (pattern := pattern) inRange dstOf
    refine ⟨fun denied => ?_, fun allowed full => ?_, fun allowed room => ?_⟩
    · exact handed_refused h reached (checked.trans (if_pos (readOnly_iff.mpr denied)))
    · rw [if_neg (mt readOnly_iff.mp allowed)] at checked
      exact handed_refused h reached (checked.trans (if_pos (jobsFull_iff.mpr full)))
    · rw [if_neg (mt readOnly_iff.mp allowed), if_neg (mt (jobsFull_iff (s := s.handed p t _)).mp room)] at checked
      obtain ⟨id, gives, accepted⟩ := acceptJob_handed h _ room 0x51 _ _ _ _ _
      exact ⟨id, gives, reached.trans (congrArg _ (checked.trans accepted))⟩

end Sys2Proof.Machine

/-! # DRAIN and RESTORE (R122, R124, R125, R127, R129) -/
namespace Sys2Proof.Machine

variable {s : State} {p : Port} {t : Tag}

/-! ## A bank's change of state and its BANK-STATE (R129) -/

theorem moveBank_page (b : BankNo) (new : BankState) (cause : BankCause) : (s.moveBank b new cause).page = s.page := by
  rw [State.moveBank, offerSupervisor_page]
  rfl

theorem moveBank_bank (b : BankNo) (new : BankState) (cause : BankCause) (x : BankNo) :
    (s.moveBank b new cause).bank x = if x = b then { s.bank b with state := new } else s.bank x := by
  rw [← State.bank_modBank s b fun r => { r with state := new }]
  unfold State.moveBank State.offerSupervisor
  split <;> rfl

/-- A change of a bank's state touches its record and the role holder's port alone. -/
theorem moveBank_rest (b : BankNo) (new : BankState) (cause : BankCause) :
    s.moveBank b new cause =
      { s with banks := (s.moveBank b new cause).banks, ports := (s.moveBank b new cause).ports } := by
  unfold State.moveBank State.offerSupervisor
  split <;> rfl

theorem moveBank_freeList (b : BankNo) (new : BankState) (cause : BankCause) : (s.moveBank b new cause).freeList = s.freeList := by
  rw [moveBank_rest]

theorem moveBank_role (b : BankNo) (new : BankState) (cause : BankCause) : (s.moveBank b new cause).role = s.role := by
  rw [moveBank_rest]

/-- The role holder is told of the change of a bank's state. -/
theorem moveBank_ports (role : s.role = some p) (b : BankNo) (new : BankState) (cause : BankCause) :
    (s.moveBank b new cause).ports = (s.modPort p (·.offerEvent (.bankState b new cause))).ports := by
  have role' : (s.modBank b fun r => { r with state := new }).role = some p := role
  rw [State.moveBank, State.offerSupervisor, role']
  rfl

/-! ## The drain of a bank (R124, R125) -/

/-- A bank's FREE pages withheld, and the bank DRAINING: what a drain does before its bank-offline check. -/
def State.beginDrain (s : State) (b : BankNo) (cause : BankCause) : State := (s.withholdBank b).moveBank b .draining cause

theorem beginDrain_bank (b : BankNo) (cause : BankCause) (x : BankNo) :
    (s.beginDrain b cause).bank x =
      if x = b then { s.bank b with state := .draining, free := 0, withheld := (s.bank b).withheld + (s.bank b).free }
      else s.bank x := by
  rw [State.beginDrain, moveBank_bank, withholdBank_bank, if_pos rfl, withholdBank_bank]
  split <;> rfl

/-- A drain goes on to OFFLINE where the bank has no page in use (R125). -/
theorem drainBank_eq (b : BankNo) (cause : BankCause) :
    s.drainBank b cause =
      if (s.bank b).allocated = 0 ∧ (s.bank b).orphaned = 0 then (s.beginDrain b cause).moveBank b .offline .drained
      else s.beginDrain b cause := by
  show (s.beginDrain b cause).bankOfflineCheck b = _
  simp only [State.bankOfflineCheck, beginDrain_bank, if_true, true_and]

theorem drainBank_freeList (b : BankNo) (cause : BankCause) :
    (s.drainBank b cause).freeList = s.freeList.filter (bankOf · ≠ b) := by
  have began : (s.beginDrain b cause).freeList = s.freeList.filter (bankOf · ≠ b) := by
    rw [State.beginDrain, moveBank_freeList, withholdBank_freeList]
    exact List.filter_congr fun q _ => by rw [Bool.eq_iff_iff]; simp [← inBank_iff]
  rw [drainBank_eq]
  split
  · rw [moveBank_freeList, began]
  · exact began

/-- A drain withholds the FREE pages of its bank and no other page. -/
theorem drainBank_withholds (b : BankNo) (cause : BankCause) (q : PageNo) :
    (s.drainBank b cause).page q =
      if bankOf q = b ∧ (s.page q).state = .free then { s.page q with state := .withheld } else s.page q := by
  rw [drainBank_page, ← withholdBank_page, withhold_page]

theorem drainBank_bank (b : BankNo) (cause : BankCause) (x : BankNo) :
    (s.drainBank b cause).bank x =
      if x = b then
        { s.bank b with state := if (s.bank b).allocated = 0 ∧ (s.bank b).orphaned = 0 then .offline else .draining,
                        free := 0, withheld := (s.bank b).withheld + (s.bank b).free }
      else s.bank x := by
  rw [drainBank_eq]
  split
  · rw [moveBank_bank, beginDrain_bank, if_pos rfl, beginDrain_bank]
    split <;> rfl
  · exact beginDrain_bank b cause x

theorem drainBank_ports (role : s.role = some p) (b : BankNo) (cause : BankCause) :
    (s.drainBank b cause).ports =
      (let v := s.modPort p (·.offerEvent (.bankState b .draining cause))
       if (s.bank b).allocated = 0 ∧ (s.bank b).orphaned = 0 then v.modPort p (·.offerEvent (.bankState b .offline .drained))
       else v).ports := by
  have role' : (s.withholdBank b).role = some p := role
  have began : (s.beginDrain b cause).ports = (s.modPort p (·.offerEvent (.bankState b .draining cause))).ports :=
    moveBank_ports role' b _ _
  rw [drainBank_eq]
  dsimp only
  split
  · have role'' : (s.beginDrain b cause).role = some p := (moveBank_role b _ _).trans role'
    rw [moveBank_ports role'']
    simp only [State.modPort, State.port] at began ⊢
    rw [began]
  · exact began

/-- A drain touches the free list, the page and bank records and the ports alone. -/
theorem drainBank_rest (b : BankNo) (cause : BankCause) :
    s.drainBank b cause =
      { s with freeList := (s.drainBank b cause).freeList, pages := (s.drainBank b cause).pages,
               banks := (s.drainBank b cause).banks, ports := (s.drainBank b cause).ports } := by
  rw [drainBank_eq]
  split
  · rw [moveBank_rest, State.beginDrain, moveBank_rest]
    rfl
  · rw [State.beginDrain, moveBank_rest]
    rfl

/-- DRAIN: the refusals, and otherwise the drain behind the reply. -/
theorem exec_drain (h : s.Takes p t) (role : s.role = some p) (bank : Byte) :
    exec (.drain p t bank) s = .next
      (match below 4 bank.toNat with
      | none => s.reply p t 0x61 .bounds
      | some b =>
        if (s.bank b).state ≠ .online then s.reply p t 0x61 .badState else (s.reply p t 0x61 .ok).drainBank b .drain) := by
  simp only [← handed_answer h (.drain bank)]
  exact congrArg Host.Outcome.next (receive_handed h 0x61 (fun _ => role) rfl)

/-! ## The restoring of a bank (R127) -/

/-- The WITHHELD pages of a bank in ascending order, as a RESTORE returns them. -/
def State.returnedPages (s : State) (b : BankNo) : List PageNo :=
  s.pagesWhere fun q r => inBank b q && r.state == PageState.withheld

theorem mem_returnedPages {b : BankNo} {q : PageNo} :
    q ∈ s.returnedPages b ↔ bankOf q = b ∧ (s.page q).state = .withheld := mem_returned

theorem sorted_returnedPages (b : BankNo) : (s.returnedPages b).Pairwise (· < ·) := sorted_indexesWhere _ _

theorem restoreBank_freeList (b : BankNo) : (s.restoreBank b).freeList = s.freeList ++ s.returnedPages b :=
  moveBank_freeList b _ _

theorem restoreBank_page (b : BankNo) (q : PageNo) :
    (s.restoreBank b).page q = if q ∈ s.returnedPages b then { s.page q with state := .free } else s.page q := by
  rw [State.restoreBank, moveBank_page, restored_page]
  simp only [mem_returnedPages]

theorem restoreBank_bank (b x : BankNo) :
    (s.restoreBank b).bank x =
      if x = b then { s.bank b with state := .online, withheld := 0, free := (s.bank b).free + (s.bank b).withheld }
      else s.bank x := by
  rw [State.restoreBank, moveBank_bank, returnBank_bank, if_pos rfl, returnBank_bank]
  split <;> rfl

theorem restoreBank_ports (role : s.role = some p) (b : BankNo) :
    (s.restoreBank b).ports = (s.modPort p (·.offerEvent (.bankState b .online .restore))).ports :=
  moveBank_ports (s := s.returnBank b) role b _ _

/-- A restoring touches the free list, the page and bank records and the ports alone. -/
theorem restoreBank_rest (b : BankNo) :
    s.restoreBank b =
      { s with freeList := (s.restoreBank b).freeList, pages := (s.restoreBank b).pages, banks := (s.restoreBank b).banks,
               ports := (s.restoreBank b).ports } := by
  rw [State.restoreBank, moveBank_rest]
  rfl

/-- RESTORE: the refusals, and otherwise the restoring behind the reply. -/
theorem exec_restore (h : s.Takes p t) (role : s.role = some p) (bank : Byte) :
    exec (.restore p t bank) s = .next
      (match below 4 bank.toNat with
      | none => s.reply p t 0x62 .bounds
      | some b =>
        if (s.bank b).state = .online then s.reply p t 0x62 .badState else (s.reply p t 0x62 .ok).restoreBank b) := by
  simp only [← handed_answer h (.restore bank)]
  exact congrArg Host.Outcome.next (receive_handed h 0x62 (fun _ => role) rfl)

/-- Settles O47: the refusals of each request, and then the drain or the restoring, table by table, behind the reply. -/
theorem drainAndRestoreMoveTheBanksPages : Obligations.DrainAndRestoreMoveTheBanksPages := by
  refine ⟨fun p t bank s h role => ?_, fun p t bank s h role => ?_⟩
  · rw [exec_drain h role]
    refine ⟨fun bad => by rw [below_eq_none.mpr bad], fun b named => ?_⟩
    rw [← named, below_val]
    refine ⟨fun drained => congrArg _ (if_pos drained), fun online => ?_⟩
    have role' : (s.reply p t 0x61 .ok).role = some p := role
    refine ⟨(s.reply p t 0x61 .ok).drainBank b .drain, congrArg _ (if_neg (not_not_intro online)), drainBank_freeList b _,
      drainBank_withholds b _, (drainBank_bank b _ b).trans (if_pos rfl),
      fun x other => (drainBank_bank b _ x).trans (if_neg other),
      drainBank_ports role' b _, ?_⟩
    rw [drainBank_rest]
    rfl
  · rw [exec_restore h role]
    refine ⟨fun bad => by rw [below_eq_none.mpr bad], fun b named => ?_⟩
    rw [← named, below_val]
    refine ⟨fun online => congrArg _ (if_pos online), fun drained => ?_⟩
    have role' : (s.reply p t 0x62 .ok).role = some p := role
    refine ⟨(s.reply p t 0x62 .ok).restoreBank b, s.returnedPages b, congrArg _ (if_neg drained), sorted_returnedPages b,
      fun q => mem_returnedPages, restoreBank_freeList b, restoreBank_page b, (restoreBank_bank b b).trans (if_pos rfl),
      fun x other => (restoreBank_bank b x).trans (if_neg other), restoreBank_ports role' b, ?_⟩
    rw [restoreBank_rest]
    rfl

end Sys2Proof.Machine

/-! # Every step keeps the bounds of the Port Controllers, and each transmitter with its line and queue (R147, R175, R179, R180) -/
namespace Sys2Proof.Machine

variable {s u : State} {c d : PortCtl}

/-! ## What a move does to one Port Controller -/

/-- What a move leaves of a Port Controller in a device of that phase. -/
inductive PortChange (phase : Phase) : PortCtl → PortCtl → Prop
  | same (c : PortCtl) : PortChange phase c c
  | move {c d : PortCtl} (m : PortMove c d) : PortChange phase c d
  | opened (c : PortCtl) : PortChange phase c
      { c with session := .opened, closeReason := none, inFlight := 0, activeJob := false, lost := 0 }
  | closing (c : PortCtl) (reason : CloseReason) : PortChange phase c
      { c with session := .closing, closeReason := some reason, lost := 0, slots := c.slots.filter (!·.endsAtClosing) }
  | closed (c : PortCtl) : PortChange phase c { c with session := .closed }
  | ticked (c : PortCtl) : PortChange phase c { c with gap := c.gap.map (· - 1) }
  | lineBreak (c : PortCtl) (b : Bool) (silent : phase ≠ .running) : PortChange phase c { c with breakInForce := b }
  | silenced (c : PortCtl) : PortChange phase c c.silence
  | initial (c : PortCtl) : PortChange phase c (PortCtl.initial c.breakInForce)

theorem PortChange.of_ports {phase : Phase} (ports : u.ports = s.ports) (p : Port) : PortChange phase (s.port p) (u.port p) := by
  rw [show u.port p = s.port p by simp only [State.port, ports]]
  exact .same _

theorem PortChange.modPort {phase : Phase} (p : Port) {f : PortCtl → PortCtl} (h : PortChange phase (s.port p) (f (s.port p)))
    (x : Port) : PortChange phase (s.port x) ((s.modPort p f).port x) := by
  rw [State.port_modPort]
  split
  · next e => rw [e]; exact h
  · exact .same _

theorem PortChange.mapEach {phase : Phase} {f : PortCtl → PortCtl} (ports : u.ports = mapEach s.ports fun _ => f)
    (h : ∀ c, PortChange phase c (f c)) (x : Port) : PortChange phase (s.port x) (u.port x) := by
  rw [show u.port x = f (s.port x) by simp [State.port, ports]]
  exact h _

/-- Every move changes every Port Controller in one of these ways. -/
theorem Move.portChange (m : Move s u) (x : Port) : PortChange u.phase (s.port x) (u.port x) := by
  cases m
  case port p f h => exact .modPort p (.move h) x
  case openSession p _ =>
    exact .modPort (s := s) p (f := fun c =>
      { c with session := .opened, closeReason := none, inFlight := 0, activeJob := false, lost := 0 }) (.opened _) x
  case beginClosing p reason _ =>
    exact .modPort (s := s) p (f := fun c =>
      { c with session := .closing, closeReason := some reason, lost := 0, slots := c.slots.filter (!·.endsAtClosing) })
      (.closing _ reason) x
  case closed p _ => exact .modPort (s := s) p (f := fun c => { c with session := .closed }) (.closed _) x
  case lineBreak p b silent => exact .modPort (s := s) p (f := fun c => { c with breakInForce := b }) (.lineBreak _ b silent) x
  case take p n _ => exact .of_ports (takePages_ports n) x
  case lowerTimers => exact .mapEach rfl (fun c => .ticked c) x
  case halt => exact .mapEach rfl (fun c => .silenced c) x
  case enter => exact .mapEach rfl (fun c => .silenced c) x
  case clear => exact .mapEach rfl (fun c => .initial c) x
  case resetLine => exact .mapEach rfl (fun c => .initial c) x
  all_goals exact .of_ports rfl x

/-! ## The bounds (R147, R175) -/

/-- A message that finds fewer than sixteen before it, and fewer than twelve if it is an event that counts, keeps the bounds. -/
theorem PortCtl.Bounded.joinQueue (h : c.Bounded) {m : Message} (room : c.outbound.length < Config.queuePlaces)
    (eventRoom : m.isCountedEvent = true → c.outbound.length < Config.eventPlaces) : (c.joinQueue m).Bounded where
  slots := h.slots
  tags := h.tags
  messages := by
    show (c.outbound ++ [m]).length ≤ _
    rw [List.length_append]
    exact room
  events := by
    show ((c.outbound ++ [m]).filter _).length ≤ _
    rw [List.filter_append, List.length_append]
    have fewer := List.length_filter_le Message.isCountedEvent c.outbound
    have := h.events
    by_cases counted : m.isCountedEvent = true
    · have := eventRoom counted
      simp only [counted, List.filter_cons_of_pos, List.filter_nil, List.length_singleton]
      omega
    · simpa [counted] using h.events
  lost := h.lost

/-- An event that counts is admitted below an occupancy of twelve, which is below sixteen. -/
theorem PortCtl.Bounded.joinEvent (h : c.Bounded) (e : Event) (room : c.outbound.length < Config.eventPlaces) :
    (c.joinQueue (.event e)).Bounded :=
  h.joinQueue (Nat.lt_of_lt_of_le room (by decide)) fun _ => room

theorem PortCtl.Bounded.offerReply (h : c.Bounded) (t : Tag) (code : Byte) (st : Status) (pay : Payload) :
    (c.offerReply t code st pay).Bounded := by
  unfold PortCtl.offerReply
  split
  · next room => exact h.joinQueue room fun counted => by cases counted
  · exact h

theorem PortCtl.Bounded.admitOverflow (h : c.Bounded) : c.admitOverflow.Bounded := by
  unfold PortCtl.admitOverflow
  split
  · next admitted =>
    have joined := h.joinEvent (.overflow c.lost) admitted.2.2
    exact ⟨joined.slots, joined.tags, joined.messages, joined.events, Nat.zero_le _⟩
  · exact h

theorem PortCtl.Bounded.admitOrLose (h : c.Bounded) (e : Event) : (c.admitOrLose e).Bounded := by
  unfold PortCtl.admitOrLose
  split
  · next room => exact h.joinEvent e room
  · exact ⟨h.slots, h.tags, h.messages, h.events, Nat.min_le_left _ _⟩

theorem PortCtl.Bounded.offerEvent (h : c.Bounded) (e : Event) : (c.offerEvent e).Bounded := by
  have admitted := h.admitOverflow.admitOrLose e
  unfold PortCtl.offerEvent
  split
  · split
    · next room => exact h.joinQueue room fun counted => by cases counted
    · exact h
  · exact admitted
  all_goals
    split
    · exact admitted
    · exact h

/-- Slots that go keep the bounds. -/
theorem PortCtl.Bounded.fewerSlots (h : c.Bounded) {l : List Slot} (fewer : l.Sublist c.slots) : { c with slots := l }.Bounded :=
  ⟨fewer.length_le.trans h.slots, h.tags.sublist (fewer.map _), h.messages, h.events, h.lost⟩

theorem PortCtl.Bounded.freeSlot (h : c.Bounded) (t : Tag) : (c.freeSlot t).Bounded := h.fewerSlots List.filter_sublist

theorem setSlot_tags (c : PortCtl) (t : Tag) (st : SlotState) : (c.setSlot t st).slots.map (·.tag) = c.slots.map (·.tag) := by
  rw [PortCtl.setSlot, List.map_map]
  refine List.map_congr_left fun x _ => ?_
  show (if x.tag = t then _ else x).tag = x.tag
  split <;> rfl

theorem PortCtl.Bounded.setSlot (h : c.Bounded) (t : Tag) (st : SlotState) : (c.setSlot t st).Bounded where
  slots := by rw [PortCtl.setSlot, List.length_map]; exact h.slots
  tags := by rw [setSlot_tags]; exact h.tags
  messages := h.messages
  events := h.events
  lost := h.lost

theorem PortCtl.Bounded.occupy (h : c.Bounded) {x : Slot} (free : ∀ y ∈ c.slots, y.tag ≠ x.tag)
    (room : c.slots.length < Config.slotPlaces) : { c with slots := c.slots ++ [x] }.Bounded where
  slots := by rw [List.length_append]; exact room
  tags := by
    rw [List.map_append, List.map_singleton]
    exact List.nodup_append.mpr ⟨h.tags, List.nodup_singleton _, by simpa using free⟩
  messages := h.messages
  events := h.events
  lost := h.lost

theorem PortCtl.Bounded.sent (h : c.Bounded) : c.sent.Bounded := by
  have left := List.tail_sublist c.outbound
  have h' : { c with outbound := c.outbound.tail, tx := TxState.idle }.admitOverflow.Bounded :=
    PortCtl.Bounded.admitOverflow
      ⟨h.slots, h.tags, left.length_le.trans h.messages, (left.filter _).length_le.trans h.events, h.lost⟩
  exact ⟨h'.slots, h'.tags, h'.messages, h'.events, h'.lost⟩

/-- A move of a Port Controller keeps its bounds. -/
theorem PortCtl.Bounded.move (m : PortMove c d) (h : c.Bounded) : d.Bounded := by
  cases m
  case answer t code st pay => exact (h.freeSlot t).offerReply t code st pay
  case refuse t code st => exact h.offerReply t code st .none
  case event e => exact h.offerEvent e
  case freeSlot t => exact h.freeSlot t
  case setSlot t st => exact h.setSlot t st
  case occupy x free room => exact h.occupy free room
  case breakOff => exact ⟨h.slots, h.tags, Nat.zero_le _, Nat.zero_le _, h.lost⟩
  case sent => exact h.sent
  all_goals exact ⟨h.slots, h.tags, h.messages, h.events, h.lost⟩

theorem PortCtl.Bounded.change {phase : Phase} (m : PortChange phase c d) (h : c.Bounded) : d.Bounded := by
  cases m
  case same => exact h
  case move m => exact h.move m
  case opened => exact ⟨h.slots, h.tags, h.messages, h.events, Nat.zero_le _⟩
  case closing =>
    have kept := h.fewerSlots (List.filter_sublist (p := (!·.endsAtClosing)))
    exact ⟨kept.slots, kept.tags, h.messages, h.events, Nat.zero_le _⟩
  case silenced => exact ⟨h.slots, h.tags, Nat.zero_le _, Nat.zero_le _, h.lost⟩
  case initial => exact ⟨Nat.zero_le _, List.nodup_nil, Nat.zero_le _, Nat.zero_le _, Nat.zero_le _⟩
  all_goals exact ⟨h.slots, h.tags, h.messages, h.events, h.lost⟩

/-! ## The transmitters (R179, R180) -/

/-- A message that joins the queue makes an IDLE transmitter SENDING, and leaves it STOPPED in a break. -/
theorem PortCtl.TransmitterFollows.joinQueue (h : c.TransmitterFollows) (m : Message) : (c.joinQueue m).TransmitterFollows := by
  have queued : (c.joinQueue m).outbound ≠ [] := by simp [PortCtl.joinQueue]
  have tx : (c.joinQueue m).tx = if c.tx = .idle then .sending else c.tx := rfl
  refine ⟨?_, fun _ => queued, fun idle => ?_⟩
  · show (c.joinQueue m).tx = .stopped ↔ c.breakInForce = true
    rw [tx, ← h.stopped]
    split
    · next idle => simp [idle]
    · exact Iff.rfl
  · rw [tx] at idle
    split at idle
    · cases idle
    · contradiction

theorem PortCtl.TransmitterFollows.offerReply (h : c.TransmitterFollows) (t : Tag) (code : Byte) (st : Status) (pay : Payload) :
    (c.offerReply t code st pay).TransmitterFollows := by
  unfold PortCtl.offerReply
  split
  · exact h.joinQueue _
  · exact h

theorem PortCtl.TransmitterFollows.admitOverflow (h : c.TransmitterFollows) : c.admitOverflow.TransmitterFollows := by
  unfold PortCtl.admitOverflow
  split
  · have joined := h.joinQueue (.event (.overflow c.lost))
    exact ⟨joined.stopped, joined.sending, joined.idle⟩
  · exact h

theorem PortCtl.TransmitterFollows.admitOrLose (h : c.TransmitterFollows) (e : Event) : (c.admitOrLose e).TransmitterFollows := by
  unfold PortCtl.admitOrLose
  split
  · exact h.joinQueue _
  · exact ⟨h.stopped, h.sending, h.idle⟩

theorem PortCtl.TransmitterFollows.offerEvent (h : c.TransmitterFollows) (e : Event) : (c.offerEvent e).TransmitterFollows := by
  have admitted := h.admitOverflow.admitOrLose e
  unfold PortCtl.offerEvent
  split
  · split
    · exact h.joinQueue _
    · exact h
  · exact admitted
  all_goals
    split
    · exact admitted
    · exact h

/-- With no break in force, SENDING with a message left and IDLE with none is as it should be. -/
theorem transmitterFollows_of_noBreak (line : c.breakInForce = false) (tx : c.tx = if c.outbound.isEmpty then .idle else .sending) :
    c.TransmitterFollows := by
  cases empty : c.outbound.isEmpty
  · have queued : c.outbound ≠ [] := by simpa using empty
    rw [empty] at tx
    exact ⟨by simp [tx, line], fun _ => queued, by simp [tx]⟩
  · have none : c.outbound = [] := by simpa using empty
    rw [empty] at tx
    exact ⟨by simp [tx, line], by simp [tx], fun _ => none⟩

/-- A silent port's transmitter is STOPPED in a break and IDLE otherwise. -/
theorem transmitterFollows_of_empty (empty : c.outbound = []) (tx : c.tx = if c.breakInForce then .stopped else .idle) :
    c.TransmitterFollows := by
  cases line : c.breakInForce <;> rw [line] at tx
  · exact transmitterFollows_of_noBreak line (by simpa [empty] using tx)
  · exact ⟨by simp [tx, line], by simp [tx], fun _ => empty⟩

/-- A move of a Port Controller keeps its transmitter with its line and queue. -/
theorem PortCtl.TransmitterFollows.move (m : PortMove c d) (h : c.TransmitterFollows) : d.TransmitterFollows := by
  cases m
  case answer t code st pay =>
    have freed : (c.freeSlot t).TransmitterFollows := ⟨h.stopped, h.sending, h.idle⟩
    exact freed.offerReply t code st pay
  case refuse t code st => exact h.offerReply t code st .none
  case event e => exact h.offerEvent e
  case breakOff => exact transmitterFollows_of_empty rfl rfl
  case breakOver => exact transmitterFollows_of_noBreak rfl rfl
  case sent sending =>
    refine transmitterFollows_of_noBreak ?_ rfl
    have noBreak : c.breakInForce = false := by
      rw [← Bool.not_eq_true, ← h.stopped, sending]
      exact TxState.noConfusion
    exact (told_admitOverflow { c with outbound := c.outbound.tail, tx := TxState.idle }).breakInForce.trans noBreak
  all_goals exact ⟨h.stopped, h.sending, h.idle⟩

theorem PortCtl.TransmitterFollows.change (m : PortChange .running c d) (h : c.TransmitterFollows) : d.TransmitterFollows := by
  cases m
  case same => exact h
  case move m => exact h.move m
  case lineBreak silent => exact absurd rfl silent
  case silenced => exact transmitterFollows_of_empty rfl rfl
  case initial => exact transmitterFollows_of_empty rfl rfl
  all_goals exact ⟨h.stopped, h.sending, h.idle⟩

/-- A move into RUNNING begins in RUNNING, or silences every port as the device enters it (R182, R204). -/
theorem Move.running (m : Move s u) (running : u.phase = .running) : s.phase = .running ∨ ∀ p, u.port p = (s.port p).silence := by
  cases m
  case enter straps => exact .inr fun p => by simp [State.port]
  case halt => cases running
  case clear => cases running
  case take p n _ => rw [takePages_rest] at running; exact .inl running
  all_goals exact .inl running

/-! ## The obligation -/

theorem State.PortsBounded.step (m : Move s u) (h : s.PortsBounded) : u.PortsBounded := fun p => (h p).change (m.portChange p)

theorem State.TransmittersFollow.step (m : Move s u) (h : s.TransmittersFollow) : u.TransmittersFollow := fun running p => by
  rcases m.running running with before | silent
  · exact (h before p).change (running ▸ m.portChange p)
  · rw [silent]
    exact transmitterFollows_of_empty rfl rfl

/-- Settles O54: move by move, each of them on one Port Controller at a time. -/
theorem stepsKeepPortsBoundedAndFollowing : Obligations.StepsKeepPortsBoundedAndFollowing :=
  ⟨fun _ _ h taken => step_keeps (fun _ _ m => State.PortsBounded.step m) (fun _ _ h => h) taken h,
    fun _ _ h taken => step_keeps (fun _ _ m => State.TransmittersFollow.step m) (fun _ _ h => h) taken h⟩

end Sys2Proof.Machine

/-! # A request command and its body (R140, R183 to R190) -/
namespace Sys2Proof.Machine

variable {s : State} {p : Port} {c : Instr} {body : List Byte}

/-! ## The body spells the command's request -/

/-- A field of CONFIGURE as it is read: 0 where the mask does not name it (R190). -/
theorem takeByte_named (named : Bool) (x : Byte) (rest : List Byte) :
    takeByte named ((if named then [x] else []) ++ rest) = some (if named then x else 0, rest) := by
  cases named <;> rfl

theorem takeHalf_named (named : Bool) (x : Half) (rest : List Byte) :
    takeHalf named ((if named then halfBytes x else []) ++ rest) = some (if named then x else 0, rest) := by
  cases named
  · rfl
  · exact congrArg (fun h => some (h, rest)) (halfOf_bytes x)

/-- A field that the mask does not name is absent, whatever stands in its place (R190). -/
theorem named_ite {α : Type} (mask : Byte) (bit : Nat) (x y : α) :
    named mask bit (if mask.getLsbD bit then x else y) = named mask bit x := by
  unfold named
  split <;> rfl

theorem parseConfigure_named (mask gap : Byte) (lease : Half) (limit : Byte) (q0 q1 q2 q3 : Half) :
    parseConfigure mask ((if mask.getLsbD 0 then [gap] else []) ++ ((if mask.getLsbD 1 then halfBytes lease else []) ++
      ((if mask.getLsbD 2 then [limit] else []) ++ ((if mask.getLsbD 3 then halfBytes q0 else []) ++
      ((if mask.getLsbD 4 then halfBytes q1 else []) ++ ((if mask.getLsbD 5 then halfBytes q2 else []) ++
      (if mask.getLsbD 6 then halfBytes q3 else []))))))) =
    .ofOption (configureRequest mask gap lease limit q0 q1 q2 q3) := by
  have last := takeHalf_named (mask.getLsbD 6) q3 []
  rw [List.append_nil] at last
  simp only [parseConfigure, takeByte_named, takeHalf_named, last, Option.bind_eq_bind, Option.bind_some, configureRequest, named_ite,
    if_true]

theorem tagOf_kindAndTag : ∀ t : Tag, tagOf (kindAndTag 1 t) = t := by decide

/-- A request command is the receipt of what its body spells: its tag, its code, and the fields as bodies are read. -/
theorem exec_request (request : requestBody c = some (p, body)) : ∃ (t : Tag) (code : Byte) (fields : List Byte),
    body = kindAndTag 1 t :: code :: fields ∧ ∀ s, exec c s = .next (s.receive p t code (parseFields code.toNat fields)) := by
  have spelt : ∀ {t : Tag} {code : Byte} {fields : List Byte} {m : Parsed} {q : Port},
      requestBody c = some (q, kindAndTag 1 t :: code :: fields) → parseFields code.toNat fields = m →
      (∀ s, exec c s = .next (s.receive q t code m)) → ∃ (t : Tag) (code : Byte) (fields : List Byte),
        body = kindAndTag 1 t :: code :: fields ∧ ∀ s, exec c s = .next (s.receive p t code (parseFields code.toNat fields)) := by
    rintro t code fields _ q spells rfl run
    obtain ⟨rfl, rfl⟩ := Prod.mk.inj (Option.some.inj (spells.symm.trans request))
    exact ⟨t, code, fields, rfl, run⟩
  cases c
  case openPort | closePort | info | claim | handover | alloc | unmap | selectSet | mapQuery | cancel | jobQuery | drain | restore
      | eject | poolQuery => exact spelt rfl rfl fun _ => rfl
  case free | grant | pageQuery | map | read | write | swap | cas | add | testclr | dectest | acquire | release | renew | copy | fill =>
    exact spelt rfl (by simp [parseFields, halfBytes, wordBytes]) fun _ => rfl
  case configure p t mask gap lease limit q0 q1 q2 q3 =>
    refine spelt (code := 0x60) (fields := mask :: _) ?_ (parseConfigure_named mask gap lease limit q0 q1 q2 q3) fun _ => rfl
    simp only [requestBody, List.append_assoc, List.cons_append, List.nil_append]
  all_goals cases request

end Sys2Proof.Machine

/-! # The port-level checks (R141 to R146, R163) -/
namespace Sys2Proof.Machine

variable {s : State} {p : Port} {t : Tag} {code : Byte} {m : Parsed} {r : Request} {c : Instr} {body : List Byte}

/-! ## From the line to the checks (R140, R143, R163) -/

theorem receive_of_hears (h : s.Hears p) (t : Tag) (code : Byte) (m : Parsed) : s.receive p t code m = s.judge p t code m :=
  if_pos ⟨isRunning_iff.mpr h.running, by rw [h.line]; rfl⟩

/-- Nothing is received during a break (R163; log entry 1). -/
theorem receive_in_break (line : (s.port p).breakInForce = true) (t : Tag) (code : Byte) (m : Parsed) : s.receive p t code m = s :=
  if_neg fun h => by simp [line] at h

theorem dropsRequests_iff {c : PortCtl} : c.dropsRequests = true ↔ c.session = .closing ∧ c.closeReason = some .ejected := by
  simp [PortCtl.dropsRequests]

theorem judge_dropped (ejected : (s.port p).session = .closing ∧ (s.port p).closeReason = some .ejected) (t : Tag) (code : Byte)
    (m : Parsed) : s.judge p t code m = s := if_pos (dropsRequests_iff.mpr ejected)

section
variable (checked : ¬ ((s.port p).session = .closing ∧ (s.port p).closeReason = some .ejected))
include checked

theorem judge_badForm : s.judge p t code .badForm = s.reply p t code .badForm :=
  if_neg fun drops => checked (dropsRequests_iff.mp drops)

theorem judge_unknownCode : s.judge p t code .unknownCode = s.reply p t code .unknownCode :=
  if_neg fun drops => checked (dropsRequests_iff.mp drops)

theorem judge_refused {st : Status} (fails : s.portCheck p t r = some st) :
    s.judge p t code (.request r) = s.reply p t code st := by
  rw [State.judge, if_neg fun drops => checked (dropsRequests_iff.mp drops)]
  simp only [fails]
  rfl

theorem judge_taken (passes : s.portCheck p t r = none) : s.judge p t code (.request r) = s.take p t r := by
  rw [State.judge, if_neg fun drops => checked (dropsRequests_iff.mp drops)]
  simp only [passes]

end

/-! ## Checks 3 to 6 in order (R143 to R145) -/

theorem passesUnopened_iff : r.passesUnopened = true ↔ r = .openSession ∨ r = .info := by
  cases r <;> simp [Request.passesUnopened]

theorem isReserved_iff : r.isReserved = true ↔ (∃ target, r = .handover target) ∨ (∃ named, r = .configure named) ∨
    (∃ bank, r = .drain bank) ∨ (∃ bank, r = .restore bank) ∨ (∃ target, r = .eject target) ∨ r = .poolQuery := by
  cases r <;> simp [Request.isReserved]

theorem tagInUse_iff : (s.port p).slots.any (·.tag == t) = true ↔ ∃ x ∈ (s.port p).slots, x.tag = t := by simp

theorem portCheck_notOpen (unopened : (s.port p).session ≠ .opened) (passes : r.passesUnopened = false) :
    s.portCheck p t r = some .notOpen := if_pos ⟨unopened, by rw [passes]; rfl⟩

section
variable (open' : (s.port p).session = .opened ∨ r.passesUnopened = true)
include open'

theorem portCheck_check3 : ¬ ((s.port p).session ≠ .opened ∧ (!r.passesUnopened) = true) := by
  rintro ⟨unopened, fails⟩
  rcases open' with opened | passes
  · exact unopened opened
  · rw [passes] at fails; cases fails

theorem portCheck_tagInUse (used : ∃ x ∈ (s.port p).slots, x.tag = t) : s.portCheck p t r = some .tagInUse :=
  (if_neg (portCheck_check3 open')).trans (if_pos (tagInUse_iff.mpr used))

variable (free : ¬ ∃ x ∈ (s.port p).slots, x.tag = t)
include free

theorem portCheck_slotsFull (full : 4 ≤ (s.port p).slots.length) : s.portCheck p t r = some .slotsFull :=
  (if_neg (portCheck_check3 open')).trans ((if_neg fun used => free (tagInUse_iff.mp used)).trans (if_pos full))

variable (room : ¬ 4 ≤ (s.port p).slots.length)
include room

theorem portCheck_notSupervisor (reserved : r.isReserved = true) (other : s.role ≠ some p) :
    s.portCheck p t r = some .notSupervisor :=
  (if_neg (portCheck_check3 open')).trans ((if_neg fun used => free (tagInUse_iff.mp used)).trans
    ((if_neg room).trans (if_pos ⟨reserved, other⟩)))

theorem portCheck_passed (role : r.isReserved = true → s.role = some p) : s.portCheck p t r = none :=
  (if_neg (portCheck_check3 open')).trans ((if_neg fun used => free (tagInUse_iff.mp used)).trans
    ((if_neg room).trans (if_neg fun refused => refused.2 (role refused.1))))

end

/-! ## The checks refuse in order -/

/-- A request command on a port that is heard is judged by its body. -/
theorem exec_judged (request : requestBody c = some (p, body)) (h : s.Hears p) : exec c s = .next (s.judgeBody p body) := by
  obtain ⟨t, code, fields, rfl, run⟩ := exec_request request
  rw [run, receive_of_hears h, State.judgeBody, tagOf_kindAndTag]

theorem judgeBody_dropped (ejected : (s.port p).session = .closing ∧ (s.port p).closeReason = some .ejected) (body : List Byte) :
    s.judgeBody p body = s := by
  unfold State.judgeBody
  split
  · exact judge_dropped ejected _ _ _
  all_goals rfl

/-- Settles O16: each check with those before it passed. -/
theorem portChecksRefuseInOrder : Obligations.PortChecksRefuseInOrder := by
  refine ⟨fun s p h session reason => ⟨judgeBody_dropped ⟨session, reason⟩, fun c body request => ?_⟩,
    ?_⟩
  · rw [exec_judged request h, judgeBody_dropped ⟨session, reason⟩]
  intro c p b0 code fields r s request parse h unopened tagInUse slotsFull ejected
  have run : exec c s = .next (s.judge p (tagOf b0) code (.request r)) := by
    rw [exec_judged request h, State.judgeBody, parse]
  have opens : ¬ ((s.port p).session ≠ .opened ∧ r ≠ .openSession ∧ r ≠ .info) → (s.port p).session = .opened ∨ r.passesUnopened = true := fun not => by
    rw [passesUnopened_iff]; tauto
  rw [run]
  refine ⟨fun drops => congrArg _ (judge_dropped drops _ _ _), fun checked closed => ?_, fun checked opened used => ?_,
    fun checked opened free full => ?_, fun checked opened free room reserved other => ?_⟩
  · have passes : r.passesUnopened = false := by rw [← Bool.not_eq_true, passesUnopened_iff]; exact not_or.mpr closed.2
    exact congrArg _ (judge_refused checked (portCheck_notOpen closed.1 passes))
  · exact congrArg _ (judge_refused checked (portCheck_tagInUse (opens opened) used))
  · exact congrArg _ (judge_refused checked (portCheck_slotsFull (opens opened) free full))
  · exact congrArg _ (judge_refused checked
      (portCheck_notSupervisor (opens opened) free room (isReserved_iff.mpr reserved) other))

end Sys2Proof.Machine

/-! # Check 1 and check 2 (R142, R185, R186, R190) -/
namespace Sys2Proof.Machine

variable {s : State} {p : Port} {t : Tag} {code : Byte}

/-! ## Coded fields with no meaning (R186) -/

theorem mapSetOf_none {b : Byte} (h : 1 < b.toNat) : mapSetOf b = none := by
  rw [mapSetOf, if_neg (by rintro rfl; simp at h), if_neg (by rintro rfl; simp at h)]

theorem setCodeOf_none {b : Byte} (h : 2 < b.toNat) : setCodeOf b = none := by
  rw [setCodeOf, if_neg (by rintro rfl; simp at h), mapSetOf_none (by omega)]
  rfl

theorem accessOf_none {b : Byte} (h : 1 < b.toNat) : accessOf b = none := by
  rw [accessOf, if_neg (by rintro rfl; simp at h), if_neg (by rintro rfl; simp at h)]

theorem lockModeOf_none {b : Byte} (h : 1 < b.toNat) : lockModeOf b = none := by
  rw [lockModeOf, if_neg (by rintro rfl; simp at h), if_neg (by rintro rfl; simp at h)]

theorem rightOf_none {b : Byte} (h : 2 < b.toNat) : rightOf b = none := by
  rw [rightOf, if_neg (by rintro rfl; simp at h), if_neg (by rintro rfl; simp at h), if_neg (by rintro rfl; simp at h)]

theorem mapRequest_none {set access : Byte} (h : 1 < set.toNat ∨ 1 < access.toNat) (frame : Byte) (page : Half) :
    mapRequest set frame page access = none := by
  unfold mapRequest
  rcases h with h | h
  · rw [mapSetOf_none h]; rfl
  · rw [accessOf_none h]; cases mapSetOf set <;> rfl

theorem copyRequest_none {ss ds : Byte} (h : 2 < ss.toNat ∨ 2 < ds.toNat) (sf : Byte) (so : Half) (df : Byte) (dOff : Half)
    (n : Word) : copyRequest ss sf so ds df dOff n = none := by
  unfold copyRequest
  rcases h with h | h
  · rw [setCodeOf_none h]; rfl
  · rw [setCodeOf_none h]; cases setCodeOf ss <;> rfl

/-- A command whose fields make no request is refused BAD-FORM. -/
theorem receive_badForm (h : s.Hears p) (checked : ¬ ((s.port p).session = .closing ∧ (s.port p).closeReason = some .ejected))
    {request : Option Request} (none : request = .none) :
    Host.Outcome.next (s.receive p t code (.ofOption request)) =
      (.next (s.reply p t code .badForm) : Host.Outcome State Fault Refusal) := by
  rw [receive_of_hears h, none]
  exact congrArg _ (judge_badForm checked)

/-! ## The length of CONFIGURE's body (R190) -/

/-- A reader takes n bytes off the front of a list, or fails where the list is shorter. -/
def TakesBytes {α : Type} (n : Nat) (f : List Byte → Option (α × List Byte)) : Prop :=
  ∀ l, f l = none ∧ l.length < n ∨ ∃ x rest, f l = some (x, rest) ∧ l.length = n + rest.length

/-- A reader succeeds exactly on the lists of n bytes, if at all. -/
def ReadsExactly {β : Type} (ok : Prop) (n : Nat) (g : List Byte → Option β) : Prop :=
  ∀ l, g l ≠ none ↔ ok ∧ l.length = n

theorem takeByte_takes (named : Bool) : TakesBytes (if named then 1 else 0) (takeByte named) := fun l => by
  cases named with
  | false => exact .inr ⟨0, l, rfl, (Nat.zero_add _).symm⟩
  | true =>
    cases l with
    | nil => exact .inl ⟨rfl, Nat.one_pos⟩
    | cons b l => exact .inr ⟨b, l, rfl, Nat.add_comm _ _⟩

theorem takeHalf_takes (named : Bool) : TakesBytes (if named then 2 else 0) (takeHalf named) := fun l => by
  cases named with
  | false => exact .inr ⟨0, l, rfl, (Nat.zero_add _).symm⟩
  | true =>
    match l with
    | [] => exact .inl ⟨rfl, Nat.two_pos⟩
    | [_] => exact .inl ⟨rfl, Nat.one_lt_two⟩
    | b0 :: b1 :: l => exact .inr ⟨halfOf b0 b1, l, rfl, Nat.add_comm l.length 2⟩

/-- A field and then the rest. -/
theorem TakesBytes.then {α β : Type} {ok : Prop} {n k : Nat} {f : List Byte → Option (α × List Byte)}
    {g : α × List Byte → Option β} (hf : TakesBytes n f) (hg : ∀ x, ReadsExactly ok k fun rest => g (x, rest)) :
    ReadsExactly ok (n + k) fun l => (f l).bind g := fun l => by
  dsimp only
  rcases hf l with ⟨none, short⟩ | ⟨x, rest, some, length⟩
  · rw [none, Option.bind_none]
    exact iff_of_false (fun h => h rfl) fun h => by omega
  · rw [some, Option.bind_some, hg x rest]
    exact and_congr_right fun _ => by omega

theorem configureRequest_reads (mask gap : Byte) (lease : Half) (limit : Byte) (q0 q1 q2 q3 : Half) :
    ReadsExactly (mask.getLsbD 7 = false) 0 fun rest =>
      if rest = [] then configureRequest mask gap lease limit q0 q1 q2 q3 else none := fun l => by
  cases l with
  | nil =>
    show configureRequest mask gap lease limit q0 q1 q2 q3 ≠ none ↔ _
    rw [configureRequest]
    cases mask.getLsbD 7 with
    | false => exact iff_of_true nofun ⟨rfl, rfl⟩
    | true => exact iff_of_false (fun h => h rfl) nofun
  | cons => exact iff_of_false (fun h => h rfl) nofun

/-- The request that the bytes after a CONFIGURE's mask make, if any. -/
def configureFields (mask : Byte) (fields : List Byte) : Option Request := do
  let (gap, f) ← takeByte (mask.getLsbD 0) fields
  let (lease, f) ← takeHalf (mask.getLsbD 1) f
  let (limit, f) ← takeByte (mask.getLsbD 2) f
  let (q0, f) ← takeHalf (mask.getLsbD 3) f
  let (q1, f) ← takeHalf (mask.getLsbD 4) f
  let (q2, f) ← takeHalf (mask.getLsbD 5) f
  let (q3, f) ← takeHalf (mask.getLsbD 6) f
  if f = [] then configureRequest mask gap lease limit q0 q1 q2 q3 else none

theorem parseConfigure_eq (mask : Byte) (fields : List Byte) :
    parseConfigure mask fields = .ofOption (configureFields mask fields) := rfl

theorem configureFields_reads (mask : Byte) : ReadsExactly (mask.getLsbD 7 = false) (configureWidth mask) (configureFields mask) := by
  rw [← Nat.add_zero (configureWidth mask), configureWidth]
  simp only [Nat.add_assoc]
  exact (takeByte_takes _).then fun gap => (takeHalf_takes _).then fun lease => (takeByte_takes _).then fun limit =>
    (takeHalf_takes _).then fun q0 => (takeHalf_takes _).then fun q1 => (takeHalf_takes _).then fun q2 =>
    (takeHalf_takes _).then fun q3 => configureRequest_reads mask gap lease limit q0 q1 q2 q3

theorem ofOption_ne_badForm {request : Option Request} : Parsed.ofOption request ≠ .badForm ↔ request ≠ none := by
  cases request <;> simp [Parsed.ofOption]

theorem ofOption_ne_unknownCode (request : Option Request) : Parsed.ofOption request ≠ .unknownCode := by
  cases request <;> nofun

/-- The body of a CONFIGURE is well formed when it has the bytes of the fields that its mask names, and bit 7 is clear (R190). -/
theorem parseConfigure_ne_badForm {mask : Byte} {fields : List Byte} :
    parseConfigure mask fields ≠ .badForm ↔ mask.getLsbD 7 = false ∧ fields.length = configureWidth mask :=
  ofOption_ne_badForm.trans (configureFields_reads mask fields)

theorem configureWidth_le (mask : Byte) : configureWidth mask ≤ 12 := by
  unfold configureWidth
  split <;> split <;> split <;> split <;> split <;> split <;> split <;> decide

/-! ## Codes and lengths (R142, Table 9-1) -/

/-- The codes that some request has. -/
def requestCodes : List Nat := requestLengths.map Prod.fst

/-- The least and the most bytes of a body of that code, where a request has it. -/
def bodyLengths (code : Nat) : Option (Nat × Nat) := requestLengths.lookup code

theorem bodyLengths_of_mem : ∀ row ∈ requestLengths, bodyLengths row.1 = some row.2 := by decide

theorem parseFields_unknownCode {n : Nat} (unknown : n ∉ requestCodes) (fields : List Byte) :
    parseFields n fields = .unknownCode := by
  unfold parseFields
  split
  case h_33 => rfl
  all_goals exact absurd (by decide) unknown

theorem parseFields_ne_unknownCode {n : Nat} (known : n ∈ requestCodes) (fields : List Byte) :
    parseFields n fields ≠ .unknownCode := by
  unfold parseFields
  split
  case h_33 => simp_all [requestCodes, requestLengths]
  all_goals split <;> simp [parseConfigure_eq, ofOption_ne_unknownCode]

/-- A body that is not BAD-FORM is of a length that its code requires. -/
theorem parseFields_length {n : Nat} {fields : List Byte} : parseFields n fields ≠ .badForm → parseFields n fields ≠ .unknownCode →
    ∃ least most, bodyLengths n = some (least, most) ∧ least ≤ fields.length + 2 ∧ fields.length + 2 ≤ most := by
  unfold parseFields
  split
  case h_15 =>
    split
    · next data =>
      intro formed _
      refine ⟨_, _, rfl, Nat.le_of_ble_eq_true rfl, ?_⟩
      by_contra long
      have long : ¬ data.length ≤ Config.accessBytes := fun short => long (Nat.add_le_add_right short 5)
      exact ofOption_ne_badForm.mp formed (if_neg long)
    · exact fun h => absurd rfl h
  case h_28 =>
    split
    · next mask rest =>
      intro formed _
      have width := (parseConfigure_ne_badForm.mp formed).2
      have := configureWidth_le mask
      exact ⟨_, _, rfl, Nat.le_of_ble_eq_true rfl, by rw [List.length_cons]; omega⟩
    · exact fun h => absurd rfl h
  case h_33 => exact fun _ h => absurd rfl h
  all_goals
    split
    · exact fun _ _ => ⟨_, _, rfl, Nat.le_of_ble_eq_true rfl, Nat.le_of_ble_eq_true rfl⟩
    · exact fun h => absurd rfl h

/-! ## The obligation -/

/-- Settles O17: the coded fields, the lengths, and the two refusals. -/
theorem checkOneReadsLengthsAndCodes : Obligations.CheckOneReadsLengthsAndCodes := by
  refine ⟨fun s p t h checked => ?_, ⟨fun n fields unknown => parseFields_unknownCode (fun mem => ?_) fields,
    fun row mem fields => ?_, fun mask fields => parseConfigure_ne_badForm⟩, fun s p b0 code fields checked => ?_⟩
  · exact ⟨fun _ _ _ bad => receive_badForm h checked (by rw [grantRequest, rightOf_none bad]; rfl),
      fun _ frame page _ bad => receive_badForm h checked (mapRequest_none bad frame page),
      fun _ _ bad => receive_badForm h checked (by rw [unmapRequest, mapSetOf_none bad]; rfl),
      fun _ bad => receive_badForm h checked (by rw [selectRequest, mapSetOf_none bad]; rfl),
      fun _ _ _ bad => receive_badForm h checked (by rw [mapQueryRequest, mapSetOf_none bad]; rfl),
      fun _ _ _ long => receive_badForm h checked (if_neg (Nat.not_le_of_lt long)),
      fun _ _ _ _ bad => receive_badForm h checked (by rw [acquireRequest, lockModeOf_none bad]; rfl),
      fun _ sf so _ df dOff n bad => receive_badForm h checked (copyRequest_none bad sf so df dOff n),
      fun _ _ _ _ _ bad => receive_badForm h checked (by rw [fillRequest, setCodeOf_none bad]; rfl),
      fun _ _ _ _ _ _ _ _ bad => receive_badForm h checked (if_pos bad)⟩
  · obtain ⟨row, listed, same⟩ := List.mem_map.mp mem
    exact unknown row listed same
  · have known : row.1 ∈ requestCodes := List.mem_map_of_mem mem
    refine ⟨parseFields_ne_unknownCode known fields, fun outside => ?_⟩
    by_contra formed
    obtain ⟨least, most, lengths, low, high⟩ := parseFields_length formed (parseFields_ne_unknownCode known fields)
    have row : row.2 = (least, most) := Option.some.inj ((bodyLengths_of_mem row mem).symm.trans lengths)
    rw [row] at outside
    omega
  · exact ⟨fun bad => by rw [State.judgeBody, bad]; exact judge_badForm checked,
      fun unknown => by rw [State.judgeBody, unknown]; exact judge_unknownCode checked⟩

end Sys2Proof.Machine

/-! # Errors, gaps and breaks (R159, R163, R169, R171 to R173, R180) -/
namespace Sys2Proof.Machine

variable {s : State} {p : Port}

/-- A discard is one change of the Port Controller: the receiver, the gap timer, and REJECTED (R174). -/
theorem reject_eq (rx : RxState) (gap : Option Nat) (reason : RejectReason) :
    s.reject p rx gap reason = s.modPort p fun c => { c with rx := rx, gap := gap }.offerEvent (.rejected reason) := by
  rw [State.reject, State.setRx, State.offer, State.modPort_modPort]

theorem receiveError_inFrame (inFrame : (s.port p).rx.inFrame = true) :
    s.receiveError p = s.reject p .resync (some s.config.gapTime) .line := by
  unfold State.receiveError
  split
  · next rx => rw [rx] at inFrame; cases inFrame
  · rfl
  · rfl
  · rfl
  · next rx => rw [rx] at inFrame; cases inFrame

theorem gapDue_iff {c : PortCtl} : c.gapDue = true ↔ c.gap = some 0 ∧ c.rx.inFrame = true := by simp [PortCtl.gapDue]

theorem resyncDue_iff {c : PortCtl} : c.resyncDue = true ↔ c.gap = some 0 ∧ c.rx = .resync := by simp [PortCtl.resyncDue]

section
variable (running : s.phase = .running)
include running

theorem exec_characterError (line : (s.port p).breakInForce = false) : exec (.characterError p) s = .next (s.receiveError p) :=
  congrArg _ (if_pos ⟨isRunning_iff.mpr running, by rw [line]; rfl⟩)

theorem exec_byteReceived (line : (s.port p).breakInForce = false) (b : Byte) :
    exec (.byteReceived p b) s = .next (s.receiveByte p b) :=
  congrArg _ (if_pos ⟨isRunning_iff.mpr running, by rw [line]; rfl⟩)

theorem exec_gapTimerRunsOut : exec (.gapTimerRunsOut p) s = .next (s.gapRunOut p) := congrArg _ (if_pos (isRunning_iff.mpr running))

theorem exec_resyncEnd : exec (.resyncEnd p) s = .next (s.resyncRunOut p) := congrArg _ (if_pos (isRunning_iff.mpr running))

theorem exec_breakBegins (line : (s.port p).breakInForce = false) : exec (.breakBegins p) s =
    .next (if s.isOpen p then (s.modPort p (·.breakOff)).enterClosing p .linkLost else s.modPort p (·.breakOff)) :=
  congrArg _ ((if_neg (by rw [line]; nofun)).trans (if_pos (isRunning_iff.mpr running)))

theorem exec_breakEnds (line : (s.port p).breakInForce = true) :
    exec (.breakEnds p) s = .next (s.modPort p (·.breakOver s.config.gapTime)) :=
  congrArg _ ((if_neg (by rw [line]; nofun)).trans (if_pos (isRunning_iff.mpr running)))

end

theorem isOpen_iff {x : Port} : s.isOpen x = true ↔ (s.port x).session = .opened := beq_iff_eq

/-- Settles O12. -/
theorem errorsGapsAndBreaks : Obligations.ErrorsGapsAndBreaks := by
  refine ⟨fun s p h => ⟨fun inFrame => ⟨?_, fun due => ?_⟩, fun resync due => ?_⟩, fun s p running =>
    ⟨fun early => ?_, fun early => ?_, fun line closed => ?_, fun line => ?_, fun line => ⟨fun b => ?_, ?_, fun c body request => ?_,
      ?_, ?_⟩⟩⟩
  · rw [exec_characterError h.running h.line, receiveError_inFrame inFrame, reject_eq]
  · rw [exec_gapTimerRunsOut h.running, State.gapRunOut, if_pos (gapDue_iff.mpr ⟨due, inFrame⟩), reject_eq]
  · rw [exec_resyncEnd h.running, State.resyncRunOut, if_pos (resyncDue_iff.mpr ⟨due, resync⟩)]
    rfl
  · have notDue : ¬ (s.port p).gapDue = true := fun due => by
      obtain ⟨gap, inFrame⟩ := gapDue_iff.mp due
      rcases early with other | other
      · exact other gap
      · rw [inFrame] at other; cases other
    rw [exec_gapTimerRunsOut running, State.gapRunOut, if_neg notDue]
  · have notDue : ¬ (s.port p).resyncDue = true := fun due => by
      obtain ⟨gap, resync⟩ := resyncDue_iff.mp due
      exact early.elim (· gap) (· resync)
    rw [exec_resyncEnd running, State.resyncRunOut, if_neg notDue]
  · rw [exec_breakBegins running line, if_neg fun opened => closed (isOpen_iff.mp opened)]
    rfl
  · exact congrArg _ (if_pos (by rw [line]; rfl))
  · exact congrArg _ (if_neg fun heard => by simp [line] at heard)
  · exact congrArg _ (if_neg fun heard => by simp [line] at heard)
  · obtain ⟨t, code, fields, -, run⟩ := exec_request request
    rw [run, receive_in_break line]
  · exact congrArg _ (if_pos line)
  · rw [exec_breakEnds running line]
    exact congrArg _ (State.modPort_congr (by simp [PortCtl.breakOver]))

end Sys2Proof.Machine

/-! # The bytes of a request's frame (R140, R164 to R170) -/
namespace Sys2Proof.Machine

open Sys2Proof.Laws

variable {s : State} {p : Port}

theorem runAll_next {c : Instr} {cs : List Instr} {u : State} (first : exec c s = .next u) : runAll (c :: cs) s = runAll cs u := by
  rw [runAll, first]

/-- The state of a port that is heard, with its receiver in a state of its own. -/
theorem setRx_hears (h : s.Hears p) (rx : RxState) (gap : Option Nat) : (s.setRx p rx gap).Hears p :=
  ⟨h.running, by rw [State.setRx, State.port_modPort_same]; exact h.line⟩

theorem setRx_rx (rx : RxState) (gap : Option Nat) : ((s.setRx p rx gap).port p).rx = rx := by
  rw [State.setRx, State.port_modPort_same]

theorem setRx_setRx (rx rx' : RxState) (gap gap' : Option Nat) : (s.setRx p rx gap).setRx p rx' gap' = s.setRx p rx' gap' :=
  State.modPort_modPort s p _ _

/-- A received byte is taken by the receiver in the state it is in. -/
theorem receive_step (h : s.Hears p) (rx : RxState) (gap : Option Nat) (b : Byte) (bs : List Instr) :
    runAll (.byteReceived p b :: bs) (s.setRx p rx gap) = runAll bs ((s.setRx p rx gap).receiveByte p b) :=
  runAll_next (exec_byteReceived (setRx_hears h rx gap).running (setRx_hears h rx gap).line b)

theorem receiveByte_length {check : BitVec 16} (h : (s.port p).rx = .length check) {b : Byte} (size : 2 ≤ b.toNat ∧ b.toNat ≤ 252) :
    s.receiveByte p b = s.setRx p (.body b.toNat [] (checkByte check b)) (some s.config.gapTime) := by
  rw [State.receiveByte, h]
  exact if_pos size

theorem receiveByte_body {n : Nat} {soFar : List Byte} {check : BitVec 16} (h : (s.port p).rx = .body n soFar check) (b : Byte) :
    s.receiveByte p b = s.setRx p (if (soFar ++ [b]).length = n then .check n (soFar ++ [b]) (checkByte check b) none
      else .body n (soFar ++ [b]) (checkByte check b)) (some s.config.gapTime) := by
  rw [State.receiveByte, h]
  dsimp only
  split <;> rfl

theorem receiveByte_checkHigh {n : Nat} {soFar : List Byte} {check : BitVec 16} (h : (s.port p).rx = .check n soFar check none) (b : Byte) :
    s.receiveByte p b = s.setRx p (.check n soFar check (some b)) (some s.config.gapTime) := by
  rw [State.receiveByte, h]

theorem receiveByte_checkLow {n : Nat} {soFar : List Byte} {check : BitVec 16}
    (h : (s.port p).rx = .check n soFar check (some (checkHigh check))) :
    s.receiveByte p (checkLow check) = (s.setRx p .hunt none).frameComplete p soFar := by
  rw [State.receiveByte, h]
  exact if_pos ⟨rfl, rfl⟩

/-- The bytes of a body that are still to come, and the two of its check: the frame is complete after them (R167, R168, R170). -/
theorem runAll_body (h : s.Hears p) {n : Nat} (rest soFar : List Byte) (check : BitVec 16) (left : rest ≠ [])
    (size : soFar.length + rest.length = n) (gap : Option Nat) :
    runAll ((rest ++ [checkHigh (rest.foldl checkByte check), checkLow (rest.foldl checkByte check)]).map (.byteReceived p))
      (s.setRx p (.body n soFar check) gap) = .next ((s.setRx p .hunt none).frameComplete p (soFar ++ rest)) := by
  induction rest generalizing soFar check gap with
  | nil => exact absurd rfl left
  | cons b rest ih =>
    rw [List.length_cons] at size
    rw [List.cons_append, List.map_cons, receive_step h, receiveByte_body (setRx_rx _ _), setRx_setRx]
    cases rest with
    | nil =>
      have last : (soFar ++ [b]).length = n := by rw [List.length_append]; exact size
      rw [if_pos last, List.nil_append, List.map_cons, receive_step h, receiveByte_checkHigh (setRx_rx _ _), setRx_setRx,
        List.map_cons, receive_step h, List.foldl_cons, List.foldl_nil, receiveByte_checkLow (setRx_rx _ _), setRx_setRx]
      rfl
    | cons b' rest =>
      have more : ¬ (soFar ++ [b]).length = n := by
        rw [List.length_append, List.length_singleton]; rw [List.length_cons] at size; omega
      rw [if_neg more, List.foldl_cons, ih (soFar ++ [b]) (checkByte check b) nofun
        (by rw [List.length_append, List.length_singleton]; omega), List.append_assoc, List.singleton_append]

/-- The frame of a body, byte by byte, from HUNT (Table 8-1). -/
theorem runAll_frame (h : s.Hears p) (hunt : (s.port p).rx = .hunt) {body : List Byte} (short : 2 ≤ body.length)
    (long : body.length ≤ 252) :
    runAll ((frameOf body).map (.byteReceived p)) s = .next ((s.setRx p .hunt none).frameComplete p body) := by
  have length : (BitVec.ofNat 8 body.length).toNat = body.length := by rw [BitVec.toNat_ofNat]; omega
  have begins : s.receiveByte p Config.marker = s.setRx p (.length checkStart) (some s.config.gapTime) := by
    rw [State.receiveByte, hunt]
    exact if_pos rfl
  have left : body ≠ [] := by rintro rfl; cases short
  rw [frameOf, List.cons_append, List.cons_append, List.map_cons, runAll_next (exec_byteReceived h.running h.line _), begins,
    List.map_cons, receive_step h, receiveByte_length (setRx_rx _ _) (by rw [length]; exact ⟨short, long⟩), setRx_setRx, length]
  exact runAll_body h body [] _ left (Nat.zero_add _) _

/-- The body of a command that is well formed fits a frame (R166). -/
theorem requestBody_length {c : Instr} (formed : c.wellFormed = true) {body : List Byte} (request : requestBody c = some (p, body)) :
    body.length ≤ 252 := by
  have fits : RequestBody.Statement c := by
    cases c
    case openPort => exact RequestBody.openPort _ _
    case closePort => exact RequestBody.closePort _ _
    case info => exact RequestBody.info _ _
    case claim => exact RequestBody.claim _ _
    case handover => exact RequestBody.handover _ _ _
    case alloc => exact RequestBody.alloc _ _ _
    case free => exact RequestBody.free _ _ _
    case grant => exact RequestBody.grant _ _ _ _ _
    case pageQuery => exact RequestBody.pageQuery _ _ _
    case map => exact RequestBody.map _ _ _ _ _ _
    case unmap => exact RequestBody.unmap _ _ _ _
    case selectSet => exact RequestBody.selectSet _ _ _
    case mapQuery => exact RequestBody.mapQuery _ _ _ _ _
    case read => exact RequestBody.read _ _ _ _ _
    case write => exact RequestBody.write _ _ _ _ _
    case swap => exact RequestBody.swap _ _ _ _ _
    case cas => exact RequestBody.cas _ _ _ _ _ _
    case add => exact RequestBody.add _ _ _ _ _
    case testclr => exact RequestBody.testclr _ _ _ _ _
    case dectest => exact RequestBody.dectest _ _ _ _
    case acquire => exact RequestBody.acquire _ _ _ _ _ _
    case release => exact RequestBody.release _ _ _
    case renew => exact RequestBody.renew _ _ _ _
    case copy => exact RequestBody.copy _ _ _ _ _ _ _ _ _
    case fill => exact RequestBody.fill _ _ _ _ _ _ _
    case cancel => exact RequestBody.cancel _ _ _
    case jobQuery => exact RequestBody.jobQuery _ _ _
    case configure => exact RequestBody.configure _ _ _ _ _ _ _ _ _ _
    case drain => exact RequestBody.drain _ _ _
    case restore => exact RequestBody.restore _ _ _
    case eject => exact RequestBody.eject _ _ _
    case poolQuery => exact RequestBody.poolQuery _ _
    all_goals exact fun _ _ _ request => nomatch request
  exact (fits formed p body request).2.1

/-- Settles O15: the receiver ends the frame where it began, in HUNT, and hands its body to the checks. -/
theorem frameOfARequestIsItsCommand : Obligations.FrameOfARequestIsItsCommand := by
  intro c p body s formed request h hunt gap
  have idle : s.setRx p .hunt none = s := State.modPort_id (by rw [← hunt, ← gap])
  have long := requestBody_length formed request
  have judged := exec_judged request h
  obtain ⟨t, code, fields, rfl, -⟩ := exec_request request
  rw [runAll_frame h hunt (Nat.le_add_left _ _) long, idle, judged, State.frameComplete,
    if_pos (RequestBody.isRequestKind_kindAndTag t)]

end Sys2Proof.Machine

/-! # OPEN and INFO (R151, R152, R193) -/
namespace Sys2Proof.Machine

variable {s : State} {p : Port} {t : Tag}

/-- A request that check 3 passes whatever the session, with its tag and a slot free, is taken. -/
theorem receive_unopened (h : s.Hears p) (free : ∀ x ∈ (s.port p).slots, x.tag ≠ t) (room : (s.port p).slots.length < 4)
    (checked : ¬ ((s.port p).session = .closing ∧ (s.port p).closeReason = some .ejected)) (code : Byte) {r : Request}
    (passes : r = .openSession ∨ r = .info) : s.receive p t code (.request r) = (s.handed p t r).handOver p t r := by
  have unreserved : r.isReserved = true → s.role = some p := by rcases passes with rfl | rfl <;> nofun
  have unheld : r.isHeld = false := by rcases passes with rfl | rfl <;> rfl
  rw [receive_of_hears h, judge_taken checked (portCheck_passed (.inr (passesUnopened_iff.mpr passes))
    (fun ⟨x, mem, same⟩ => free x mem same) (Nat.not_le_of_lt room) unreserved), take_not_held unheld, State.handed]

theorem roleAtOpen_eq : s.roleAtOpen p = if s.role = none then some p else s.role := by
  unfold State.roleAtOpen
  cases s.role <;> rfl

theorem openSession_port : (s.openSession p).port p =
    { s.port p with session := .opened, closeReason := none, inFlight := 0, activeJob := false, lost := 0 } :=
  State.port_modPort_same s p fun c =>
    { c with session := .opened, closeReason := none, inFlight := 0, activeJob := false, lost := 0 }

/-- The start of a session leaves the slots alone, so the slot of the OPEN may come after it. -/
theorem openSession_withSlot (r : Request) (st : SlotState) :
    (s.withSlot p t r st).openSession p = (s.openSession p).withSlot p t r st := by
  have commutes : ∀ (u : State) (f g : PortCtl → PortCtl), (∀ c, f (g c) = g (f c)) →
      (u.modPort p g).modPort p f = (u.modPort p f).modPort p g := fun u f g h => by
    rw [State.modPort_modPort, State.modPort_modPort, funext h]
  have ports := congrArg (fun u : State =>
    ({ u.modMap p fun m => { m with present := .a, pendingSet := none, inFlight := 0 } with role := s.roleAtOpen p } : State))
    (commutes s (fun c => { c with session := .opened, closeReason := none, inFlight := 0, activeJob := false, lost := 0 })
      (fun c => { c with slots := c.slots ++ [{ tag := t, request := r, state := st }] }) fun _ => rfl)
  exact ports

/-- Settles O19. -/
theorem sessionsOpenAndInfoAnswers : Obligations.SessionsOpenAndInfoAnswers := by
  refine ⟨fun p t s h free room => ⟨fun closed => ?_, fun other => ?_⟩, fun p t s h free room checked => ?_, by decide⟩
  · have checked : ¬ ((s.port p).session = .closing ∧ (s.port p).closeReason = some .ejected) := by rw [closed]; nofun
    have session : ((s.handed p t .openSession).port p).session = .closed := (withSlot_session s p t _ _ p).trans closed
    have free' : ∀ x ∈ ((s.openSession p).port p).slots, x.tag ≠ t := by rw [openSession_port]; exact free
    show Host.Outcome.next (s.receive p t 0x01 (.request .openSession)) = _
    rw [receive_unopened h free room checked 0x01 (.inl rfl)]
    show Host.Outcome.next ((s.handed p t .openSession).openPort p t) = _
    simp only [State.openPort, session]
    rw [State.handed, openSession_withSlot, answer_withSlot free', State.openSession, ← roleAtOpen_eq]
    rfl
  · have checked : ¬ ((s.port p).session = .closing ∧ (s.port p).closeReason = some .ejected) := by
      rcases other with opened | closing
      · rw [opened]; nofun
      · exact fun ejected => closing.2 ejected.2
    show Host.Outcome.next (s.receive p t 0x01 (.request .openSession)) = _
    rw [receive_unopened h free room checked 0x01 (.inl rfl)]
    have refused : (s.handed p t .openSession).openPort p t = (s.handed p t .openSession).answer p t 0x01 .badState := by
      have session := withSlot_session s p t .openSession .inFlight p
      rcases other with opened | ⟨closing, -⟩
      · simp only [State.openPort, State.handed, session, opened]
      · simp only [State.openPort, State.handed, session, closing]
    exact congrArg _ (refused.trans (answer_withSlot free _ _ _ _ _))
  · show Host.Outcome.next (s.receive p t 0x03 (.request .info)) = _
    rw [receive_unopened h free room checked 0x03 (.inr rfl)]
    exact congrArg _ (answer_withSlot free _ _ _ _ _)

end Sys2Proof.Machine

/-! # A port that is not OPEN is told nothing by the teardown's parts (R11, R24 to R26, R97, R120, R154, R177)

What a part does to the port's own session record and queue needs nothing of the tables that the part goes through. -/
namespace Sys2Proof.Machine

variable {s u v : State} {p : Port}

/-! ## The relation -/

/-- A port has been offered messages and has had slots freed, at the most; and while it is not OPEN, no message. -/
structure State.Unheard (p : Port) (s u : State) : Prop where
  told : (s.port p).Told (u.port p)
  queue : (s.port p).session ≠ .opened → (u.port p).outbound = (s.port p).outbound

theorem State.Unheard.of_port (port : u.port p = s.port p) : s.Unheard p u :=
  ⟨by rw [port]; exact .refl _, fun _ => by rw [port]⟩

theorem State.Unheard.of_ports (ports : u.ports = s.ports) : s.Unheard p u := .of_port (by simp only [State.port, ports])

theorem State.Unheard.refl (s : State) : s.Unheard p s := .of_port rfl

theorem State.Unheard.trans (h : s.Unheard p u) (h' : u.Unheard p v) : s.Unheard p v :=
  ⟨h.told.trans h'.told, fun notOpen => (h'.queue (by rw [h.told.session]; exact notOpen)).trans (h.queue notOpen)⟩

theorem State.Unheard.foldl {α : Type} {f : State → α → State} (h : ∀ s x, State.Unheard p s (f s x)) (l : List α) (s : State) :
    s.Unheard p (l.foldl f s) := foldl_related .refl .trans h l s

/-! ## Messages, releases and bank checks -/

theorem offer_unheard (x : Port) {e : Event} (ready : ∀ k, e ≠ .ready k) (sessionEnd : ∀ r, e ≠ .sessionEnd r) :
    s.Unheard p (s.offer x e) := by
  refine ⟨offer_told x e p, fun notOpen => ?_⟩
  rw [State.offer, State.port_modPort]
  split
  · next same => rw [← same, offerEvent_unopened notOpen ready sessionEnd]
  · rfl

theorem offerSupervisor_unheard {e : Event} (ready : ∀ k, e ≠ .ready k) (sessionEnd : ∀ r, e ≠ .sessionEnd r) :
    s.Unheard p (s.offerSupervisor e) := by
  unfold State.offerSupervisor
  split
  · exact .refl s
  · exact offer_unheard _ ready sessionEnd

theorem dissolve_unheard (q : PageNo) : s.Unheard p (s.dissolve q) := by
  refine ⟨dissolve_told q p, fun notOpen => ?_⟩
  cases entry : s.lockOf q with
  | none => rw [dissolve_of_none entry]
  | some l => rw [dissolve_unopened entry notOpen]

theorem releasePage_unheard (q : PageNo) : s.Unheard p (s.releasePage q) := (dissolve_unheard q).trans (.of_ports rfl)

theorem moveBank_unheard (b : BankNo) (new : BankState) (cause : BankCause) : s.Unheard p (s.moveBank b new cause) :=
  (State.Unheard.of_ports rfl : s.Unheard p (s.modBank b _)).trans (offerSupervisor_unheard nofun nofun)

theorem bankOfflineCheck_unheard (b : BankNo) : s.Unheard p (s.bankOfflineCheck b) := by
  unfold State.bankOfflineCheck
  split
  · exact moveBank_unheard _ _ _
  · exact .refl s

theorem retireLimitCheck_unheard (b : BankNo) : s.Unheard p (s.retireLimitCheck b) := by
  unfold State.retireLimitCheck
  split
  · have withheld : s.Unheard p (s.withholdBank b) := .of_ports rfl
    exact (withheld.trans (moveBank_unheard _ _ _)).trans (bankOfflineCheck_unheard b)
  · exact .refl s

theorem settleBank_unheard (before : State) (q : PageNo) : s.Unheard p (before.settleBank s q) := by
  unfold State.settleBank
  split
  · exact .refl s
  split
  · split
    · exact retireLimitCheck_unheard _
    · exact bankOfflineCheck_unheard _
  · exact bankOfflineCheck_unheard _
  all_goals exact .refl s

theorem orphanCheck_unheard (q : PageNo) : s.Unheard p (s.orphanCheck q) := by
  unfold State.orphanCheck
  split
  · exact releasePage_unheard q
  · exact .refl s

theorem modPage_unheard (q : PageNo) (f : PageRec → PageRec) : s.Unheard p (s.modPage q f) := .of_ports rfl

theorem unmapClaim_unheard (q : PageNo) : s.Unheard p (s.unmapClaim q) :=
  ((modPage_unheard q _).trans (orphanCheck_unheard q)).trans (settleBank_unheard s q)

theorem unpinClaim_unheard (q : PageNo) : s.Unheard p (s.unpinClaim q) :=
  ((modPage_unheard q _).trans (orphanCheck_unheard q)).trans (settleBank_unheard s q)

/-! ## The parts -/

theorem unlockForTeardown_unheard (q : PageNo) : s.Unheard p (s.unlockForTeardown p q) := by
  unfold State.unlockForTeardown
  split
  · exact .refl s
  · next l _ =>
    have others : p ∉ (l.waiters.filter (·.port ≠ p)).map (·.port) := fun mem => by
      obtain ⟨w, kept, same⟩ := List.mem_map.mp mem
      exact absurd same (by simpa using (List.mem_filter.mp kept).2)
    dsimp only
    split
    · exact .of_port (regrant_port others)
    · next w _ =>
      have freed : s.Unheard p (s.modPort p (·.freeSlot w.tag)) := by
        refine ⟨State.Told.modPort p (fun c => told_freeSlot c w.tag) p, fun _ => ?_⟩
        rw [State.port_modPort_same]
        rfl
      exact freed.trans (.of_port (regrant_port others))

theorem disableEntry_unheard (x : MapSet × FrameNo) : s.Unheard p (s.disableEntry p x) := by
  unfold State.disableEntry
  split
  · exact .refl s
  · exact (State.Unheard.of_ports rfl : s.Unheard p (s.setEntry p x.1 x.2 none)).trans (unmapClaim_unheard _)

theorem disownPage_unheard (q : PageNo) : s.Unheard p (s.disownPage p q) := by
  unfold State.disownPage
  split
  · have owned : s.Unheard p (s.releaseOwned p q) := (releasePage_unheard q).trans (.of_ports rfl)
    exact owned.trans (settleBank_unheard s q)
  · exact .of_ports rfl

theorem ownershipStep_unheard : s.Unheard p (s.ownershipStep p) := .foldl (fun _ q => disownPage_unheard q) _ s

theorem dropJob_unheard (id : Byte) : s.Unheard p (s.dropJob p id) := by
  unfold State.dropJob
  split
  · exact .refl s
  · exact (State.Unheard.of_ports rfl : s.Unheard p (s.removeJob id)).trans (.foldl (fun _ q => unpinClaim_unheard q) _ _)

/-- Every part but the Copy Engine's report and the test of the end condition. -/
theorem tearDownPart_unheard {x : TeardownPart} (notMark : x ≠ .markActive) (notTest : x ≠ .testClosed) :
    s.Unheard p (s.tearDownPart p x) := by
  cases x with
  | unlock q => exact unlockForTeardown_unheard q
  | disable set f => exact disableEntry_unheard (set, f)
  | dropJob id => exact dropJob_unheard id
  | markActive => exact absurd rfl notMark
  | ownership => exact ownershipStep_unheard
  | clearGrants => exact .of_ports rfl
  | testClosed => exact absurd rfl notTest

/-- The Copy Engine's report changes the port's own controller in that alone (R120). -/
theorem markActive_port : ∃ active, (s.markActive p).port p = { s.port p with activeJob := active } := by
  unfold State.markActive
  split
  · exact ⟨false, State.port_modPort_same s p fun c => { c with activeJob := false }⟩
  · next j _ =>
    split
    · exact ⟨true, State.port_modPort_same (s.modJob j.id fun x => { x with cancel := true }) p
        fun c => { c with activeJob := true }⟩
    · exact ⟨false, State.port_modPort_same s p fun c => { c with activeJob := false }⟩

/-- The step in which a port reaches CLOSED, at its own controller: PORT-DOWN goes to another port (R155, R161). -/
theorem reachClosed_port : (s.reachClosed p).port p = (s.port p).reached := by
  have closed : s.reachClosed p = ((s.modPort p fun c => ({ c with session := .closed } : PortCtl).closeAnswered).offerPortDown
      p).modPort p fun c => { c with closeReason := none } := by
    rw [State.reachClosed, answerClose_eq, State.modPort_modPort]
  have elsewhere : ∀ u : State, (u.offerPortDown p).port p = u.port p := fun u => by
    unfold State.offerPortDown
    split
    · split
      · rfl
      · next other => exact State.port_modPort_ne _ _ _ (Ne.symm other)
    all_goals rfl
  rw [closed, State.port_modPort_same, elsewhere, State.port_modPort_same]
  rfl

end Sys2Proof.Machine

/-! # The order of a teardown's parts, and the queue of an ejected port (R154, R155, R157) -/
namespace Sys2Proof.Machine

variable {s u v : State} {p : Port} {reason : CloseReason}

/-- A teardown is its parts in the order that the schedule gives, with the test somewhere behind the Copy Engine's report. -/
theorem enterClosing_parts : ∃ schedule before after, .markActive ∈ before ∧ .testClosed ∉ before ∧ .testClosed ∉ after ∧
    (∀ x, x ∈ before ++ after ↔ x ∈ ((s.begun p reason schedule).teardownShares p).flatten) ∧
    s.enterClosing p reason = (before ++ .testClosed :: after).foldl (fun s x => State.tearDownPart s p x) (s.begun p reason schedule) := by
  let b := (s.beginClosing p reason).offerSessionEnd p reason
  let r := interleave b.schedule (b.teardownShares p)
  let n := r.1.length - r.2.headD 0 % (r.1.length - (r.1.idxOf .markActive + 1) + 1)
  have parts : ∀ x, x ∈ r.1 ↔ x ∈ (b.teardownShares p).flatten := fun x => (interleave_perm _ _).mem_iff
  have marked : .markActive ∈ r.1 := (parts _).mpr (mem_shares.mpr (by simp))
  have untested : .testClosed ∉ r.1 := fun mem => by
    rcases mem_shares.mp ((parts _).mp mem) with ⟨_, _, e⟩ | ⟨_, _, e⟩ | ⟨_, _, e⟩ | e | e | e <;> cases e
  have place : r.1.idxOf .markActive < n := by
    have here := List.idxOf_lt_length_of_mem marked
    have few := Nat.mod_lt (r.2.headD 0) (Nat.add_one_pos (r.1.length - (r.1.idxOf .markActive + 1)))
    show _ < r.1.length - r.2.headD 0 % (r.1.length - (r.1.idxOf .markActive + 1) + 1)
    omega
  refine ⟨r.2.tail, r.1.take n, r.1.drop n, ?_, fun mem => untested (List.mem_of_mem_take mem),
    fun mem => untested (List.mem_of_mem_drop mem), fun x => by rw [List.take_append_drop]; exact parts x, rfl⟩
  exact List.mem_take_iff_idxOf_lt marked |>.mpr place

/-- The queue of a port that closes without a CLOSE to answer. -/
structure State.Silent (p : Port) (queue : List Message) (u : State) : Prop where
  notOpen : (u.port p).session ≠ .opened
  reason : (u.port p).closeReason ≠ some .closed
  queue : (u.port p).outbound = queue

theorem State.Silent.part {queue : List Message} (h : u.Silent p queue) (x : TeardownPart) : (u.tearDownPart p x).Silent p queue := by
  have unheard : ∀ {v : State}, u.Unheard p v → v.Silent p queue := fun step =>
    ⟨by rw [step.told.session]; exact h.notOpen, by rw [step.told.closeReason]; exact h.reason,
      (step.queue h.notOpen).trans h.queue⟩
  by_cases mark : x = .markActive
  · subst mark
    obtain ⟨active, own⟩ := markActive_port (s := u) (p := p)
    exact ⟨by rw [State.tearDownPart, own]; exact h.notOpen, by rw [State.tearDownPart, own]; exact h.reason,
      by rw [State.tearDownPart, own]; exact h.queue⟩
  by_cases test : x = .testClosed
  · subst test
    rw [State.tearDownPart, State.closedCheck]
    split
    · obtain ⟨rest, -, outbound⟩ := reached_eq (u.port p)
      have unanswered : (u.port p).answeredTag = none := if_neg h.reason
      rw [unanswered] at outbound
      refine ⟨?_, ?_, ?_⟩ <;> rw [reachClosed_port]
      · rw [reached_session]; nofun
      · rw [rest]; nofun
      · exact outbound.trans h.queue
    · exact h
  · exact unheard (tearDownPart_unheard mark test)

/-- An ejected port finds SESSION-END at the tail of its queue, if there is room, and nothing else (R157). -/
theorem enterClosing_ejected_outbound : ((s.enterClosing p .ejected).port p).outbound =
    joined (s.port p).outbound (.event (.sessionEnd .ejected)) := by
  obtain ⟨schedule, before, after, -, -, -, -, parts⟩ := enterClosing_parts (s := s) (p := p) (reason := .ejected)
  have port : (s.begun p .ejected schedule).port p = (s.port p).begun .ejected := by rw [begun_port, if_pos rfl]
  obtain ⟨-, -, outbound⟩ := begun_eq (s.port p) .ejected
  have begins : (s.begun p .ejected schedule).Silent p (joined (s.port p).outbound (.event (.sessionEnd .ejected))) :=
    ⟨by rw [port, begun_session]; nofun, by rw [port, begun_closeReason]; nofun, by rw [port]; exact outbound⟩
  rw [parts]
  exact (List.foldlRecOn _ _ begins fun _ silent x _ => silent.part x).queue

end Sys2Proof.Machine

/-! # The three entries into CLOSING (R153, R157, R158, R200) -/
namespace Sys2Proof.Machine

variable {s : State} {p : Port} {t : Tag}

theorem eject_bounds {target : Byte} (bounds : 4 ≤ target.toNat) : s.eject p t target = s.answer p t 0x63 .bounds := by
  simp only [State.eject, below_eq_none.mpr bounds]

theorem eject_badState {target : Byte} {x : Port} (named : x.val = target.toNat) (bad : x = p ∨ (s.port x).session ≠ .opened) :
    s.eject p t target = s.answer p t 0x63 .badState := by
  simp only [State.eject, below_eq_some.mpr named.symm]
  rcases bad with own | closed
  · exact if_pos own
  · have shut : (!s.isOpen x) = true := by rw [Bool.not_eq_true', ← Bool.not_eq_true, isOpen_iff]; exact closed
    rw [if_pos shut, ite_self]

theorem eject_opened {target : Byte} {x : Port} (named : x.val = target.toNat) (other : x ≠ p) (opened : (s.port x).session = .opened) :
    s.eject p t target = (s.answer p t 0x63 .ok).enterClosing x .ejected := by
  simp only [State.eject, below_eq_some.mpr named.symm, if_neg other, isOpen_iff.mpr opened, Bool.not_true, Bool.false_eq_true,
    if_false]

/-- Settles O21. -/
theorem closingIsEnteredThreeWays : Obligations.ClosingIsEnteredThreeWays := by
  refine ⟨fun p t s h => congrArg _ (receive_handed (r := .closeSession) h 0x02 nofun rfl), fun p t target s h role => ?_,
    fun s x => enterClosing_ejected_outbound, fun p s h opened => ?_⟩
  · have run : exec (.eject p t target) s = .next ((s.handed p t (.eject target)).eject p t target) :=
      congrArg _ (receive_handed h 0x63 (fun _ => role) rfl)
    have session : ∀ x, ((s.handed p t (.eject target)).port x).session = (s.port x).session :=
      withSlot_session s p t (.eject target) .inFlight
    rw [run]
    refine ⟨fun bounds => ?_, fun x named => ⟨fun bad => ?_, fun other opened => ?_⟩⟩
    · rw [eject_bounds bounds, handed_answer h]
    · rw [eject_badState named (bad.imp_right fun closed => (session x).trans_ne closed), handed_answer h]
    · rw [eject_opened named other ((session x).trans opened), handed_answer h]
  · rw [exec_breakBegins h.running h.line, if_pos (isOpen_iff.mpr opened)]
    rfl

end Sys2Proof.Machine

/-! # CLOSING ends at CLOSED (R154, R155, R161) -/
namespace Sys2Proof.Machine

variable {s u v b : State} {p : Port} {reason : CloseReason}

/-! ## The copy queue through the parts of a teardown (R120) -/

/-- A copy queue that has lost jobs which were not ACTIVE, and whose jobs bear their ids, ports and states. -/
structure JobsShed (l l' : List Job) : Prop where
  ids : (l'.map (·.id)).Sublist (l.map (·.id))
  old : ∀ j ∈ l', ∃ j₀ ∈ l, j.id = j₀.id ∧ j.port = j₀.port ∧ j.state = j₀.state
  active : ∀ j₀ ∈ l, j₀.state = .active → ∃ j ∈ l', j.port = j₀.port ∧ j.state = .active

theorem JobsShed.refl (l : List Job) : JobsShed l l := ⟨.refl _, fun j mem => ⟨j, mem, rfl, rfl, rfl⟩, fun j mem act => ⟨j, mem, rfl, act⟩⟩

theorem JobsShed.trans {l l' l'' : List Job} (h : JobsShed l l') (h' : JobsShed l' l'') : JobsShed l l'' := by
  refine ⟨h'.ids.trans h.ids, fun j mem => ?_, fun j mem active => ?_⟩
  · obtain ⟨j₁, mem₁, id₁, port₁, state₁⟩ := h'.old j mem
    obtain ⟨j₀, mem₀, id₀, port₀, state₀⟩ := h.old j₁ mem₁
    exact ⟨j₀, mem₀, id₁.trans id₀, port₁.trans port₀, state₁.trans state₀⟩
  · obtain ⟨j₁, mem₁, port₁, active₁⟩ := h.active j mem active
    obtain ⟨j₂, mem₂, port₂, active₂⟩ := h'.active j₁ mem₁ active₁
    exact ⟨j₂, mem₂, port₂.trans port₁, active₂⟩

/-- A port has an ACTIVE job after it exactly when it had one before. -/
theorem JobsShed.active_iff {l l' : List Job} (h : JobsShed l l') :
    (∃ j ∈ l', j.state = .active ∧ j.port = p) ↔ ∃ j ∈ l, j.state = .active ∧ j.port = p := by
  constructor
  · rintro ⟨j, mem, active, port⟩
    obtain ⟨j₀, mem₀, -, port₀, state₀⟩ := h.old j mem
    exact ⟨j₀, mem₀, state₀ ▸ active, port₀ ▸ port⟩
  · rintro ⟨j₀, mem₀, active, port⟩
    obtain ⟨j, mem, same, active'⟩ := h.active j₀ mem₀ active
    exact ⟨j, mem, active', same.trans port⟩

theorem removeJob_shed (once : (s.jobs.map (·.id)).Nodup) {j : Job} (mem : j ∈ s.jobs) (queued : j.state = .queued) :
    JobsShed s.jobs (s.removeJob j.id).jobs := by
  refine ⟨List.filter_sublist.map _, fun x hx => ⟨x, (List.mem_filter.mp hx).1, rfl, rfl, rfl⟩, fun x hx active => ?_⟩
  refine ⟨x, List.mem_filter.mpr ⟨hx, ?_⟩, rfl, active⟩
  have other : x.id ≠ j.id := fun same => by
    rw [eq_of_id once hx mem same, queued] at active
    cases active
  simpa using other

theorem modJob_shed (id : Byte) : JobsShed s.jobs (s.modJob id fun x => { x with cancel := true }).jobs := by
  have same : ∀ x : Job, let y := if x.id = id then { x with cancel := true } else x
      y.id = x.id ∧ y.port = x.port ∧ y.state = x.state := fun x => by
    dsimp only
    split <;> exact ⟨rfl, rfl, rfl⟩
  refine ⟨?_, fun y hy => ?_, fun x hx active => ?_⟩
  · rw [State.modJob, List.map_map]
    exact (List.map_congr_left fun x _ => (same x).1) ▸ List.Sublist.refl _
  · obtain ⟨x, hx, rfl⟩ := List.mem_map.mp hy
    exact ⟨x, hx, same x⟩
  · exact ⟨_, List.mem_map_of_mem hx, (same x).2.1, (same x).2.2.trans active⟩

/-! ## A port that closes, before the test of the end condition -/

/-- A teardown that began in state b and has not come to its test: the port's session record is as it began. -/
structure State.ClosesFrom (p : Port) (b u : State) : Prop where
  session : (u.port p).session = (b.port p).session
  reason : (u.port p).closeReason = (b.port p).closeReason
  inFlight : (u.port p).inFlight = (b.port p).inFlight
  jobs : JobsShed b.jobs u.jobs

theorem State.ClosesFrom.refl (b : State) : b.ClosesFrom p b := ⟨rfl, rfl, rfl, .refl _⟩

theorem State.ClosesFrom.unheard (h : b.ClosesFrom p u) (step : u.Unheard p v) (jobs : JobsShed u.jobs v.jobs) : b.ClosesFrom p v :=
  ⟨step.told.session.trans h.session, step.told.closeReason.trans h.reason, step.told.inFlight.trans h.inFlight, h.jobs.trans jobs⟩

/-- The Copy Engine's report says whether the port has the ACTIVE job (R120). -/
def State.Reported (p : Port) (b u : State) : Prop :=
  (u.port p).activeJob = true ↔ ∃ j ∈ b.jobs, j.state = .active ∧ j.port = p

theorem dropJob_shed (once : (s.jobs.map (·.id)).Nodup) {id : Byte}
    (queued : ∀ j ∈ s.jobs, j.id = id → j.port = p → j.state = .queued) : JobsShed s.jobs (s.dropJob p id).jobs := by
  unfold State.dropJob
  split
  · exact .refl _
  · next j found =>
    obtain ⟨mem, rfl, own⟩ := jobOf_some found
    rw [(unpinJob_sameWork j).jobs]
    exact removeJob_shed once mem (queued j mem rfl own)

/-- The report of a copy queue whose ACTIVE jobs are one port's. -/
theorem markActive_report (one : ∀ j ∈ s.jobs, ∀ j' ∈ s.jobs, j.state = .active → j'.state = .active → j.port = j'.port) :
    (((s.markActive p).port p).activeJob = true ↔ ∃ j ∈ s.jobs, j.state = .active ∧ j.port = p) ∧
      JobsShed s.jobs (s.markActive p).jobs := by
  have report : ∀ (v : State) (active : Bool), ((v.modPort p fun c => { c with activeJob := active }).port p).activeJob = active :=
    fun v _ => by rw [State.port_modPort_same]
  unfold State.markActive
  split
  · next none =>
    refine ⟨?_, .refl _⟩
    rw [report]
    exact iff_of_false nofun fun ⟨j, mem, active, _⟩ => not_active_of_activeJob_none none mem active
  · next j found =>
    have mem := activeJob_mem found
    have active : j.state = .active := by simpa using List.find?_some found
    split
    · next own =>
      refine ⟨?_, modJob_shed j.id⟩
      rw [report]
      exact iff_of_true rfl ⟨j, mem, active, own⟩
    · next other =>
      refine ⟨?_, .refl _⟩
      rw [report]
      exact iff_of_false nofun fun ⟨x, hx, active', own⟩ => other ((one j mem x hx active active').trans own)

/-- The ACTIVE jobs of a queue that a teardown has come to are one port's, as they were at its start (R99). -/
theorem JobsShed.onePort {l' : List Job} (jobs : b.JobQueueSound) (h : JobsShed b.jobs l') :
    ∀ j ∈ l', ∀ j' ∈ l', j.state = .active → j'.state = .active → j.port = j'.port := by
  intro j mem j' mem' active active'
  obtain ⟨j₀, mem₀, -, port₀, state₀⟩ := h.old j mem
  obtain ⟨j₁, mem₁, -, port₁, state₁⟩ := h.old j' mem'
  have same := jobs.activeOnce j₀ mem₀ j₁ mem₁ (state₀ ▸ active) (state₁ ▸ active')
  rw [port₀, port₁, eq_of_id jobs.idsOnce mem₀ mem₁ same]

/-- A part that leaves the copy queue alone does so by its share in the work (R120). -/
theorem tearDownPart_jobs {x : TeardownPart} (notMark : x ≠ .markActive) (notDrop : ∀ id, x ≠ .dropJob id) :
    (s.tearDownPart p x).jobs = s.jobs := by
  cases x with
  | unlock q => exact (unlockForTeardown_sameWork p q).jobs
  | disable set f => exact (disableEntry_sameWork p (set, f)).jobs
  | dropJob id => exact absurd rfl (notDrop id)
  | markActive => exact absurd rfl notMark
  | ownership => exact (ownershipStep_sameWork p).jobs
  | clearGrants => exact (clearGrants_sameWork p).jobs
  | testClosed => exact (closedCheck_sameWork p).jobs

/-- A part before the test keeps the session record, and brings the report or keeps it. -/
theorem State.ClosesFrom.part (jobs : b.JobQueueSound) (h : b.ClosesFrom p u) {x : TeardownPart} (notTest : x ≠ .testClosed)
    (queued : ∀ id, x = .dropJob id → ∀ j ∈ b.jobs, j.id = id → j.port = p → j.state = .queued) :
    b.ClosesFrom p (u.tearDownPart p x) ∧ (x = .markActive ∨ b.Reported p u → b.Reported p (u.tearDownPart p x)) := by
  by_cases mark : x = .markActive
  · subst mark
    obtain ⟨active, own⟩ := markActive_port (s := u) (p := p)
    obtain ⟨report, shed⟩ := markActive_report (p := p) (h.jobs.onePort jobs)
    refine ⟨⟨?_, ?_, ?_, h.jobs.trans shed⟩, fun _ => report.trans h.jobs.active_iff⟩
    · rw [State.tearDownPart, own]; exact h.session
    · rw [State.tearDownPart, own]; exact h.reason
    · rw [State.tearDownPart, own]; exact h.inFlight
  · have step : u.Unheard p (u.tearDownPart p x) := tearDownPart_unheard mark notTest
    have shed : JobsShed u.jobs (u.tearDownPart p x).jobs := by
      by_cases drop : ∃ id, x = .dropJob id
      · obtain ⟨id, rfl⟩ := drop
        refine dropJob_shed (jobs.idsOnce.sublist h.jobs.ids) fun j mem same own => ?_
        obtain ⟨j₀, mem₀, id₀, port₀, state₀⟩ := h.jobs.old j mem
        rw [state₀]
        exact queued id rfl j₀ mem₀ (id₀ ▸ same) (port₀ ▸ own)
      · rw [tearDownPart_jobs mark (not_exists.mp drop)]
        exact .refl _
    refine ⟨h.unheard step shed, fun before => ?_⟩
    rw [State.Reported, step.told.activeJob]
    exact before.resolve_left mark

theorem State.ClosesFrom.parts (jobs : b.JobQueueSound) (l : List TeardownPart) (untested : .testClosed ∉ l)
    (queued : ∀ id, .dropJob id ∈ l → ∀ j ∈ b.jobs, j.id = id → j.port = p → j.state = .queued) (h : b.ClosesFrom p u) :
    b.ClosesFrom p (l.foldl (fun s x => State.tearDownPart s p x) u) ∧
      (.markActive ∈ l ∨ b.Reported p u → b.Reported p (l.foldl (fun s x => State.tearDownPart s p x) u)) := by
  induction l generalizing u with
  | nil => exact ⟨h, fun before => before.resolve_left List.not_mem_nil⟩
  | cons x l ih =>
    rw [List.mem_cons, not_or] at untested
    obtain ⟨first, report⟩ := h.part jobs (Ne.symm untested.1) fun id e => queued id (by simp [e])
    obtain ⟨rest, later⟩ := ih untested.2 (fun id mem => queued id (by simp [mem])) first
    refine ⟨rest, fun before => later ?_⟩
    rcases before with mem | reported
    · rcases List.mem_cons.mp mem with rfl | mem
      · exact .inr (report (.inl rfl))
      · exact .inl mem
    · exact .inr (report (.inr reported))

/-! ## The entry into CLOSING and its test -/

/-- The parts after the test leave the session record as the test made it. -/
theorem tearDownParts_session (l : List TeardownPart) (untested : .testClosed ∉ l) (u : State) :
    ((l.foldl (fun s x => State.tearDownPart s p x) u).port p).session = (u.port p).session ∧
      ((l.foldl (fun s x => State.tearDownPart s p x) u).port p).closeReason = (u.port p).closeReason := by
  induction l generalizing u with
  | nil => exact ⟨rfl, rfl⟩
  | cons x l ih =>
    rw [List.mem_cons, not_or] at untested
    obtain ⟨session, closeReason⟩ := ih untested.2 (u.tearDownPart p x)
    rw [List.foldl_cons, session, closeReason]
    by_cases mark : x = .markActive
    · subst mark
      obtain ⟨active, own⟩ := markActive_port (s := u) (p := p)
      rw [State.tearDownPart, own]
      exact ⟨rfl, rfl⟩
    · have told := (tearDownPart_unheard (s := u) (p := p) mark (Ne.symm untested.1)).told
      exact ⟨told.session, told.closeReason⟩

theorem mayClose_iff {c : PortCtl} : c.mayClose = true ↔ c.session = .closing ∧ c.inFlight = 0 ∧ c.activeJob = false := by
  simp [PortCtl.mayClose, and_assoc]

/-- The test of the end condition at the port's own session record. -/
theorem closedCheck_session : ((s.closedCheck p).port p).session = (if (s.port p).mayClose then .closed else (s.port p).session) ∧
    ((s.closedCheck p).port p).closeReason = if (s.port p).mayClose then none else (s.port p).closeReason := by
  unfold State.closedCheck
  split
  · rw [reachClosed_port]
    exact ⟨reached_session _, rfl⟩
  · exact ⟨rfl, rfl⟩

/-- At the end of its teardown a port is CLOSED if it has no access in flight and no ACTIVE job, and CLOSING otherwise. -/
theorem enterClosing_session (jobs : s.JobQueueSound) :
    let ends := (s.port p).inFlight = 0 ∧ ¬ ∃ j ∈ s.jobs, j.state = .active ∧ j.port = p
    (ends → ((s.enterClosing p reason).port p).session = .closed ∧ ((s.enterClosing p reason).port p).closeReason = none) ∧
    (¬ ends → ((s.enterClosing p reason).port p).session = .closing ∧
      ((s.enterClosing p reason).port p).closeReason = some reason) := by
  obtain ⟨schedule, before, after, marked, untested, untested', shares, parts⟩ := enterClosing_parts (s := s) (p := p) (reason := reason)
  intro ends
  have sameJobs : (s.begun p reason schedule).jobs = s.jobs := by rw [begun_rest]
  have port : (s.begun p reason schedule).port p = (s.port p).begun reason := by rw [begun_port, if_pos rfl]
  have inFlight : ((s.port p).begun reason).inFlight = (s.port p).inFlight := by
    obtain ⟨rest, -, -⟩ := begun_eq (s.port p) reason
    rw [rest]
    rfl
  have jobs' : (s.begun p reason schedule).JobQueueSound := jobs.same sameJobs
  have queued : ∀ id, .dropJob id ∈ before → ∀ j ∈ (s.begun p reason schedule).jobs, j.id = id → j.port = p → j.state = .queued := by
    intro id mem j hj same own
    rcases mem_shares.mp ((shares _).mp (List.mem_append_left _ mem)) with ⟨_, _, e⟩ | ⟨_, _, e⟩ | ⟨_, named, e⟩ | e | e | e <;> cases e
    obtain ⟨j₀, mem₀, -, state₀, id₀⟩ := mem_queuedJobs.mp named
    rw [eq_of_id jobs'.idsOnce hj mem₀ (same.trans id₀.symm), state₀]
  obtain ⟨reached, report⟩ := State.ClosesFrom.parts jobs' before untested queued (.refl _)
  have reported := report (.inl marked)
  unfold State.Reported at reported
  rw [parts, List.foldl_append, List.foldl_cons, (tearDownParts_session after untested' _).1, (tearDownParts_session after untested' _).2]
  generalize before.foldl (fun s x => State.tearDownPart s p x) (s.begun p reason schedule) = u at reached reported
  have may : (u.port p).mayClose = true ↔ ends := by
    rw [mayClose_iff, reached.session, reached.inFlight, port, begun_session, inFlight, ← Bool.not_eq_true, reported, sameJobs]
    exact and_iff_right rfl
  rw [State.tearDownPart, closedCheck_session.1, closedCheck_session.2]
  refine ⟨fun h => ?_, fun h => ?_⟩
  · rw [if_pos (may.mpr h), if_pos (may.mpr h)]
    exact ⟨rfl, rfl⟩
  · rw [if_neg (fun m => h (may.mp m)), if_neg (fun m => h (may.mp m)), reached.session, reached.reason, port]
    exact ⟨begun_session _ _, begun_closeReason _ _⟩

/-! ## CLOSED_REACHED (R155, R161) -/

theorem exec_closedReached (running : s.phase = .running) : exec (.closedReached p) s = .next (s.closedCheck p) :=
  congrArg _ (if_pos (isRunning_iff.mpr running))

/-- PORT-DOWN at the end of a CLOSING with a reason (R161). -/
def State.portDown (s : State) (role : Option Port) (p : Port) (reason : CloseReason) : State :=
  match role with
  | none => s
  | some x => if x = p then s else s.modPort x (·.offerEvent (.portDown p reason))

theorem offerPortDown_eq (h : (s.port p).closeReason = some reason) : s.offerPortDown p = s.portDown s.role p reason := by
  unfold State.offerPortDown State.portDown
  rw [h]
  cases s.role <;> rfl

theorem modPort_apart {x y : Port} (other : x ≠ y) (f g : PortCtl → PortCtl) :
    (s.modPort x f).modPort y g = (s.modPort y g).modPort x f := by
  have apart : x.val ≠ y.val := fun e => other (Fin.ext e)
  simp only [State.modPort, State.port, Fin.getElem_fin, Vector.getElem_set_ne _ _ apart, Vector.getElem_set_ne _ _ apart.symm]
  rw [Vector.set_comm _ _ apart]

/-- PORT-DOWN goes to another port, so it may come after what the port's own controller does. -/
theorem portDown_modPort (role : Option Port) (f : PortCtl → PortCtl) :
    (s.portDown role p reason).modPort p f = (s.modPort p f).portDown role p reason := by
  unfold State.portDown
  cases role with
  | none => rfl
  | some x =>
    dsimp only
    split
    · rfl
    · next other => exact modPort_apart other _ _

theorem reachClosed_eq (h : (s.port p).closeReason = some reason) :
    s.reachClosed p = (s.modPort p PortCtl.reached).portDown s.role p reason := by
  have kept : ((s.modPort p fun c => ({ c with session := .closed } : PortCtl).closeAnswered).port p).closeReason = some reason := by
    rw [State.port_modPort_same]
    unfold PortCtl.closeAnswered
    split
    · exact h
    · exact (told_offerReply _ _ _ _ _).closeReason.trans h
  rw [State.reachClosed, answerClose_eq, State.modPort_modPort, offerPortDown_eq kept, portDown_modPort, State.modPort_modPort]
  rfl

/-- The reply to the CLOSE is the same whether the reason is gone before it or after. -/
theorem offerReply_closeReason (c : PortCtl) (t : Tag) (code : Byte) (st : Status) (pay : Payload) :
    ({ c.offerReply t code st pay with closeReason := none } : PortCtl) =
      { ({ c with closeReason := none } : PortCtl).offerReply t code st pay with closeReason := none } := by
  unfold PortCtl.offerReply
  dsimp only
  split <;> rfl

/-- A port that closed by request answers the first CLOSE among its slots (R155). -/
theorem reached_of_close {c : PortCtl} (h : c.closeReason = some .closed) {before after : List Slot} {t : Tag} {st : SlotState}
    (slots : c.slots = before ++ { tag := t, request := .closeSession, state := st } :: after)
    (first : ∀ x ∈ before, x.request ≠ .closeSession) :
    c.reached = { ({ c with session := .closed, closeReason := none, slots := c.slots.filter (·.tag ≠ t) } : PortCtl).offerReply t
      0x02 .ok .none with closeReason := none } := by
  have found := find_close (f := fun _ => true) (after := after) rfl
    (rfl : ({ tag := t, request := .closeSession, state := st } : Slot).request = _) first
  rw [List.filter_true, ← slots] at found
  have answered : ({ c with session := .closed } : PortCtl).answeredTag = some t :=
    (if_pos h).trans (congrArg (Option.map fun x : Slot => x.tag) found)
  unfold PortCtl.reached PortCtl.closeAnswered
  rw [answered]
  exact offerReply_closeReason _ _ _ _ _

/-- A port that closed otherwise answers nothing. -/
theorem reached_of_other {c : PortCtl} (h : c.closeReason ≠ some .closed) :
    c.reached = { c with session := .closed, closeReason := none } := by
  have unanswered : ({ c with session := .closed } : PortCtl).answeredTag = none := if_neg h
  unfold PortCtl.reached PortCtl.closeAnswered
  rw [unanswered]

/-- Settles O23: at the test the session record is as the teardown began it, with the Copy Engine's report. -/
theorem closingEndsAtClosed : Obligations.ClosingEndsAtClosed := by
  refine ⟨fun s p reason jobs opened => ?_, fun s p running => ⟨exec_closedReached running, fun early => ?_,
    fun session inFlight activeJob reason why => ?_⟩⟩
  · obtain ⟨closed, closing⟩ := enterClosing_session (s := s) (p := p) (reason := reason) jobs
    refine ⟨fun ends => closed ⟨ends.1, ?_⟩, fun left => closing ?_⟩
    · rintro ⟨j, mem, active, own⟩
      exact ends.2 j mem active own
    · rintro ⟨none, noJob⟩
      exact left.elim (· none) noJob
  · rw [exec_closedReached running, State.closedCheck, if_neg fun may => early (mayClose_iff.mp may)]
  intro down
  have told : ∀ u : State, u.portDown s.role p reason = down u := fun u => by
    unfold State.portDown
    cases role : s.role <;> simp only [down, role]
  rw [exec_closedReached running, State.closedCheck, if_pos (mayClose_iff.mpr ⟨session, inFlight, activeJob⟩), reachClosed_eq why, told]
  refine ⟨fun before after t st slots first closed => ?_, fun other => ?_⟩
  · subst closed
    exact congrArg (fun u => Host.Outcome.next (down u)) (State.modPort_congr (reached_of_close why slots first))
  · have unanswered : (s.port p).closeReason ≠ some .closed := by rw [why]; exact fun e => other (Option.some.inj e)
    exact congrArg (fun u => Host.Outcome.next (down u)) (State.modPort_congr (reached_of_other unanswered))

end Sys2Proof.Machine

/-! # Sessions and slots through every step (R41, R83, R148)

`State.Sound` does not say what request a WAITING slot holds; `State.acquireWait` alone makes a slot WAITING, but no clause
says that the slot holds an ACQUIRE. So a state in which a WAITING slot holds a SELECT satisfies every invariant, and a SELECT
that is then deferred leaves its port with two slots of a SELECT, which `State.SlotsSound.select` excludes. -/
namespace Sys2Proof.Machine

/-! ## A state with a stray SELECT: port 0 reads its page 0 and waits for the lock of it, which port 1 holds -/

/-- The device after reset with page 0 ALLOCATED to port 0. -/
def pageTaken : State := State.reset.takePages 0 1

/-- The read of port 0 that is in flight. -/
def readInFlight : AccessRec := { port := 0, tag := 0, kind := .read 1, page := 0, offset := 0 }

/-- The lock entry of page 0: port 1 holds it, and port 0 waits by its tag 1. -/
def awaitedLock : LockEntry :=
  { page := 0, holders := [{ port := 1, mode := .exclusive, remaining := 1 }],
    waiters := [{ port := 0, mode := .exclusive, tag := 1, lease := 1, remaining := none }] }

/-- The slot of the read. -/
def readSlot : Slot := { tag := 0, request := .access 0 0 (.read 1), state := .inFlight }

/-- The WAITING slot, which holds a SELECT where the Port Controller would have put an ACQUIRE. -/
def straySlot : Slot := { tag := 1, request := .selectSet .a, state := .waiting }

/-- A Port Controller OPEN, with these slots and so many accesses in flight. -/
def openedPort (slots : List Slot) (inFlight : Nat) : PortCtl :=
  { PortCtl.initial false with session := .opened, slots := slots, inFlight := inFlight }

/-- The state, with a SELECT of set B by port 0 to come. -/
def straySelect : State :=
  { State.reset with
    ports := #v[openedPort [readSlot, straySlot] 1, openedPort [] 0, .initial false, .initial false]
    pages := (pageTaken.pinUp 0).pages, freeList := pageTaken.freeList, owned := pageTaken.owned, banks := pageTaken.banks
    maps := #v[{ PortMaps.initial with inFlight := 1 }, .initial, .initial, .initial]
    accesses := [readInFlight], queues := #v[[readInFlight.op], [], [], []], locks := [awaitedLock]
    pending := [.selectSet 0 2 1] }

/-! ## Its tables -/

theorem reset_firstFree : State.reset.freeList.take 1 = [0] := by rw [reset_freeList, List.finRange_succ]; rfl

theorem straySelect_page (q : PageNo) :
    straySelect.page q =
      if q = 0 then
        { state := .allocated, owner := some 0, grants := noGrants, mapCount := 0, pinCount := 1, poisoned := false }
      else .free := by
  have pages : straySelect.page q = (pageTaken.pinUp 0).page q := by simp only [State.page, straySelect]
  have taken : ∀ x, pageTaken.page x = if x = 0 then
      { state := .allocated, owner := some 0, grants := noGrants, mapCount := 0, pinCount := 0, poisoned := false }
      else .free := fun x => by
    rw [pageTaken, takePages_page, reset_firstFree, reset_page]
    simp only [List.mem_singleton]
  rw [pages, State.pinUp, State.page_modPage, taken, taken]
  split <;> rfl

theorem straySelect_inUse {q : PageNo} (used : (straySelect.page q).inUse) : q = 0 := by
  rw [straySelect_page] at used
  split at used
  · next zero => exact zero
  · rcases used with h | h <;> cases h

theorem straySelect_ownedBy (p : Port) : straySelect.ownedBy p = if p = 0 then 1 else 0 := by
  have owned : straySelect.ownedBy p = pageTaken.ownedBy p := by simp only [State.ownedBy, straySelect]
  rw [owned, pageTaken, takePages_ownedBy, reset_ownedBy]

theorem straySelect_map (p : Port) :
    straySelect.map p = { PortMaps.initial with inFlight := if p = 0 then 1 else 0 } := by
  match p with
  | 0 | 1 | 2 | 3 => rfl

theorem straySelect_resolve (p : Port) (set : MapSet) (f : FrameNo) : straySelect.resolve p set f = none := by
  rw [State.resolve, straySelect_map]
  cases set <;> simp [PortMaps.initial, PortMaps.entry]

/-- A port other than 0 and 1 is CLOSED. -/
theorem straySelect_port (p : Port) :
    straySelect.port p =
      if p = 0 then openedPort [readSlot, straySlot] 1 else if p = 1 then openedPort [] 0 else .initial false := by
  match p with
  | 0 | 1 | 2 | 3 => rfl

theorem straySelect_queue (b : BankNo) : straySelect.queue b = if b = 0 then [readInFlight.op] else [] := by
  match b with
  | 0 | 1 | 2 | 3 => rfl

/-! ## Every invariant holds of it -/

theorem State.DirectoryAgrees.pinUp {s : State} (h : s.DirectoryAgrees) (q : PageNo) : (s.pinUp q).DirectoryAgrees :=
  h.modPage q rfl rfl fun _ => rfl

theorem pageTaken_directory : pageTaken.DirectoryAgrees := by
  obtain ⟨agrees, -⟩ := directorySound_iff.mp reset_directory
  have enough : 1 ≤ State.reset.freeList.length := by
    rw [reset_freeList]
    simp
  exact agrees.takePages enough

theorem straySelect_directory : straySelect.DirectorySound := by
  refine directorySound_iff.mpr ⟨?_, fun p => ?_⟩
  · exact (pageTaken_directory.pinUp 0).of_tables rfl rfl rfl rfl
  · have quota : straySelect.config.quota[p] = 512 := by simp [straySelect, State.reset, ConfigRec.initial, Config.quota]
    rw [straySelect_ownedBy, quota]
    split <;> decide

theorem straySelect_marks : straySelect.MarksSound := marksSound_iff.mpr fun q => by
  rw [straySelect_page]
  split <;> exact ⟨fun _ => rfl, nofun⟩

theorem straySelect_mapCounts : straySelect.MapCountsExact := fun q => by
  rw [straySelect_page, entriesNaming_of_empty straySelect_resolve]
  split <;> exact ⟨rfl, fun _ => rfl⟩

theorem straySelect_pinCounts : straySelect.PinCountsExact where
  pins q := by
    have uses : straySelect.usesOf q = if q = 0 then 1 else 0 := by
      have accesses : straySelect.accesses = [readInFlight] := rfl
      have jobs : straySelect.jobs = [] := rfl
      rw [State.usesOf, accesses, jobs]
      by_cases zero : q = 0
      · rw [zero]; rfl
      · simp [readInFlight, zero, Ne.symm zero]
    rw [straySelect_page, uses]
    split <;> rfl
  unused q idle := by
    have other : q ≠ 0 := fun zero => idle (by rw [straySelect_page, if_pos zero]; exact .inl rfl)
    have locks : straySelect.locks = [awaitedLock] := rfl
    rw [straySelect_page, if_neg other, lockOf_eq_none, locks]
    exact ⟨rfl, fun l mem => by rw [List.mem_singleton.mp mem]; exact Ne.symm other⟩
  orphaned q orphan := by
    rw [straySelect_page] at orphan
    split at orphan <;> cases orphan

theorem straySelect_ports : straySelect.PortsBounded := fun p => by
  rw [straySelect_port]
  split
  · exact ⟨by decide, by decide, Nat.zero_le _, Nat.zero_le _, Nat.zero_le _⟩
  · split <;> exact ⟨Nat.zero_le _, List.nodup_nil, Nat.zero_le _, Nat.zero_le _, Nat.zero_le _⟩

theorem straySelect_transmitters : straySelect.TransmittersFollow := fun _ p => by
  rw [straySelect_port]
  split
  · exact ⟨by decide, nofun, fun _ => rfl⟩
  · split <;> exact ⟨by decide, nofun, fun _ => rfl⟩

theorem awaitedLock_sound : awaitedLock.Sound where
  notEmpty := rfl
  portsOnce := by decide
  exclusive h mem _ := by rw [List.mem_singleton.mp mem]; rfl
  held _ := nofun
  head w ws waiters _ := ⟨_, List.mem_singleton_self _, rfl⟩

theorem straySelect_locks : straySelect.LockTableSound where
  places := by decide
  pagesOnce := List.nodup_singleton _
  entries l mem := by rw [List.mem_singleton.mp mem]; exact awaitedLock_sound

theorem straySelect_work : straySelect.WorkSound where
  inPage b op mem := by
    rw [straySelect_queue] at mem
    split at mem
    · next zero => rw [List.mem_singleton.mp mem, zero]; decide
    · cases mem
  counts p := by
    match p with
    | 0 | 1 | 2 | 3 => exact ⟨rfl, rfl⟩
  recordsOnce := List.nodup_singleton _
  jobs := nofun
  active h := absurd rfl h
  accessOps _ b := by
    match b with
    | 0 | 1 | 2 | 3 => rfl
  copyOps _ := ⟨fun _ => rfl, nofun⟩
  starting h := by rcases h with h | ⟨h, -⟩ <;> cases h

/-- No port is CLOSING, and one that is not OPEN is neither port 0 nor port 1 and has nothing in flight. -/
theorem straySelect_session (p : Port) :
    (straySelect.port p).closeReason = none ∧ (straySelect.port p).activeJob = false ∧
      (straySelect.port p).session ≠ .closing ∧
      ((straySelect.port p).session ≠ .opened →
        p ≠ 0 ∧ p ≠ 1 ∧ (straySelect.port p).inFlight = 0 ∧ (straySelect.port p).slots = []) := by
  match p with
  | 0 | 1 => exact ⟨rfl, rfl, nofun, fun unopened => absurd rfl unopened⟩
  | 2 | 3 => exact ⟨rfl, rfl, nofun, fun _ => ⟨by decide, by decide, rfl, rfl⟩⟩

theorem straySelect_sessions : straySelect.SessionsSound where
  reason p := by
    obtain ⟨reason, -, notClosing, -⟩ := straySelect_session p
    exact ⟨fun h => absurd reason h, fun h => absurd h notClosing⟩
  closing p closing := by
    obtain ⟨-, -, notClosing, -⟩ := straySelect_session p
    exact absurd closing notClosing
  activeJob p := by
    obtain ⟨-, idle, notClosing, -⟩ := straySelect_session p
    exact ⟨fun h => absurd (idle.symm.trans h) nofun, fun h => absurd h.1 notClosing⟩
  notOpen p unopened := by
    obtain ⟨-, -, -, rest⟩ := straySelect_session p
    obtain ⟨notZero, notOne, -, -⟩ := rest unopened
    refine ⟨straySelect_resolve p, by rw [straySelect_map]; rfl, by rw [straySelect_map]; rfl, fun l mem => ?_, nofun,
      by rw [straySelect_ownedBy, if_neg notZero], fun q used => ?_⟩
    · rw [List.mem_singleton.mp mem]
      simp [LockEntry.holds, LockEntry.waits, awaitedLock, Ne.symm notZero, Ne.symm notOne]
    · rw [straySelect_inUse used, straySelect_page]
      simp [noGrants]
  closed p closed := by
    obtain ⟨-, -, -, rest⟩ := straySelect_session p
    obtain ⟨-, -, none, slots⟩ := rest (by rw [closed]; nofun)
    exact ⟨none, slots, nofun⟩

/-- The occupied slots are the two of port 0. -/
theorem straySelect_slots {p : Port} {x : Slot} (mem : x ∈ (straySelect.port p).slots) :
    p = 0 ∧ (x = readSlot ∨ x = straySlot) := by
  match p with
  | 0 =>
    have slots : (straySelect.port 0).slots = [readSlot, straySlot] := rfl
    rw [slots] at mem
    exact ⟨rfl, by simpa using mem⟩
  | 1 | 2 | 3 => cases mem

theorem straySelect_waiters : straySelect.WaitersSound where
  waiting p x mem waiting := by
    obtain ⟨rfl, rfl | rfl⟩ := straySelect_slots mem
    · cases waiting
    · exact ⟨_, List.mem_singleton_self _, _, List.mem_singleton_self _, rfl, rfl⟩
  slot l mem w waits := by
    obtain rfl := List.mem_singleton.mp mem
    obtain rfl := List.mem_singleton.mp waits
    exact ⟨straySlot, List.mem_cons_of_mem _ (List.mem_singleton_self _), rfl, rfl⟩
  tagsOnce := List.nodup_singleton _

theorem straySelect_slotsSound : straySelect.SlotsSound where
  held p x mem held := by obtain ⟨-, rfl | rfl⟩ := straySelect_slots mem <;> cases held
  inFlight p x mem inFlight := by
    obtain ⟨rfl, rfl | rfl⟩ := straySelect_slots mem
    · exact .inl ⟨readInFlight, List.mem_singleton_self _, rfl, rfl, 0, 0, rfl, rfl⟩
    · cases inFlight
  records r mem := by
    obtain rfl := List.mem_singleton.mp mem
    exact ⟨readSlot, List.mem_cons_self, rfl, rfl⟩
  select p pending := absurd (by rw [straySelect_map]; rfl) pending
  close p reason := by
    obtain ⟨none, -, -, -⟩ := straySelect_session p
    rw [none] at reason
    cases reason

theorem straySelect_sound : straySelect.Sound where
  phase := ⟨nofun, nofun⟩
  pool := rfl
  directory := straySelect_directory
  marks := straySelect_marks
  mapCounts := straySelect_mapCounts
  pinCounts := straySelect_pinCounts
  ports := straySelect_ports
  transmitters := straySelect_transmitters
  holder := nofun
  locks := straySelect_locks
  jobs := ⟨Nat.zero_le _, fun _ => Nat.zero_le _, List.nodup_nil, Nat.zero_le _⟩
  work := straySelect_work
  sessions := straySelect_sessions
  waiters := straySelect_waiters
  slots := straySelect_slotsSound

/-! ## The SELECT is deferred -/

/-- The state after the step: the SELECT of set B pending, its slot IN-FLIGHT behind the stray one. -/
def strayPending : State :=
  (({ straySelect with pending := [] } : State).handed 0 2 (.selectSet .b)).modMap 0 fun m => { m with pendingSet := some .b }

theorem step_straySelect : step straySelect = .next strayPending := by
  have takes : ({ straySelect with pending := [] } : State).Takes 0 2 := ⟨⟨rfl, rfl⟩, rfl, by decide, by decide⟩
  show exec (.selectSet 0 2 1) { straySelect with pending := [] } = _
  rw [exec_selectSet takes (set := .b) rfl, selectFrames_handed takes, if_neg (fun pending => pending rfl), if_neg nofun,
    if_neg nofun]
  rfl

theorem strayPending_slots : (strayPending.port 0).slots =
    [readSlot, straySlot, { tag := 2, request := .selectSet .b, state := .inFlight }] := rfl

/-- Refutes O59: the invariants allow a WAITING slot that holds a SELECT, and a SELECT deferred beside it is a second one. -/
theorem not_stepsKeepSessionsAndSlotsSound : ¬ Obligations.StepsKeepSessionsAndSlotsSound := by
  unfold Obligations.StepsKeepSessionsAndSlotsSound
  intro keeps
  obtain ⟨-, -, slots⟩ := keeps _ _ straySelect_sound step_straySelect
  obtain ⟨-, x, -, -, only⟩ := slots.select 0 nofun
  rw [strayPending_slots] at only
  have stray : straySlot = x := only _ (by simp) ⟨_, rfl⟩
  have deferred : ({ tag := 2, request := .selectSet .b, state := .inFlight } : Slot) = x := only _ (by simp) ⟨_, rfl⟩
  exact absurd (stray.trans deferred.symm) (by decide)

end Sys2Proof.Machine

/-! # The frame check (R168, R179) -/
namespace Sys2Proof.Machine

theorem frameCheck_append_byte (bytes : List Byte) (b : Byte) : frameCheck (bytes ++ [b]) = checkByte (frameCheck bytes) b :=
  List.foldl_concat checkByte checkStart b bytes

/-- The bit shifted out is bit 15 of the running check. -/
theorem checkBit_eq (check : BitVec 16) (bit : Bool) :
    checkBit check bit = if check.getLsbD 15 = bit then check <<< 1 else (check <<< 1) ^^^ 0x1021#16 := by
  have top : check.msb = check.getLsbD 15 := BitVec.msb_eq_getLsbD_last check
  rw [checkBit, top]
  by_cases same : check.getLsbD 15 = bit
  · rw [if_pos same, if_neg fun differs => bne_iff_ne.mp differs same]
  · rw [if_neg same, if_pos (bne_iff_ne.mpr same)]
    rfl

/-- A byte goes into the running check bit by bit, most significant bit first. -/
theorem checkByte_eq (check : BitVec 16) (b : Byte) : checkByte check b =
    [b.getLsbD 7, b.getLsbD 6, b.getLsbD 5, b.getLsbD 4, b.getLsbD 3, b.getLsbD 2, b.getLsbD 1, b.getLsbD 0].foldl
      (fun (c : BitVec 16) bit => if c.getLsbD 15 = bit then c <<< 1 else (c <<< 1) ^^^ 0x1021#16) check := by
  rw [← funext₂ checkBit_eq]
  rfl

theorem frameCheck_nineDigits : frameCheck [0x31, 0x32, 0x33, 0x34, 0x35, 0x36, 0x37, 0x38, 0x39] = 0x29B1 := by
  decide +kernel

/-- Settles O9: the running check byte by byte, each byte bit by bit. -/
theorem frameCheckIsTheCrc : Obligations.FrameCheckIsTheCrc :=
  ⟨rfl, fun bytes b => (frameCheck_append_byte bytes b).trans (checkByte_eq _ b), frameCheck_nineDigits, fun _ => rfl⟩

end Sys2Proof.Machine

/-! # The receiver, byte by byte (R164 to R167, R170, R172) -/
namespace Sys2Proof.Machine

variable {s : State} {p : Port}

/-! ## A byte and a character error, by the receiver's state (Table 8-2) -/

theorem receiveByte_marker (hunt : (s.port p).rx = .hunt) :
    s.receiveByte p 0xC3 = s.setRx p (.length 0xFFFF) (some s.config.gapTime) := by
  rw [State.receiveByte, hunt]
  exact if_pos rfl

theorem receiveByte_noMarker (hunt : (s.port p).rx = .hunt) {b : Byte} (other : b ≠ 0xC3) : s.receiveByte p b = s := by
  rw [State.receiveByte, hunt]
  exact if_neg other

theorem receiveByte_badLength {check : BitVec 16} (length : (s.port p).rx = .length check) {b : Byte}
    (size : b.toNat < 2 ∨ 252 < b.toNat) : s.receiveByte p b = s.reject p .resync (some s.config.gapTime) .length := by
  rw [State.receiveByte, length]
  exact if_neg (by omega)

theorem receiveByte_resync (resync : (s.port p).rx = .resync) (b : Byte) :
    s.receiveByte p b = s.setRx p .resync (some s.config.gapTime) := by
  rw [State.receiveByte, resync]

theorem receiveByte_badCheck {n : Nat} {body : List Byte} {check : BitVec 16} {first b : Byte}
    (last : (s.port p).rx = .check n body check (some first)) (differs : ¬ (first = checkHigh check ∧ b = checkLow check)) :
    s.receiveByte p b = s.reject p .resync (some s.config.gapTime) .check := by
  rw [State.receiveByte, last]
  exact if_neg differs

theorem receiveError_hunt (hunt : (s.port p).rx = .hunt) : s.receiveError p = s := by
  rw [State.receiveError, hunt]

theorem receiveError_resync (resync : (s.port p).rx = .resync) :
    s.receiveError p = s.setRx p .resync (some s.config.gapTime) := by
  rw [State.receiveError, resync]

/-- In RESYNC the gap timer alone is set again. -/
theorem setRx_resync (resync : (s.port p).rx = .resync) (gap : Option Nat) :
    s.setRx p .resync gap = s.modPort p fun c => { c with gap := gap } :=
  State.modPort_congr (by rw [resync])

/-! ## A complete frame (R170, R184) -/

theorem isRequestKind_iff {b : Byte} : isRequestKind b = true ↔ b >>> 4 = 1 := by
  rw [isRequestKind, beq_iff_eq, BitVec.toNat_eq, BitVec.toNat_ushiftRight, Nat.shiftRight_eq_div_pow]
  rfl

theorem frameComplete_request {b0 : Byte} (request : b0 >>> 4 = 1) (tail : List Byte) :
    s.frameComplete p (b0 :: tail) = s.judgeBody p (b0 :: tail) := if_pos (isRequestKind_iff.mpr request)

theorem frameComplete_otherKind {b0 : Byte} (other : b0 >>> 4 ≠ 1) (tail : List Byte) :
    s.frameComplete p (b0 :: tail) = s.offer p (.rejected .kind) := if_neg fun request => other (isRequestKind_iff.mp request)

/-- Settles O11: the states of the receiver in turn, and at the last byte of a frame its check and then its kind. -/
theorem receiverTakesAFrame : Obligations.ReceiverTakesAFrame := by
  intro s p b h
  rw [exec_byteReceived h.running h.line, exec_characterError h.running h.line]
  refine ⟨fun hunt => ⟨?_, fun other => ?_, ?_⟩, fun check length => ⟨fun size => ?_, fun size => ?_⟩, fun resync => ⟨?_, ?_⟩,
    fun n body check inBody => ⟨fun more => ?_, fun last => ?_⟩, fun n body check high => ?_,
    fun n body check first last => ⟨?_, fun differs => ?_⟩⟩
  · rintro rfl
    rw [receiveByte_marker hunt]
    rfl
  · rw [receiveByte_noMarker hunt other]
  · rw [receiveError_hunt hunt]
  · rw [receiveByte_length length size]
    rfl
  · rw [receiveByte_badLength length size, reject_eq]
  · rw [receiveByte_resync resync, setRx_resync resync]
  · rw [receiveError_resync resync, setRx_resync resync]
  · rw [receiveByte_body inBody, if_neg (by rwa [List.length_append, List.length_singleton])]
    rfl
  · rw [receiveByte_body inBody, if_pos (by rwa [List.length_append, List.length_singleton])]
    rfl
  · rw [receiveByte_checkHigh high]
    rfl
  · rintro ⟨rfl, rfl⟩ b0 tail rfl
    have complete := receiveByte_checkLow last
    refine ⟨fun request => ?_, fun other => ?_⟩
    · exact congrArg _ (complete.trans (frameComplete_request request tail))
    · refine congrArg _ ((complete.trans (frameComplete_otherKind other tail)).trans ?_)
      rw [State.offer, State.setRx, State.modPort_modPort]
  · rw [receiveByte_badCheck last differs, reject_eq]

end Sys2Proof.Machine

/-! # Admission to the outbound queue, and the end of a frame sent (R175 to R179) -/
namespace Sys2Proof.Machine

variable {s : State} {p : Port} {c : PortCtl}

/-! ## OVERFLOW (R178) -/

/-- OVERFLOW is due: the port is OPEN, events were lost, and the queue has room for an event. -/
def PortCtl.OverflowDue (c : PortCtl) : Prop := c.session = .opened ∧ 0 < c.lost ∧ c.outbound.length < 12

theorem admitOverflow_due (due : c.OverflowDue) : c.admitOverflow =
    { c with outbound := c.outbound ++ [.event (.overflow c.lost)], lost := 0, tx := if c.tx = .idle then .sending else c.tx } :=
  if_pos due

theorem admitOverflow_notDue (notDue : ¬ c.OverflowDue) : c.admitOverflow = c := if_neg notDue

/-! ## Events (R177) -/

theorem admitOrLose_room (room : c.outbound.length < 12) (e : Event) : c.admitOrLose e =
    { c with outbound := c.outbound ++ [.event e], tx := if c.tx = .idle then .sending else c.tx } := if_pos room

theorem admitOrLose_full (full : 12 ≤ c.outbound.length) (e : Event) : c.admitOrLose e = { c with lost := min 255 (c.lost + 1) } :=
  if_neg (Nat.not_lt.mpr full)

/-- READY, and every event but SESSION-END on an OPEN port: OVERFLOW first if it is due, then the event. -/
theorem offerEvent_counted {e : Event} (counts : ∀ reason, e ≠ .sessionEnd reason)
    (admissible : c.session = .opened ∨ ∃ kind, e = .ready kind) : c.offerEvent e = c.admitOverflow.admitOrLose e := by
  unfold PortCtl.offerEvent
  split
  · exact absurd rfl (counts _)
  · rfl
  all_goals exact if_pos (admissible.resolve_right (by rintro ⟨_, ready⟩; cases ready))

section
variable (e : Event)

/-- A second message that joins a queue finds the transmitter no longer IDLE. -/
theorem notIdle_again (tx : TxState) :
    (if (if tx = .idle then TxState.sending else tx) = .idle then .sending else if tx = .idle then .sending else tx) =
      if tx = .idle then TxState.sending else tx := by
  cases tx <;> rfl

theorem admit_behindOverflow (room : c.outbound.length < 11) (lost : 0 < c.lost) (opened : c.session = .opened) :
    c.admitOverflow.admitOrLose e =
      { c with outbound := c.outbound ++ [.event (.overflow c.lost), .event e], lost := 0,
               tx := if c.tx = .idle then .sending else c.tx } := by
  have joined : (c.outbound ++ [Message.event (.overflow c.lost)]).length < 12 := by
    rw [List.length_append, List.length_singleton]
    omega
  rw [admitOverflow_due ⟨opened, lost, by omega⟩, admitOrLose_room joined]
  simp only [List.append_assoc, List.singleton_append, notIdle_again]

/-- OVERFLOW takes the last place for events, and the event is the first of a new lost count. -/
theorem lose_behindOverflow (places : c.outbound.length = 11) (lost : 0 < c.lost) (opened : c.session = .opened) :
    c.admitOverflow.admitOrLose e =
      { c with outbound := c.outbound ++ [.event (.overflow c.lost)], lost := 1,
               tx := if c.tx = .idle then .sending else c.tx } := by
  have joined : 12 ≤ (c.outbound ++ [Message.event (.overflow c.lost)]).length := by
    rw [List.length_append, List.length_singleton]
    omega
  rw [admitOverflow_due ⟨opened, lost, by omega⟩, admitOrLose_full joined]
  rfl

theorem admit_alone (room : c.outbound.length < 12) (none : c.lost = 0 ∨ c.session ≠ .opened) :
    c.admitOverflow.admitOrLose e =
      { c with outbound := c.outbound ++ [.event e], tx := if c.tx = .idle then .sending else c.tx } := by
  have notDue : ¬ c.OverflowDue := fun ⟨opened, lost, _⟩ => none.elim (Nat.pos_iff_ne_zero.mp lost) (· opened)
  rw [admitOverflow_notDue notDue, admitOrLose_room room]

theorem lose_alone (full : 12 ≤ c.outbound.length) :
    c.admitOverflow.admitOrLose e = { c with lost := min 255 (c.lost + 1) } := by
  have notDue : ¬ c.OverflowDue := fun ⟨_, _, room⟩ => Nat.not_lt.mpr full room
  rw [admitOverflow_notDue notDue, admitOrLose_full full]

end

/-! ## LAST_BYTE_SENT (R178, R179) -/

/-- The head leaves; OVERFLOW joins what is left if it is due there, and is then itself to be sent. -/
theorem sent_eq (c : PortCtl) : c.sent =
    if c.session = .opened ∧ 0 < c.lost ∧ c.outbound.tail.length < 12 then
      { c with outbound := c.outbound.tail ++ [.event (.overflow c.lost)], lost := 0, tx := .sending }
    else { c with outbound := c.outbound.tail, tx := if c.outbound.tail = [] then .idle else .sending } := by
  by_cases due : c.session = .opened ∧ 0 < c.lost ∧ c.outbound.tail.length < 12
  · rw [if_pos due, PortCtl.sent, admitOverflow_due (c := { c with outbound := c.outbound.tail, tx := TxState.idle }) due]
    simp
  · rw [if_neg due, PortCtl.sent, admitOverflow_notDue (c := { c with outbound := c.outbound.tail, tx := TxState.idle }) due]
    simp

theorem exec_lastByteSent (running : s.phase = .running) (sending : (s.port p).tx = .sending) :
    exec (.lastByteSent p) s = .next (s.modPort p (·.sent)) := congrArg _ (if_pos ⟨isRunning_iff.mpr running, sending⟩)

theorem exec_lastByteSent_idle (silent : (s.port p).tx ≠ .sending) : exec (.lastByteSent p) s = .next s :=
  congrArg _ (if_neg fun due => silent due.2)

/-- Settles O13: an event by what OVERFLOW finds before it, and the last byte of a frame by what it leaves. -/
theorem outboundQueueAdmitsAndSends : Obligations.OutboundQueueAdmitsAndSends := by
  refine ⟨fun c => ⟨fun _ _ _ _ => rfl, fun _ => rfl, fun e counts => ⟨fun ⟨notOpen, ready⟩ => ?_, fun admissible => ?_⟩⟩,
    fun s p running => ⟨fun sending => ?_, exec_lastByteSent_idle⟩⟩
  · exact offerEvent_unopened notOpen ready counts
  · rw [offerEvent_counted counts admissible]
    exact ⟨admit_behindOverflow e, lose_behindOverflow e, admit_alone e, lose_alone e⟩
  · rw [exec_lastByteSent running sending]
    exact congrArg _ (State.modPort_congr (sent_eq _))

end Sys2Proof.Machine

/-! # RUNNING_ENTRY (R182, R203 to R206) -/
namespace Sys2Proof.Machine

variable {s : State}

/-- RUNNING_ENTRY is due at the end of CLEARING, and after the reset line once every bank has finished (R203, R205). -/
theorem mayRun_iff : s.mayRun = true ↔ s.phase = .clearing ∨ s.phase = .reset ∧ s.supplyGood = true ∧
    s.resetAsserted = false ∧ s.nextStart = .resetLine ∧ ∀ b, s.queue b = [] := by
  rw [State.mayRun]
  cases phase : s.phase
  case reset => simp [and_assoc]
  case clearing => simp
  case running => simp

theorem exec_runningEntry (due : s.mayRun = true) (a b c d : Straps) :
    exec (.runningEntry a b c d) s = .next (s.enterRunning #v[a, b, c, d]) := congrArg _ (if_pos due)

theorem exec_runningEntry_idle (early : ¬ s.mayRun = true) (a b c d : Straps) : exec (.runningEntry a b c d) s = .next s :=
  congrArg _ (if_neg early)

/-- READY is the first message of a silent port, and is sent unless a break keeps the transmitter STOPPED (R182). -/
theorem silence_ready {c : PortCtl} (closed : c.session = .closed) (kind : ResetKind) : c.silence.offerEvent (.ready kind) =
    { c with
      outbound := [.event (.ready kind)], gap := none, rx := if c.breakInForce then .resync else .hunt,
      tx := if c.breakInForce then .stopped else .sending } := by
  have notOpen : c.silence.session ≠ .opened := by
    show c.session ≠ .opened
    rw [closed]
    nofun
  have empty : c.silence.outbound.length < 12 := Nat.succ_pos 11
  rw [offerEvent_counted (fun _ => Event.noConfusion) (.inr ⟨kind, rfl⟩), admit_alone _ empty (.inr notOpen)]
  cases line : c.breakInForce <;> simp [PortCtl.silence, line]

/-- Settles O6. -/
theorem runningEntryOffersReady : Obligations.RunningEntryOffersReady := by
  intro s a b c d
  refine ⟨fun closed due => ?_, fun running => ?_, fun reset notYet => ?_⟩
  · refine ⟨_, exec_runningEntry (mayRun_iff.mpr due) a b c d, ?_⟩
    rw [enterRunning_eq]
    refine ⟨rfl, fun p => ?_, rfl⟩
    obtain ⟨session, -, -⟩ := closed p
    rw [← silence_ready session s.nextStart]
    exact getElem_mapEach s.ports (fun _ c => c.silence.offerEvent (.ready s.nextStart)) p.val p.isLt
  · refine exec_runningEntry_idle (fun due => ?_) a b c d
    rcases mayRun_iff.mp due with clearing | ⟨reset, -⟩
    · rw [running] at clearing; cases clearing
    · rw [running] at reset; cases reset
  · refine exec_runningEntry_idle (fun due => ?_) a b c d
    rcases mayRun_iff.mp due with clearing | ⟨-, supply, released, start, queues⟩
    · rw [reset] at clearing; cases clearing
    · rcases notYet with down | asserted | powerOn | ⟨b, carries⟩
      · rw [supply] at down; cases down
      · rw [released] at asserted; cases asserted
      · rw [start] at powerOn; cases powerOn
      · exact carries (queues b)

end Sys2Proof.Machine

/-! # The bytes of replies and events (R183, R184, R187 to R191) -/
namespace Sys2Proof.Machine

/-! ## Fields -/

/-- The number above the k low bits, in one byte, whatever the width that carries it. -/
theorem setWidth_ushiftRight_ofNat {w k : Nat} (inside : k + 8 ≤ w) (n : Nat) :
    ((BitVec.ofNat w n) >>> k).setWidth 8 = BitVec.ofNat 8 (n / 2 ^ k) := by
  refine BitVec.eq_of_getLsbD_eq fun i bound => ?_
  have carried : k + i < w := by omega
  rw [BitVec.getLsbD_setWidth, BitVec.getLsbD_ushiftRight, BitVec.getLsbD_ofNat, BitVec.getLsbD_ofNat,
    Nat.testBit_div_two_pow, Nat.add_comm i k]
  simp [bound, carried]

/-- A two-byte field, the less significant byte first (R183). -/
theorem halfField_eq : halfField = fun n => [BitVec.ofNat 8 n, BitVec.ofNat 8 (n / 256)] := by
  funext n
  rw [halfField, halfBytes, BitVec.setWidth_ofNat_of_le (by decide), setWidth_ushiftRight_ofNat (by decide)]
  rfl

/-- A four-byte field, the least significant byte first (R183). -/
theorem wordField_eq : wordField = fun n =>
    [BitVec.ofNat 8 n, BitVec.ofNat 8 (n / 256), BitVec.ofNat 8 (n / 65536), BitVec.ofNat 8 (n / 16777216)] := by
  funext n
  rw [wordField, wordBytes, BitVec.setWidth_ofNat_of_le (by decide), setWidth_ushiftRight_ofNat (by decide),
    setWidth_ushiftRight_ofNat (by decide), setWidth_ushiftRight_ofNat (by decide)]
  rfl

/-- A pool word goes out as the number it holds. -/
theorem wordBytes_eq (w : Word) : wordBytes w = wordField w.toNat := by
  rw [wordField, BitVec.ofNat_toNat, BitVec.setWidth_eq]

theorem yesNo_eq (b : Bool) : yesNo b = if b = true then [1#8] else [0#8] := by cases b <;> rfl

/-- The byte of a set (Table 9-3). -/
def setByte : MapSet → Byte
  | .a => 0#8
  | .b => 1#8

theorem byteField_set (x : MapSet) : byteField x.code = [setByte x] := by cases x <;> rfl

/-- The fields of the four banks, ports or quotas stand one behind the other. -/
theorem append_flatMap_four {α β : Type} (front : List β) (v : Vector α 4) (f : α → List β) :
    front ++ v.toList.flatMap f = front ++ f v[0] ++ f v[1] ++ f v[2] ++ f v[3] := by
  have listed : v.toList = [v[0], v[1], v[2], v[3]] := by
    refine List.ext_getElem (by simp) fun i _ bound => ?_
    match i, bound with
    | 0, _ | 1, _ | 2, _ | 3, _ => rfl
  simp [listed]

/-! ## The frame on the line (R179) -/

section
variable {s : State} {p : Port} {m : Message} {rest : List Message}

theorem frameOnLine_sending (sending : (s.port p).tx = .sending) (head : (s.port p).outbound = m :: rest) :
    s.frameOnLine p = some (frameOf m.body) := by
  rw [State.frameOnLine, if_pos sending, head]
  rfl

theorem frameOnLine_silent (silent : (s.port p).tx ≠ .sending) : s.frameOnLine p = none := if_neg silent

end

/-! ## The layouts -/

/-- Settles O14: each layout is the model's own, field by field, once the fields are written as bytes. -/
theorem repliesAndEventsOnTheLine : Obligations.RepliesAndEventsOnTheLine := by
  unfold Obligations.RepliesAndEventsOnTheLine
  intro n1 n2 n4 word flag set absent
  refine ⟨fun s p => ⟨fun _ _ => frameOnLine_sending, frameOnLine_silent⟩, fun t code st pay => rfl, fun e => rfl,
    by decide, by decide, ?replies, fun kind => ⟨rfl, rfl⟩, fun reason => ⟨rfl, rfl⟩, fun lost => ⟨rfl, rfl⟩,
    fun q pairs => ⟨rfl, ?mapChanged⟩, fun q => ⟨rfl, ?leaseLost⟩, fun id outcome moved => ⟨rfl, ?jobEnd⟩,
    fun b state cause => ⟨rfl, rfl⟩, ⟨rfl, rfl⟩, fun p reason => ⟨rfl, rfl⟩, fun reason => ⟨rfl, rfl⟩⟩
  case replies =>
    refine ⟨rfl, fun p held quota owned => ?session, fun ps => ?pages, fun q r => ?pageRecord, fun q => ?previous,
      fun present pending x first es => ?selection, fun data => rfl, fun w => ?old, fun w swapped => ?oldSwapped, yesNo_eq,
      fun w o => ?countdown, fun q ms => ?lease, fun id => rfl, fun position j => ?job, fun c => ?config,
      fun free banks role sessions => ?pool⟩
    case session =>
      rw [Payload.fields, yesNo_eq, halfField_eq]
      rfl
    case pages =>
      rw [Payload.fields, halfField_eq]
      rfl
    case pageRecord =>
      rw [Payload.fields, append_flatMap_four, yesNo_eq, halfField_eq]
      cases r.owner <;> rfl
    case previous =>
      rw [Payload.fields]
      cases q with
      | none => rfl
      | some q => rw [optPage, halfField_eq]
    case selection =>
      rw [Payload.fields, byteField_set, byteField_set]
      refine congrArg₂ (· ++ ·) ?_ (List.flatMap_congr fun e _ => ?_)
      · cases pending with
        | none => rfl
        | some y => rw [optSet, byteField_set]; rfl
      · rcases e with _ | ⟨page, access⟩
        · rfl
        · rw [entryField, halfField_eq]
          cases access <;> rfl
    case old => rw [Payload.fields, wordBytes_eq, wordField_eq]
    case oldSwapped => rw [Payload.fields, wordBytes_eq, wordField_eq, yesNo_eq]
    case countdown =>
      rw [Payload.fields, wordBytes_eq, wordField_eq]
      rfl
    case lease => rw [Payload.fields, halfField_eq]
    case job =>
      rw [Payload.fields, wordField_eq, byteField_set]
      cases j.kind with
      | copy src _ _ => rw [JobKind.srcSet, optSet, byteField_set]; rfl
      | fill _ => rfl
    case config =>
      rw [Payload.fields, append_flatMap_four, halfField_eq]
      rfl
    case pool =>
      rw [Payload.fields, append_flatMap_four, append_flatMap_four]
      cases role <;> simp only [bankField, halfField_eq] <;> rfl
  case mapChanged =>
    simp only [Event.fields, halfField_eq, byteField_set]
    rfl
  case leaseLost => rw [Event.fields, halfField_eq]
  case jobEnd =>
    rw [Event.fields, wordField_eq]
    rfl

end Sys2Proof.Machine

/-! # Every step keeps the role vacant or with an OPEN port (R192 to R196) -/
namespace Sys2Proof.Machine

variable {s u : State} {c d : PortCtl} {p : Port}

/-- No move of a Port Controller alone changes its session. -/
theorem PortMove.session (m : PortMove c d) : d.session = c.session := by
  cases m
  case answer t code st pay => exact ((told_freeSlot c t).trans (told_offerReply _ t code st pay)).session
  case refuse t code st => exact offerReply_session c t code st .none
  case event e => exact offerEvent_session c e
  case sent => exact admitOverflow_session { c with outbound := c.outbound.tail, tx := TxState.idle }
  all_goals rfl

/-- The role and the sessions decide. -/
theorem State.HolderOpen.same (h : s.HolderOpen) (role : u.role = s.role)
    (session : ∀ x, (u.port x).session = (s.port x).session) : u.HolderOpen := fun x holds =>
  (session x).trans (h x (role.symm.trans holds))

theorem State.HolderOpen.samePorts (h : s.HolderOpen) (role : u.role = s.role) (ports : u.ports = s.ports) : u.HolderOpen :=
  h.same role fun x => by simp only [State.port, ports]

theorem State.HolderOpen.eachPort (h : s.HolderOpen) {f : PortCtl → PortCtl} (role : u.role = s.role)
    (ports : u.ports = mapEach s.ports fun _ => f) (session : ∀ c, (f c).session = c.session) : u.HolderOpen :=
  h.same role fun x => by simp only [State.port, ports, Fin.getElem_fin, getElem_mapEach, session]

/-- A change of one Port Controller that ends no OPEN session. -/
theorem State.HolderOpen.modPort (h : s.HolderOpen) {f : PortCtl → PortCtl}
    (kept : (s.port p).session = .opened → (f (s.port p)).session = .opened) : (s.modPort p f).HolderOpen := fun x holds => by
  rw [State.port_modPort]
  split
  · next own => exact kept (own ▸ h x holds)
  · exact h x holds

theorem openSession_port_ne {x : Port} (other : x ≠ p) : (s.openSession p).port x = s.port x :=
  State.port_modPort_ne s p (fun c =>
    { c with session := .opened, closeReason := none, inFlight := 0, activeJob := false, lost := 0 }) other

theorem beginClosing_port_ne {x : Port} (other : x ≠ p) (reason : CloseReason) :
    (s.beginClosing p reason).port x = s.port x := State.port_modPort_ne s p (·.beginClosing reason) other

/-- A vacant role goes to the port that opens, and a role that is held stays (R193). -/
theorem State.HolderOpen.openSession (h : s.HolderOpen) (p : Port) : (s.openSession p).HolderOpen := fun x holds => by
  by_cases own : x = p
  · rw [own, openSession_port]
  · have holds : (if s.role = none then some p else s.role) = some x := roleAtOpen_eq.symm.trans holds
    have held : s.role = some x := by
      split at holds
      · exact absurd (Option.some.inj holds).symm own
      · exact holds
    rw [openSession_port_ne own]
    exact h x held

/-- The teardown of the holder vacates the role (R196). -/
theorem State.HolderOpen.beginClosing (h : s.HolderOpen) (p : Port) (reason : CloseReason) :
    (s.beginClosing p reason).HolderOpen := fun x holds => by
  have holds : (if s.role = some p then none else s.role) = some x := holds
  split at holds
  · cases holds
  · next other =>
    have apart : x ≠ p := fun own => other (own ▸ holds)
    rw [beginClosing_port_ne apart]
    exact h x holds

theorem holderOpen_of_vacant (vacant : s.role = none) : s.HolderOpen := fun _ holds => by
  rw [vacant] at holds
  cases holds

theorem powerOnTables_role : s.powerOnTables.role = none := by rw [State.powerOnTables, State.reset]

/-- Every move keeps it: the Supervisor Unit gives the role to OPEN ports alone (R193 to R195), and only the beginning of a
teardown ends an OPEN session. -/
theorem State.HolderOpen.move (m : Move s u) (h : s.HolderOpen) : u.HolderOpen := by
  cases m
  case port p f m => exact h.modPort fun opened => m.session.trans opened
  case openSession p _ => exact h.openSession p
  case beginClosing p reason _ => exact h.beginClosing p reason
  case closed p closing => exact h.modPort fun opened => absurd (closing.symm.trans opened) nofun
  case role p opened => exact fun x holds => Option.some.inj holds ▸ opened
  case lineBreak p b _ => exact h.modPort fun opened => opened
  case take p n _ => exact h.samePorts (by rw [takePages_rest]) (takePages_ports n)
  case lowerTimers => exact h.eachPort rfl rfl fun _ => rfl
  case halt => exact h.eachPort rfl rfl fun _ => rfl
  case enter => exact h.eachPort rfl rfl fun _ => rfl
  case clear => exact holderOpen_of_vacant (powerOnTables_role (s := s))
  case resetLine => exact holderOpen_of_vacant (powerOnTables_role (s := s))
  all_goals exact h.samePorts rfl rfl

/-- Settles O55, move by move. -/
theorem stepsKeepTheHolderOpen : Obligations.StepsKeepTheHolderOpen := fun _ _ h taken =>
  step_keeps (fun _ _ m => State.HolderOpen.move m) (fun _ _ h => h) taken h

end Sys2Proof.Machine

/-! # CLAIM and HANDOVER (R194, R195) -/
namespace Sys2Proof.Machine

variable {s : State} {p : Port} {t : Tag}

theorem claim_vacant (vacant : s.role = none) : s.claim p t = ({ s with role := some p } : State).answer p t 0x04 .ok := by
  simp only [State.claim, vacant]

theorem claim_holder (role : s.role = some p) : s.claim p t = s.answer p t 0x04 .ok := by
  simp only [State.claim, role, if_true]

theorem claim_other {x : Port} (role : s.role = some x) (other : x ≠ p) : s.claim p t = s.answer p t 0x04 .badState := by
  simp only [State.claim, role, if_neg other]

theorem handover_bounds {target : Byte} (bounds : 4 ≤ target.toNat) : s.handover p t target = s.answer p t 0x05 .bounds := by
  simp only [State.handover, below_eq_none.mpr bounds]

theorem handover_badState {target : Byte} {x : Port} (named : x.val = target.toNat)
    (bad : x = p ∨ (s.port x).session ≠ .opened) : s.handover p t target = s.answer p t 0x05 .badState := by
  simp only [State.handover, below_eq_some.mpr named.symm]
  rcases bad with own | closed
  · exact if_pos own
  · have shut : (!s.isOpen x) = true := by rw [Bool.not_eq_true', ← Bool.not_eq_true, isOpen_iff]; exact closed
    rw [if_pos shut, ite_self]

theorem handover_opened {target : Byte} {x : Port} (named : x.val = target.toNat) (other : x ≠ p)
    (opened : (s.port x).session = .opened) :
    s.handover p t target = (({ s with role := some x } : State).answer p t 0x05 .ok).offer x .roleGained := by
  simp only [State.handover, below_eq_some.mpr named.symm, if_neg other, isOpen_iff.mpr opened, Bool.not_true,
    Bool.false_eq_true, if_false]

theorem exec_claim (h : s.Takes p t) : exec (.claim p t) s = .next ((s.handed p t .claim).claim p t) :=
  congrArg Host.Outcome.next (receive_handed h 0x04 nofun rfl)

theorem exec_handover (h : s.Takes p t) (role : s.role = some p) (target : Byte) :
    exec (.handover p t target) s = .next ((s.handed p t (.handover target)).handover p t target) :=
  congrArg Host.Outcome.next (receive_handed h 0x05 (fun _ => role) rfl)

/-- The role record may be written before a request takes its slot. -/
theorem handed_answer_role (h : s.Takes p t) (r : Request) (role : Option Port) (code : Byte) (st : Status) :
    ({ s.handed p t r with role := role } : State).answer p t code st = ({ s with role := role } : State).reply p t code st :=
  answer_withSlot (s := { s with role := role }) h.tagFree r .inFlight code st .none

/-- Settles O20: CLAIM by who holds the role, HANDOVER by its checks in order. -/
theorem rolePassesByClaimAndHandover : Obligations.RolePassesByClaimAndHandover := by
  refine fun p t s h => ⟨fun vacant => ?_, fun role => ?_, fun x role other => ?_, fun role target => ?_⟩
  · rw [exec_claim h, claim_vacant (s := s.handed p t .claim) vacant, handed_answer_role h]
  · rw [exec_claim h, claim_holder (s := s.handed p t .claim) role, handed_answer h]
  · rw [exec_claim h, claim_other (s := s.handed p t .claim) role other, handed_answer h]
  · have session : ∀ x, ((s.handed p t (.handover target)).port x).session = (s.port x).session :=
      withSlot_session s p t (.handover target) .inFlight
    rw [exec_handover h role]
    refine ⟨fun bounds => ?_, fun x named => ⟨fun bad => ?_, fun other opened => ?_⟩⟩
    · rw [handover_bounds bounds, handed_answer h]
    · rw [handover_badState named (bad.imp_right fun closed => (session x).trans_ne closed), handed_answer h]
    · rw [handover_opened named other ((session x).trans opened), handed_answer_role h]
      rfl

end Sys2Proof.Machine

/-! # CONFIGURE (R135, R190, R198, R199) -/
namespace Sys2Proof.Machine

variable {s : State} {p : Port} {t : Tag}

/-! ## The fields that the mask names -/

theorem named_any {α : Type} {mask : Byte} {bit : Nat} {x : α} {f : α → Bool} :
    (named mask bit x).any f = true ↔ mask.getLsbD bit = true ∧ f x = true := by
  unfold named
  split
  · next set => simp [set]
  · next clear => simp [clear]

/-- What a field is written to: its own value where the mask names it, and the value before otherwise. -/
theorem named_getD {α β : Type} {mask : Byte} {bit : Nat} {x : α} {f : α → β} {before : β} :
    ((named mask bit x).map f).getD before = if mask.getLsbD bit = true then f x else before := by
  unfold named
  split <;> rfl

theorem named_isSome {α : Type} {mask : Byte} {bit : Nat} {x : α} : (named mask bit x).isSome = mask.getLsbD bit := by
  unfold named
  cases mask.getLsbD bit <;> rfl

/-- The fields of a CONFIGURE command. -/
def configFieldsOf (mask gap : Byte) (lease : Half) (limit : Byte) (q0 q1 q2 q3 : Half) : ConfigFields :=
  { gap := named mask 0 gap, lease := named mask 1 lease, limit := named mask 2 limit,
    quotas := #v[named mask 3 q0, named mask 4 q1, named mask 5 q2, named mask 6 q3] }

section
variable (mask gap : Byte) (lease : Half) (limit : Byte) (q0 q1 q2 q3 : Half)

/-- With bit 7 of the mask clear the command spells a request (R190). -/
theorem configureRequest_eq (clear : mask.getLsbD 7 = false) :
    configureRequest mask gap lease limit q0 q1 q2 q3 = some (.configure (configFieldsOf mask gap lease limit q0 q1 q2 q3)) :=
  if_neg (by rw [clear]; nofun)

/-- The BOUNDS conditions, each for a field that the mask names (R198 order 1). -/
theorem configure_outOfRange_iff : (configFieldsOf mask gap lease limit q0 q1 q2 q3).outOfRange = true ↔
    (mask.getLsbD 0 = true ∧ gap.toNat = 0) ∨ (mask.getLsbD 1 = true ∧ lease.toNat = 0) ∨
    (mask.getLsbD 2 = true ∧ (limit.toNat = 0 ∨ 64 < limit.toNat)) ∨ (mask.getLsbD 3 = true ∧ 2048 < q0.toNat) ∨
    (mask.getLsbD 4 = true ∧ 2048 < q1.toNat) ∨ (mask.getLsbD 5 = true ∧ 2048 < q2.toNat) ∨
    (mask.getLsbD 6 = true ∧ 2048 < q3.toNat) := by
  have zero : ∀ {n : Nat} (x : BitVec n), x = 0 ↔ x.toNat = 0 := fun x => by rw [← BitVec.toNat_inj]; rfl
  have quotas : ∀ a b c d : Option Half, #v[a, b, c, d].toList = [a, b, c, d] := fun _ _ _ _ => rfl
  simp only [ConfigFields.outOfRange, configFieldsOf, quotas, List.any_cons, List.any_nil, Bool.or_eq_true, named_any,
    beq_iff_eq, zero, decide_eq_true_eq, Bool.or_false, or_assoc]

/-- The QUOTA conditions, each for a quota that the mask names (R198 order 2). -/
theorem configure_quotaTooLow_iff : s.quotaTooLow (configFieldsOf mask gap lease limit q0 q1 q2 q3) = true ↔
    (mask.getLsbD 3 = true ∧ q0.toNat < s.ownedBy 0) ∨ (mask.getLsbD 4 = true ∧ q1.toNat < s.ownedBy 1) ∨
    (mask.getLsbD 5 = true ∧ q2.toNat < s.ownedBy 2) ∨ (mask.getLsbD 6 = true ∧ q3.toNat < s.ownedBy 3) := by
  have ports : List.finRange 4 = [0, 1, 2, 3] := rfl
  have low : ∀ (bit : Nat) (q : Half) (owned : Nat),
      ((named mask bit q).any fun n => n.toNat < owned) = true ↔ mask.getLsbD bit = true ∧ q.toNat < owned :=
    fun bit q owned => named_any.trans (and_congr_right fun _ => decide_eq_true_iff)
  simp only [State.quotaTooLow, ports, List.any_cons, List.any_nil, Bool.or_eq_true, Bool.or_false]
  exact or_congr (low 3 q0 _) (or_congr (low 4 q1 _) (or_congr (low 5 q2 _) (low 6 q3 _)))

/-- The record written: a named field takes the command's value, and the others stay (R199). -/
theorem configure_write_eq (c : ConfigRec) : c.write (configFieldsOf mask gap lease limit q0 q1 q2 q3) =
    { gapTime := if mask.getLsbD 0 = true then gap.toNat else c.gapTime
      defaultLease := if mask.getLsbD 1 = true then lease.toNat else c.defaultLease
      retireLimit := if mask.getLsbD 2 = true then limit.toNat else c.retireLimit
      quota := #v[if mask.getLsbD 3 = true then q0.toNat else c.quota[0],
                  if mask.getLsbD 4 = true then q1.toNat else c.quota[1],
                  if mask.getLsbD 5 = true then q2.toNat else c.quota[2],
                  if mask.getLsbD 6 = true then q3.toNat else c.quota[3]] } := by
  simp only [ConfigRec.write, configFieldsOf, named_getD, ConfigRec.mk.injEq, true_and]
  ext i bound
  rw [getElem_mapEach]
  match i, bound with
  | 0, _ => exact named_getD
  | 1, _ => exact named_getD
  | 2, _ => exact named_getD
  | 3, _ => exact named_getD

/-- A CONFIGURE that is taken reaches the Supervisor Unit with the fields that its mask names. -/
theorem exec_configure (h : s.Takes p t) (role : s.role = some p) (clear : mask.getLsbD 7 = false) :
    exec (.configure p t mask gap lease limit q0 q1 q2 q3) s = .next
      (let f := configFieldsOf mask gap lease limit q0 q1 q2 q3
       (s.handed p t (.configure f)).configure p t f) := by
  show Host.Outcome.next (s.receive p t 0x60 (.ofOption (configureRequest mask gap lease limit q0 q1 q2 q3))) = _
  rw [configureRequest_eq mask gap lease limit q0 q1 q2 q3 clear]
  exact congrArg _ (receive_handed h 0x60 (fun _ => role) rfl)

end

/-! ## The request at the Supervisor Unit (R198, R199) -/

/-- The record may be written before a request takes its slot. -/
theorem handed_answer_config (h : s.Takes p t) (r : Request) (config : ConfigRec) (code : Byte) (st : Status) (pay : Payload) :
    ({ s.handed p t r with config := config } : State).answer p t code st pay =
      ({ s with config := config } : State).reply p t code st pay :=
  answer_withSlot (s := { s with config := config }) h.tagFree r .inFlight code st pay

section
variable {f : ConfigFields}

theorem configure_bounds (h : s.Takes p t) (bad : f.outOfRange = true) :
    (s.handed p t (.configure f)).configure p t f = s.reply p t 0x60 .bounds := by
  rw [State.configure, if_pos bad, handed_answer h]

theorem configure_quota (h : s.Takes p t) (inRange : ¬ f.outOfRange = true) (low : s.quotaTooLow f = true) :
    (s.handed p t (.configure f)).configure p t f = s.reply p t 0x60 .quota := by
  have low : (s.handed p t (.configure f)).quotaTooLow f = true := low
  rw [State.configure, if_neg inRange, if_pos low, handed_answer h]

/-- With every check passed the record is written, and the four retire-limit checks follow the reply where the limit is
named (R135). -/
theorem configure_written (h : s.Takes p t) (inRange : ¬ f.outOfRange = true) (enough : ¬ s.quotaTooLow f = true) :
    (s.handed p t (.configure f)).configure p t f =
      (let config := s.config.write f
       let u := ({ s with config := config } : State).reply p t 0x60 .ok (.config config)
       if f.limit.isSome then (((u.retireLimitCheck 0).retireLimitCheck 1).retireLimitCheck 2).retireLimitCheck 3 else u) := by
  have enough : ¬ (s.handed p t (.configure f)).quotaTooLow f = true := enough
  rw [State.configure, if_neg inRange, if_neg enough]
  simp only [handed_answer_config h, List.foldl_cons, List.foldl_nil]
  rfl

end

/-- Settles O49: the checks in order, each with those before it passed, and then the record field by field. -/
theorem configureWritesTheNamedFields : Obligations.ConfigureWritesTheNamedFields := by
  intro p t mask gap lease limit q0 q1 q2 q3 s h role clear
  dsimp only
  rw [exec_configure mask gap lease limit q0 q1 q2 q3 h role clear,
    ← configure_outOfRange_iff mask gap lease limit q0 q1 q2 q3, ← configure_quotaTooLow_iff mask gap lease limit q0 q1 q2 q3,
    ← configure_write_eq mask gap lease limit q0 q1 q2 q3 s.config]
  refine ⟨fun bad => congrArg _ (configure_bounds h bad), fun inRange low => congrArg _ (configure_quota h inRange low),
    fun inRange enough => ?_⟩
  rw [← named_isSome (x := limit)]
  exact congrArg _ (configure_written h inRange enough)

end Sys2Proof.Machine

/-! # Outside RUNNING (R182, R203, R205) -/
namespace Sys2Proof.Machine

variable {s u : State} {p : Port} {c : Instr} {body : List Byte}

/-- A command's effect made under a condition that RUNNING alone meets. -/
theorem next_ite_outside {due : Prop} [Decidable due] (silent : s.phase ≠ .running) (running : due → s.isRunning = true) :
    (Host.Outcome.next (if due then u else s) : Host.Outcome State Fault Refusal) = .next s :=
  congrArg _ (if_neg fun h => silent (isRunning_iff.mp (running h)))

/-- No request is taken (R203, R205). -/
theorem exec_request_outside (silent : s.phase ≠ .running) (request : requestBody c = some (p, body)) : exec c s = .next s := by
  obtain ⟨t, code, fields, -, run⟩ := exec_request request
  rw [run]
  exact next_ite_outside silent And.left

/-- The commands that are neither requests nor commands of start-up: the line's bytes and errors, the timers, and what
completes. -/
theorem exec_outside (silent : s.phase ≠ .running) (ordinary : ¬ StartUpCommand c) : exec c s = .next s := by
  cases c
  case breakBegins p => exact absurd (.breakBegins p) ordinary
  case breakEnds p => exact absurd (.breakEnds p) ordinary
  case powerOn => exact absurd .powerOn ordinary
  case supplyFails => exact absurd .supplyFails ordinary
  case resetAsserted => exact absurd .resetAsserted ordinary
  case resetReleased => exact absurd .resetReleased ordinary
  case runningEntry a b c d => exact absurd (.runningEntry a b c d) ordinary
  case operationCarriedToEnd b outcome => exact absurd (.operationCarriedToEnd b outcome) ordinary
  case byteReceived | characterError | lastByteSent => exact next_ite_outside silent And.left
  case gapTimerRunsOut | resyncEnd | tick | leaseExpiry | waitTimeout | grantStep | accessCompletionGood
      | accessCompletionUncorrectable | switch | bankOffline | jobChoice | copyReadComplete | copyReadUncorrectable
      | copyWriteComplete | closedReached => exact next_ite_outside silent id
  all_goals exact exec_request_outside silent rfl

/-- A break that is in force already is recorded again to no effect. -/
theorem exec_breakBegins_outside (silent : s.phase ≠ .running) (p : Port) :
    exec (.breakBegins p) s = .next (s.modPort p fun c => { c with breakInForce := true }) := by
  refine congrArg Host.Outcome.next (?_ : s.breakBegins p = _)
  rw [State.breakBegins]
  split
  · next broken => exact (State.modPort_id (by rw [← broken])).symm
  · exact if_neg fun running => silent (isRunning_iff.mp running)

theorem exec_breakEnds_outside (silent : s.phase ≠ .running) (p : Port) :
    exec (.breakEnds p) s = .next (s.modPort p fun c => { c with breakInForce := false }) := by
  refine congrArg Host.Outcome.next (?_ : s.breakEnds p = _)
  rw [State.breakEnds]
  split
  · next whole => exact (State.modPort_id (by rw [← (Bool.not_eq_true' _).mp whole])).symm
  · exact if_neg fun running => silent (isRunning_iff.mp running)

/-- Settles O8: a command other than those of start-up acts in RUNNING alone, and a break is recorded. -/
theorem nothingHappensOutsideRunning : Obligations.NothingHappensOutsideRunning := fun _ silent =>
  ⟨fun _ ordinary => exec_outside silent ordinary, fun p => ⟨exec_breakBegins_outside silent p, exec_breakEnds_outside silent p⟩⟩

end Sys2Proof.Machine

/-! # The character and its report (R206) -/
namespace Sys2Proof.Machine

/-! ## A byte and its levels -/

/-- A bit of the byte is 1 where its level is mark. -/
theorem getLsbD_dataByte (levels : List Level) (i : Nat) (low : i < 8) :
    (dataByte levels).getLsbD i = decide (levels[i]? = some .mark) := by
  induction levels generalizing i with
  | nil => simp [dataByte]
  | cons l ls ih =>
    cases i with
    | zero => by_cases mark : l = .mark <;> simp [dataByte, mark]
    | succ i =>
      have shifted : (dataByte (l :: ls)).getLsbD (i + 1) = (dataByte ls).getLsbD i := by
        by_cases mark : l = .mark <;> simp [dataByte, mark, low, BitVec.getLsbD_eq_getElem (Nat.lt_of_succ_lt low)]
      rw [shifted, ih i (by omega), List.getElem?_cons_succ]

theorem ofBit_eq_mark {bit : Bool} : Level.ofBit bit = .mark ↔ bit = true := by cases bit <;> simp [Level.ofBit]

theorem ofBit_ne_invalid (bit : Bool) : Level.ofBit bit ≠ .invalid := by cases bit <;> simp [Level.ofBit]

/-- The eight data levels of a byte's character. -/
def dataLevels (b : Byte) : List Level := (List.range 8).map fun i => Level.ofBit (b.getLsbD i)

theorem character_eq (b : Byte) : character b = .space :: dataLevels b ++ [.mark] := rfl

theorem dataLevels_length (b : Byte) : (dataLevels b).length = 8 := rfl

theorem dataByte_dataLevels (b : Byte) : dataByte (dataLevels b) = b := by
  refine BitVec.eq_of_getLsbD_eq fun i low => ?_
  rw [getLsbD_dataByte _ i low]
  simp [dataLevels, List.getElem?_range low, ofBit_eq_mark]

/-! ## The report of ten levels -/

variable {line : LineType} {levels : List Level}

theorem reportOf_invalid (invalid : .invalid ∈ levels) : LineType.differential.reportOf levels = .characterError :=
  if_pos ⟨rfl, List.contains_iff_mem.mpr invalid⟩

theorem reportOf_noStop (stop : levels[9]? = some .space) : line.reportOf levels = .characterError := by
  rw [LineType.reportOf, stop, if_neg (by nofun : ¬ some Level.space = some .mark), ite_self]

theorem reportOf_character (line : LineType) (b : Byte) : line.reportOf (character b) = .byte b := by
  have valid : ¬ (character b).contains .invalid = true := by
    simp [character, (ofBit_ne_invalid _).symm]
  rw [LineType.reportOf, if_neg fun bad => valid bad.2]
  show LineReport.byte (dataByte (dataLevels b)) = _
  rw [dataByte_dataLevels]

end Sys2Proof.Machine

/-! # The line interface over some bit times (R206; log entry 26) -/
namespace Sys2Proof.Machine

variable {line : LineType} {x : LineWatch} {l : Level} {levels : List Level}

/-! ## The beginning and the end of a break -/

theorem isBreak_of_mark (mark : .mark ∈ levels) : line.isBreak levels = false := by
  have noSpaces : levels.all (· == .space) = false := List.all_eq_false.mpr ⟨.mark, mark, by decide⟩
  have someValid : levels.all (· == .invalid) = false := List.all_eq_false.mpr ⟨.mark, mark, by decide⟩
  simp [LineType.isBreak, noSpaces, someValid]

theorem isBreak_of_short (short : levels.length < 20) : line.isBreak levels = false := by
  simp [LineType.isBreak, short.ne]

/-- During a break the end of the break alone is reported. -/
theorem bit_inBreak (line : LineType) (l : Level) (broken : x.inBreak = true) :
    (x.bit line l).2 = [] ∧ (x.bit line l).1.inBreak = true ∨
      (x.bit line l).2 = [.breakEnds] ∧ (x.bit line l).1.inBreak = false := by
  simp only [LineWatch.bit, broken, if_true]
  split
  · exact .inr ⟨rfl, rfl⟩
  · exact .inl ⟨rfl, rfl⟩

/-! ## A line that carries characters -/

/-- The interface on a line that has carried characters alone since it was idle: the last stop bit stands behind the levels of
the character it is in, so that no stretch of 20 levels is a break's. -/
structure LineWatch.Hearing (x : LineWatch) : Prop where
  noBreak : x.inBreak = false
  armed : x.armed = true
  stop : x.recent.length = x.character.length ∨ x.recent[x.character.length]? = some .mark

theorem idle_hearing : LineWatch.idle.Hearing := ⟨rfl, rfl, .inl rfl⟩

/-- A space level begins a character, and a character in reception takes any level. -/
theorem nextCharacter_eq (h : x.Hearing) (begun : x.character ≠ [] ∨ l = .space) : x.nextCharacter l = x.character ++ [l] :=
  if_neg fun ⟨empty, idle⟩ => begun.elim (· (List.isEmpty_iff.mp empty)) (idle ⟨h.armed, ·⟩)

/-- The last stop bit, one level further back. -/
theorem LineWatch.Hearing.recent (h : x.Hearing) (l : Level) (inside : x.character.length < 10) :
    ((l :: x.recent).take 20).length = x.character.length + 1 ∨
      ((l :: x.recent).take 20)[x.character.length + 1]? = some .mark := by
  rcases h.stop with fresh | mark
  · exact .inl (by simp [fresh]; omega)
  · exact .inr (by rw [List.getElem?_take_of_lt (by omega), List.getElem?_cons_succ, mark])

theorem LineWatch.Hearing.notBreak (h : x.Hearing) (line : LineType) (l : Level) (inside : x.character.length < 10) :
    line.isBreak ((l :: x.recent).take 20) = false := by
  rcases h.recent l inside with short | mark
  · exact isBreak_of_short (by omega)
  · exact isBreak_of_mark (List.mem_of_getElem? mark)

/-- One bit time of a character, before its stop bit and at it. -/
theorem bit_hearing (h : x.Hearing) (begun : x.character ≠ [] ∨ l = .space) (inside : x.character.length < 10) :
    x.bit line l =
      ({ recent := (l :: x.recent).take 20,
         character := if x.character.length = 9 then [] else x.character ++ [l],
         armed := !(x.character.length == 9) || l == .mark, inBreak := false },
       if x.character.length = 9 then [line.reportOf (x.character ++ [l])] else []) := by
  simp only [LineWatch.bit, h.noBreak, nextCharacter_eq h begun, h.notBreak line l inside, h.armed, Bool.false_eq_true, if_false]
  simp

theorem bit_data (h : x.Hearing) (begun : x.character ≠ [] ∨ l = .space) (inside : x.character.length < 9) :
    (x.bit line l).2 = [] ∧ (x.bit line l).1.Hearing ∧ (x.bit line l).1.character = x.character ++ [l] := by
  have notStop := inside.ne
  rw [bit_hearing h begun (by omega)]
  refine ⟨if_neg notStop, ⟨rfl, by simp [notStop], ?_⟩, if_neg notStop⟩
  simpa [notStop] using h.recent l (by omega)

theorem bit_stop (h : x.Hearing) (stop : x.character.length = 9) :
    (x.bit line .mark).2 = [line.reportOf (x.character ++ [.mark])] ∧ (x.bit line .mark).1.Hearing ∧
      (x.bit line .mark).1.character = [] := by
  rw [bit_hearing h (.inl (by rintro empty; simp [empty] at stop)) (by omega)]
  exact ⟨if_pos stop, ⟨rfl, by simp, .inr (by simp [stop])⟩, if_pos stop⟩

/-! ## The reports of a stretch of characters -/

/-- The rest of a character, with its stop bit, makes one report. -/
theorem reports_restOfCharacter (h : x.Hearing) (begun : x.character ≠ [] ∨ levels.head? = some .space)
    (count : x.character.length + levels.length = 9) :
    ∃ y : LineWatch, y.Hearing ∧ y.character = [] ∧ ∀ rest, x.reports line (levels ++ .mark :: rest) =
      line.reportOf (x.character ++ levels ++ [.mark]) :: y.reports line rest := by
  induction levels generalizing x with
  | nil =>
    obtain ⟨report, hearing, empty⟩ := bit_stop (line := line) h count
    exact ⟨_, hearing, empty, fun rest => by simp [LineWatch.reports, report]⟩
  | cons l ls ih =>
    rw [List.length_cons] at count
    have begun : x.character ≠ [] ∨ l = .space := begun.imp_right Option.some.inj
    obtain ⟨silent, hearing, longer⟩ := bit_data (line := line) h begun (by omega)
    obtain ⟨y, after, empty, reports⟩ := ih hearing (.inl (by simp [longer])) (by simp [longer]; omega)
    exact ⟨y, after, empty, fun rest => by simp [LineWatch.reports, silent, reports, longer]⟩

theorem reports_character (h : x.Hearing) (between : x.character = []) (b : Byte) :
    ∃ y : LineWatch, y.Hearing ∧ y.character = [] ∧ ∀ rest,
      x.reports line (character b ++ rest) = .byte b :: y.reports line rest := by
  obtain ⟨y, after, empty, reports⟩ := reports_restOfCharacter (line := line) (levels := .space :: dataLevels b) h (.inr rfl)
    (by rw [between]; rfl)
  refine ⟨y, after, empty, fun rest => ?_⟩
  rw [character_eq, List.append_assoc, List.singleton_append, reports, between, List.nil_append, ← character_eq,
    reportOf_character]

theorem reports_characters (h : x.Hearing) (between : x.character = []) (bytes : List Byte) :
    x.reports line (bytes.flatMap character) = bytes.map .byte := by
  induction bytes generalizing x with
  | nil => rfl
  | cons b bytes ih =>
    obtain ⟨y, after, empty, reports⟩ := reports_character (line := line) h between b
    rw [List.flatMap_cons, reports, ih after empty, List.map_cons]

end Sys2Proof.Machine

/-! # Straps, pins, and the level the transmitter drives (R179, R206, Table 11-2) -/
namespace Sys2Proof.Machine

theorem singleEnded_uses_iff {pin : LinePin} : LineType.singleEnded.uses pin = true ↔ pin = .rxA ∨ pin = .txA := by
  cases pin <;> simp [LineType.uses]

variable {s : State} {p : Port} {bit : Nat}

theorem drives_silent (silent : s.phase ≠ .running ∨ (s.port p).tx ≠ .sending) : s.drives p bit = .mark := by
  have noFrame : (if s.isRunning then s.frameOnLine p else none) = none := by
    split
    · next running => exact frameOnLine_silent (silent.resolve_left (· (isRunning_iff.mp running)))
    · rfl
  rw [State.drives, State.frameLevels, noFrame]
  rfl

theorem drives_sending {m : Message} {rest : List Message} (running : s.phase = .running) (sending : (s.port p).tx = .sending)
    (head : (s.port p).outbound = m :: rest) :
    s.drives p bit = (((frameOf m.body).flatMap character)[bit]?).getD .mark := by
  rw [State.drives, State.frameLevels, if_pos (isRunning_iff.mpr running), frameOnLine_sending sending head]

theorem drivesB_eq (s : State) (p : Port) (bit : Nat) :
    s.drivesB p bit = if (s.straps[p]).lineType = true then s.drives p bit else .mark := by
  rw [State.drivesB, Straps.line]
  cases (s.straps[p]).lineType <;> rfl

/-- Settles O10: the reports of characters by their bit times, and those of the three stretches of a break level by level. -/
theorem lineCarriesCharacters : Obligations.LineCarriesCharacters := by
  refine ⟨fun x => ⟨rfl, by simp +contextual [Straps.rate]⟩, fun pin => ⟨rfl, singleEnded_uses_iff⟩, fun b => rfl,
    fun line b levels _ => ⟨reportOf_character line b, reportOf_noStop, ?_⟩, fun line => reports_characters idle_hearing rfl,
    ?_, ?_, fun line x l => bit_inBreak line l, fun s p bit => ⟨drives_silent, fun m rest => drives_sending, drivesB_eq s p bit⟩⟩
  · rintro rfl
    exact reportOf_invalid
  · intro line; cases line <;> rfl
  · rfl

end Sys2Proof.Machine
